-- ==== Sys2Proof/Word.lean ====
section
/-! DEFINITION. The word types, the fields of an instruction word as plain data, and the plain data that the event rows of
the operation table carry (02 R47, R52; 10 R301; 22 R509). -/

namespace Sys2Proof

/-- A 64-bit register, token payload or memory word (01). -/
abbrev Word := BitVec 64

/-- One byte of memory (01 R13). -/
abbrev Byte := BitVec 8

/-- A 128-bit wide address: NODE [127:120], SERIAL [119:56], OFFSET [55:0] (00 R7). -/
abbrev Wide := BitVec 128

/-- The trigger part, bits [63:36] of every instruction word (02 R47). -/
structure Trigger where
  /-- Owning context. -/
  ctx : BitVec 2
  /-- Mask of the predicates tested. -/
  pcare : BitVec 8
  /-- Required values of the predicates tested. -/
  pval : BitVec 8
  /-- Channel tested against `tga`. -/
  cha : BitVec 3
  /-- Head test applied to `cha`. -/
  tga : BitVec 4
  /-- Second channel. -/
  chb : BitVec 3
  deriving DecidableEq, Repr

/-- The fields of the register form (02 R52). -/
structure RForm where
  trig : Trigger
  dst : BitVec 5
  sa : BitVec 5
  sb : BitVec 5
  pact : BitVec 2
  pidx : BitVec 3
  dq : BitVec 4
  mod : BitVec 4
  deriving DecidableEq, Repr

/-- The fields of the immediate form (02 R52). -/
structure IForm where
  trig : Trigger
  dst : BitVec 5
  sa : BitVec 5
  imm : BitVec 10
  dq : BitVec 4
  mod : BitVec 4
  deriving DecidableEq, Repr

/-- The fields of the W-form, used by MOVW only (02 R52). `zero` is the must-be-zero field [6:3]. -/
structure WForm where
  trig : Trigger
  dst : BitVec 5
  imm : BitVec 16
  zero : BitVec 4
  ins : BitVec 1
  hw : BitVec 2
  deriving DecidableEq, Repr

/-- The fields of the branch form (02 R52). -/
structure BForm where
  trig : Trigger
  disp : BitVec 28
  deriving DecidableEq, Repr

/-- An input that a token can arrive at: input `ch` of an element, input `i` of operator `k` of a cluster in the order of
10 R301 (MX0-3 are 0-3, ESP 4-7, GA 8-11, NRM 12-13, CVT 14-15, SUU 16-17, CNT 18-25, RED 26), or an input of
address-generator tile `g` of a die (0 the index port of 09 R264, 1 the return of a subgraph, 09 R265). Elements and
clusters are numbered in the package (00 R5). -/
inductive InPort where
  | elem (e ch : Nat)
  | oper (cl k i : Nat)
  | tile (d g i : Nat)
  deriving DecidableEq, Repr

/-- An input of a router (10 R301): a mesh port (0 W, 1 S, 2 E, 3 N, the bit numbers of 10 R302), output channel `j` of
its element, or output `i` of attachment `p`. -/
inductive RouterIn where
  | mesh (d : Nat)
  | el (j : Nat)
  | att (p i : Nat)
  deriving DecidableEq, Repr

/-- A source of memory requests: request `k` (counted in its queue) of unit `p`, the request for ring word `w` of
position `pos` of copy `k` of a die, or request `k` of a peer that waits at this home (22 R515). -/
inductive ReqSrc where
  | unit (p k : Nat)
  | copy (d k pos w : Nat)
  | home (k : Nat)
  deriving DecidableEq, Repr

/-- A sparse-update unit: one of the two of a cluster, or one of the 32 edge units of a die (10 R278). -/
inductive SuuId where
  | cluster (cl j : Nat)
  | edge (d j : Nat)
  deriving DecidableEq, Repr

/-- Edge units of a kind (10 R278). -/
def edgeUnits (kind : Nat) : Nat :=
  match kind with
  | 5 => 32
  | 6 => 16
  | 7 => 16
  | 10 => 2
  | 11 => 5
  | _ => 0

/-- Where an ECC error strikes (06 R207, 09 R250, 10 R281): a slot word, a register of a context, another part of an element, an
aligned 8-byte word of a cluster's scratchpad, the state of operator `k` of a cluster or of an edge unit (10 R278), line `n` of
a die's HBM stack (19 R479), or counter block `n`, numbered 2^32 × level + index (19 R477, R479). A register is
x0-x15, a quarter of a codebook register (64 to 512 by 64), or special register `r` (64 × (9 + r)). -/
inductive EccSite where
  | slot (e s : Nat)
  | reg (p c r : Nat)
  | element (e : Nat)
  | scratch (cl off : Nat)
  | oper (cl k : Nat)
  | edge (d kind unit : Nat)
  | line (d n : Nat)
  | block (d n : Nat)
  deriving DecidableEq, Repr

/-- What the home of a page answers to an APCMD command (22 R518). -/
inductive HomeReply where
  | agreed
  | notPeer
  | refused
  | notOpen
  | quota
  deriving DecidableEq, Repr

/-- One side of a migration (22 R518): the requester, with the home's answer, the page's 8,192 words and the frame that takes
them, or the home, asked by a node for a page on behalf of a job's DTAG. -/
inductive Migration where
  | requester (reply : HomeReply) (data : List Word) (frame : Nat)
  | home (node page : Nat) (dtag : BitVec 16)
  deriving DecidableEq, Repr

/-- One side of a grant (22 R518): the requester, with the home's answer, or the home, asked by a node for a page on behalf of a
job's DTAG. -/
inductive Granting where
  | requester (reply : HomeReply)
  | home (node page : Nat) (dtag : BitVec 16)
  deriving DecidableEq, Repr

/-- A Hedgerow packet, its header fields and its payload in clear (22 R509). -/
structure Packet where
  dst : Nat
  src : Nat
  ptype : Nat
  op : Nat
  escape : Bool
  len : Nat
  epoch : Nat
  seq : Nat
  dtag : BitVec 16
  addr : Nat
  payload : List Word
  deriving DecidableEq, Repr

/-- One contribution to a collective instance as it reaches the reducer (22 R521): the node, the issuer number of 22 R522,
the operation, the value and the root. -/
structure Contribution where
  node : Nat
  issuer : Nat
  op : Nat
  val : Word
  root : Nat
  deriving DecidableEq, Repr

/-- What an SPDM or management message of a node brings about (22 R524, R525, R530): a joiner's measurement digest, the
leader's answer to this package's own, the end of a session, a heartbeat answered or not, the answers DRAINED and SWITCHED of
the re-key in progress. -/
inductive SpdmMsg where
  | joinDigest (digest : List Word)
  | endSession
  | heartbeat (answered : Bool)
  | joinAnswer (accepted : Bool)
  | drained
  | switched
  | other
  deriving DecidableEq, Repr

/-- How the start stage in progress ends (24 R536): completed, with the dies that failed in it as a bit mask and the
firmware's control-core section as read in stage 1 (15 R392), or failed with a reason code of 24 R540. -/
inductive StageResult where
  | done (failedDies : BitVec 8) (firmware : List Word) (locked : Bool)
  | failed (reason : BitVec 8)
  deriving DecidableEq, Repr

end Sys2Proof
end

