-- ==== Sys2Proof/Syntax.lean ====
section
/-! DEFINITION. The abstract syntax: one constructor for every row of the operation table. The first 215 are instruction
words and carry the fields of their form (02 R52); the other 109 are the device's own events, which have no word, and carry
the unit they act on and what the outside world supplies. -/

namespace Sys2Proof

/-- The instructions and events of the operation table, in the table's order. -/
inductive Instr where
  | add (f : RForm)
  | sub (f : RForm)
  | mul (f : RForm)
  | mulh (f : RForm)
  | mulhu (f : RForm)
  | div (f : RForm)
  | divu (f : RForm)
  | rem (f : RForm)
  | remu (f : RForm)
  | min (f : RForm)
  | max (f : RForm)
  | minu (f : RForm)
  | maxu (f : RForm)
  | abs (f : RForm)
  | neg (f : RForm)
  | mad (f : RForm)
  | and (f : RForm)
  | or (f : RForm)
  | xor (f : RForm)
  | andn (f : RForm)
  | orn (f : RForm)
  | xnor (f : RForm)
  | shl (f : RForm)
  | shr (f : RForm)
  | sar (f : RForm)
  | rol (f : RForm)
  | ror (f : RForm)
  | clz (f : RForm)
  | ctz (f : RForm)
  | popc (f : RForm)
  | brev (f : RForm)
  | bswap (f : RForm)
  | cmp (f : RForm)
  | sel (f : RForm)
  | mov (f : RForm)
  | ext (f : RForm)
  | bfx (f : RForm)
  | bfi (f : RForm)
  | packlh (f : RForm)
  | splat (f : RForm)
  | clamp (f : RForm)
  | addi (f : IForm)
  | muli (f : IForm)
  | andi (f : IForm)
  | ori (f : IForm)
  | xori (f : IForm)
  | shli (f : IForm)
  | shri (f : IForm)
  | sari (f : IForm)
  | roli (f : IForm)
  | cmpi (f : IForm)
  | mini (f : IForm)
  | maxi (f : IForm)
  | movi (f : IForm)
  | movw (f : WForm)
  | movwIns (f : WForm)
  | pset (f : RForm)
  | pget (f : RForm)
  | plogic (f : RForm)
  | nop (f : RForm)
  | halt (f : RForm)
  | sleepu (f : RForm)
  | time (f : RForm)
  | spr (f : IForm)
  | spw (f : IForm)
  | trap (f : IForm)
  | brkpt (f : RForm)
  | trace (f : RForm)
  | fadd (f : RForm)
  | fsub (f : RForm)
  | fmul (f : RForm)
  | ffma (f : RForm)
  | ffms (f : RForm)
  | fdiv (f : RForm)
  | fsqrt (f : RForm)
  | fmin (f : RForm)
  | fmax (f : RForm)
  | fabs (f : RForm)
  | fneg (f : RForm)
  | fcmp (f : RForm)
  | fclass (f : RForm)
  | frint (f : RForm)
  | fscale (f : RForm)
  | frcpa (f : RForm)
  | badd (f : RForm)
  | bsub (f : RForm)
  | bmul (f : RForm)
  | bfma (f : RForm)
  | bmin (f : RForm)
  | bmax (f : RForm)
  | bcmp (f : RForm)
  | bdot (f : RForm)
  | bsgn (f : RForm)
  | bsum (f : RForm)
  | vadd (f : RForm)
  | vsub (f : RForm)
  | vadds (f : RForm)
  | vsubs (f : RForm)
  | vmul (f : RForm)
  | vmulh (f : RForm)
  | vmin (f : RForm)
  | vmax (f : RForm)
  | vabs (f : RForm)
  | vshl (f : RForm)
  | vshr (f : RForm)
  | vsar (f : RForm)
  | vcmp (f : RForm)
  | vsum (f : RForm)
  | vperm (f : RForm)
  | vpacks (f : RForm)
  | fcvt (f : RForm)
  | ftoi (f : RForm)
  | itof (f : RForm)
  | bcvtPack (f : RForm)
  | bcvtUnpack (f : RForm)
  | cbld (f : RForm)
  | cbdec (f : RForm)
  | cbenc (f : RForm)
  | tagset (f : RForm)
  | tagof (f : RForm)
  | csares (f : RForm)
  | csaadd (f : RForm)
  | fwd (f : RForm)
  | emit (f : RForm)
  | drop (f : RForm)
  | peek (f : RForm)
  | pgive (f : RForm)
  | chcfg (f : RForm)
  | ctrlw (f : RForm)
  | hndbind (f : RForm)
  | tsend (f : RForm)
  | tsend2 (f : RForm)
  | tdone (f : RForm)
  | tsubmit (f : RForm)
  | launch (f : RForm)
  | cancel (f : RForm)
  | wcount (f : RForm)
  | klend (f : RForm)
  | klendRet (f : RForm)
  | klendQ (f : RForm)
  | ld (f : RForm)
  | st (f : RForm)
  | stp (f : RForm)
  | ldacq (f : RForm)
  | strel (f : RForm)
  | fence (f : RForm)
  | flush (f : RForm)
  | ldw (f : RForm)
  | stw (f : RForm)
  | pref (f : RForm)
  | atom (f : RForm)
  | cas (f : RForm)
  | alloc (f : RForm)
  | free (f : RForm)
  | seal (f : RForm)
  | persist (f : RForm)
  | hbind (f : RForm)
  | hexp (f : RForm)
  | hshort (f : RForm)
  | hdrop (f : RForm)
  | objq (f : RForm)
  | planLoad (f : RForm)
  | planStep (f : RForm)
  | planDrop (f : RForm)
  | evict (f : RForm)
  | syncadd (f : RForm)
  | syncrd (f : RForm)
  | syncset (f : RForm)
  | tlook (f : RForm)
  | tset (f : RForm)
  | tclr (f : RForm)
  | tiletagCas (f : RForm)
  | tiletagSet (f : RForm)
  | tiletagRd (f : RForm)
  | sfree (f : RForm)
  | sbind (f : RForm)
  | scancel (f : RForm)
  | mxbind (f : RForm)
  | mxbindCb (f : RForm)
  | mxbindFree (f : RForm)
  | mxpri (f : RForm)
  | mxstat (f : RForm)
  | gload (f : RForm)
  | gbind (f : RForm)
  | gunload (f : RForm)
  | opcfg (f : RForm)
  | oprd (f : RForm)
  | collSumf (f : RForm)
  | collMinf (f : RForm)
  | collMaxf (f : RForm)
  | collSumi (f : RForm)
  | collMini (f : RForm)
  | collMaxi (f : RForm)
  | collBcast (f : RForm)
  | collBarrier (f : RForm)
  | br (f : BForm)
  | brl (f : BForm)
  | bx (f : RForm)
  | evpop (f : RForm)
  | mbxpop (f : RForm)
  | cfgload (f : RForm)
  | run (f : RForm)
  | runContext (f : RForm)
  | freeze (f : RForm)
  | freezeRel (f : RForm)
  | thaw (f : RForm)
  | barrier (f : RForm)
  | markSnap (f : RForm)
  | markPre (f : RForm)
  | save (f : RForm)
  | saveRel (f : RForm)
  | restore (f : RForm)
  | rekey (f : RForm)
  | resumeRetry (f : RForm)
  | resumeSkip (f : RForm)
  | resumeRoll (f : RForm)
  | resumeCancel (f : RForm)
  | illegalSlotIssue
  | brkSlotBit
  | coreFetchFault
  | resultDelivery (p : Nat) (c : Nat) (k : Nat)
  | tokenArrival (port : InPort)
  | steerResult (cl : Nat) (j : Nat)
  | discardHead (e : Nat) (ch : Nat)
  | taskPacketArrival (e : Nat) (k : Nat)
  | tlHeadChoice (e : Nat)
  | taskInject (p : Nat)
  | sleepWake (p : Nat) (c : Nat)
  | traceRecordPost (p : Nat)
  | elEventPost (e : Nat)
  | unitComplete (d : Nat) (k : Nat)
  | eccError (site : EccSite) (corrected : Bool)
  | routeToken (cl : Nat) (r : Nat) (src : RouterIn)
  | memoryRequestServe (src : ReqSrc)
  | mlResponse (p : Nat) (k : Nat)
  | strelWrite (p : Nat) (k : Nat)
  | fenceResponse (p : Nat) (k : Nat)
  | sealComplete (p : Nat) (k : Nat)
  | persistComplete (p : Nat) (k : Nat)
  | objectReclaim (serial : Nat)
  | copyPositionBegin (d : Nat) (k : Nat)
  | counterFire (cl : Nat) (j : Nat)
  | copyEnd (d : Nat) (k : Nat)
  | normalise (cl : Nat) (j : Nat)
  | convert (cl : Nat) (j : Nat)
  | suuUpdate (u : SuuId)
  | suuWindowClose (u : SuuId)
  | reduceGroup (cl : Nat)
  | coalesceIssue (d : Nat) (g : Nat)
  | mxEntryCreate (cl : Nat) (u : Nat) (t : Nat)
  | mxStandbyLatch (cl : Nat) (u : Nat)
  | mxLatchEnd (cl : Nat) (u : Nat)
  | mxPark (cl : Nat) (u : Nat)
  | mxComputeEnd (cl : Nat) (u : Nat)
  | mxDeliver (cl : Nat) (u : Nat)
  | espTokenTake (cl : Nat) (u : Nat)
  | espRowOutput (cl : Nat) (u : Nat)
  | dispatchDecide (d : Nat)
  | taskDelivery (d : Nat) (e : Nat)
  | workCounterDone (d : Nat) (lvl : Nat) (k : Nat)
  | regionComplete (d : Nat) (g : Nat)
  | eventRecordPost (d : Nat) (k : Nat)
  | faultRecord (d : Nat)
  | watchdogExpiry (d : Nat) (g : Nat)
  | cutMarkerArrival (port : InPort)
  | saveRecordWrite (d : Nat) (g : Nat)
  | cutComplete (d : Nat) (g : Nat)
  | restoreTokenEnter (d : Nat) (g : Nat)
  | islandWrite (p : Nat) (k : Nat)
  | islandChangeDone (cl : Nat)
  | jctlWrite (p : Nat) (k : Nat)
  | jkeysWrite (p : Nat) (k : Nat)
  | jtrustWrite (p : Nat) (k : Nat)
  | dbgdataRead (p : Nat) (k : Nat)
  | dbgdataWrite (p : Nat) (k : Nat)
  | nodeidWrite (p : Nat) (k : Nat)
  | apcmdGrant (side : Granting)
  | apcmdMigrate (side : Migration)
  | apcmdRevoke
  | apcmdReserved
  | modeSecureWrite (p : Nat) (k : Nat)
  | modeSnapshotWrite (p : Nat) (k : Nat)
  | modeDebugWrite (p : Nat) (k : Nat)
  | modeThrottleWrite (p : Nat) (k : Nat)
  | controlRegisterWrite (p : Nat) (k : Nat)
  | promote (page : Nat) (die : Nat) (frame : Nat) (verified : Bool)
  | evictPage (page : Nat)
  | planPrefetch (p : Nat) (page : Nat) (die : Nat) (frame : Nat)
  | durableAppend
  | compaction (seg : Nat)
  | powerLoss
  | holdupLow (pct : Nat)
  | counterReencrypt (d : Nat) (blk : Nat)
  | counterWriteback (d : Nat) (blk : Nat)
  | scrubRead (d : Nat) (flaw : Bool)
  | scrubLevel (d : Nat)
  | ptpMessage (link : Nat) (locked : Bool)
  | timeCorrection (offset : Int) (lock : Nat)
  | timeFailover
  | flitReplay (link : Nat)
  | linkStateChange (link : Nat) (st : Nat) (peer : Nat)
  | packetRoute (k : Nat) (link : Nat)
  | escapeTimeout (k : Nat)
  | packetReceive (pkt : Packet) (auth : Bool)
  | ackReceive (pkt : Packet) (auth : Bool)
  | rejectReceive (pkt : Packet) (auth : Bool)
  | collComplete (g : Nat) (remote : List Contribution)
  | spdmMessage (node : Nat) (msg : SpdmMsg)
  | rekeyDrain (epoch : Nat) (leader : Nat) (members : Nat)
  | rekeySwitch (epoch : Nat)
  | rekeyTimeout
  | mboxNop
  | mboxReadboot
  | mboxRestart
  | mboxClearfail
  | mboxMeasure
  | mboxRefused (code : Word)
  | coldStart (result : StageResult)
  | stageTimeout (failedDies : BitVec 8)
  | thermalEvent (celsius : Nat) (watts : Nat)
  | stagingBufferWriteback (bytes : Nat)
  | holdupRegained (pct : Nat)
  | powerControllerWrite (d : Nat) (reg : Nat) (val : Word)
  | lockHoldover
  deriving DecidableEq, Repr

end Sys2Proof
end

