-- ==== Sys2Proof/Machine/Agenda.lean ====
section
/-! DEFINITION. The steps a schedule can name: which agent of the device moves next (log entry 1). -/

namespace Sys2Proof

/-- One step of some agent: an event row of the operation table, one selection of an element (04 R104), one fetched word of
a control core (02 R64, 15 R393), one cycle of the 1.5 GHz clock (00 R3, R9), the supervisor's setting of the leaf entry
of a page (19 R457, log entry 9), or a change of an object at its home, another node (22 R547, log entry 90). -/
inductive Action where
  | event (i : Instr)
  | element (e : Nat)
  | core (n : Nat)
  | clock
  | mapPage (page : Nat) (tier apnode : Nat) (rap w : Bool) (job : Nat)
  | objectAt (node serial code size : Nat)
  deriving DecidableEq, Repr, Inhabited

end Sys2Proof
end

