-- ==== Sys2Proof/Machine/Bits.lean ====
section
/-! DEFINITION. Bit fields, bytes and the fields of an instruction word (00 R11, 01 R13-R14, 02 R47-R52). -/

namespace Sys2Proof.Machine

/-- Field [lo + n - 1 : lo] of a word. -/
def fld (w : Word) (lo n : Nat) : BitVec n := w.extractLsb' lo n

/-- Field [lo + n - 1 : lo] of a word as a number. -/
def fldN (w : Word) (lo n : Nat) : Nat := w.toNat / 2 ^ lo % 2 ^ n

/-- Bit `i` of a word. -/
def bitOf (w : Word) (i : Nat) : Bool := w.getLsbD i

/-- A number placed at bit `lo` of a word. -/
def put (v lo : Nat) : Word := BitVec.ofNat 64 (v * 2 ^ lo)

/-- A Boolean as the word 1 or 0. -/
def boolWord (b : Bool) : Word := if b then 1 else 0

/-- Saturating counter of `n` bits. -/
def satInc (n v : Nat) : Nat := min (v + 1) (2 ^ n - 1)

/-- Significant bits of a number. -/
def sigBits (n : Nat) : Nat := if n = 0 then 0 else Nat.log2 n + 1

/-- The low `len` bytes of a word, lowest address first (01 R13). -/
def bytesOf (len : Nat) (w : Word) : List Byte :=
  (List.range len).map fun j => w.extractLsb' (8 * j) 8

/-- The word whose bytes are given, lowest address first (01 R13). -/
def wordOf : List Byte → Word
  | [] => 0
  | b :: bs => (wordOf bs <<< 8) ||| b.setWidth 64

/-- The low `8 * len` bits of a word extended to 64 bits, by sign or by zero (07 R232). -/
def extendTo (len : Nat) (signed : Bool) (w : Word) : Word :=
  if len ≥ 8 then w
  else if signed then (w.setWidth (8 * len)).signExtend 64
  else (w.setWidth (8 * len)).setWidth 64

/-- Lane `i` of width `n` of a word (01 R14). -/
def lane (n : Nat) (w : Word) (i : Nat) : BitVec n := w.extractLsb' (n * i) n

/-- The word whose lanes of width `n` are given, lane 0 first (01 R14). -/
def ofLanes (n : Nat) : List (BitVec n) → Word
  | [] => 0
  | l :: ls => (ofLanes n ls <<< n) ||| l.setWidth 64

/-- The wide address held by the words [63:0] and [127:64] (01 R46). -/
def wideOf (lo hi : Word) : Wide := hi ++ lo

/-- NODE of a wide address (00 R7). -/
def wNode (w : Wide) : Nat := (w.extractLsb' 120 8).toNat
/-- SERIAL of a wide address (00 R7). -/
def wSerial (w : Wide) : Nat := (w.extractLsb' 56 64).toNat
/-- OFFSET of a wide address (00 R7). -/
def wOffset (w : Wide) : Nat := (w.extractLsb' 0 56).toNat
/-- The wide address of a node, a serial and an offset (00 R7). -/
def mkWide (node serial off : Nat) : Wide :=
  BitVec.ofNat 8 node ++ BitVec.ofNat 64 serial ++ BitVec.ofNat 56 off
/-- Bits [63:0] of a wide address. -/
def wLo (w : Wide) : Word := w.extractLsb' 0 64
/-- Bits [127:64] of a wide address. -/
def wHi (w : Wide) : Word := w.extractLsb' 64 64

/-- The trigger part of an instruction word (02 R47). -/
def triggerOf (w : Word) : Trigger :=
  { ctx := fld w 62 2, pcare := fld w 54 8, pval := fld w 46 8, cha := fld w 43 3, tga := fld w 39 4,
    chb := fld w 36 3 }

/-- The fields of a word read in the register form (02 R52). -/
def rformOf (w : Word) : RForm :=
  { trig := triggerOf w, dst := fld w 23 5, sa := fld w 18 5, sb := fld w 13 5, pact := fld w 11 2,
    pidx := fld w 8 3, dq := fld w 4 4, mod := fld w 0 4 }

/-- The fields of a word read in the immediate form (02 R52). -/
def iformOf (w : Word) : IForm :=
  { trig := triggerOf w, dst := fld w 23 5, sa := fld w 18 5, imm := fld w 8 10, dq := fld w 4 4,
    mod := fld w 0 4 }

/-- The fields of a word read in the W-form (02 R52). -/
def wformOf (w : Word) : WForm :=
  { trig := triggerOf w, dst := fld w 23 5, imm := fld w 7 16, zero := fld w 3 4, ins := fld w 2 1,
    hw := fld w 0 2 }

/-- The fields of a word read in the branch form (02 R52). -/
def bformOf (w : Word) : BForm := { trig := triggerOf w, disp := fld w 0 28 }

/-- Bits [63:36] of the word of a trigger part (02 R47). -/
def triggerBits (t : Trigger) : BitVec 28 := t.ctx ++ t.pcare ++ t.pval ++ t.cha ++ t.tga ++ t.chb

/-- The word of an opcode and register-form fields (02 R52). -/
def rword (opc : BitVec 8) (f : RForm) : Word :=
  triggerBits f.trig ++ opc ++ f.dst ++ f.sa ++ f.sb ++ f.pact ++ f.pidx ++ f.dq ++ f.mod

/-- The word of an opcode and immediate-form fields (02 R52). -/
def iword (opc : BitVec 8) (f : IForm) : Word :=
  triggerBits f.trig ++ opc ++ f.dst ++ f.sa ++ f.imm ++ f.dq ++ f.mod

/-- The word of MOVW's fields (02 R52). -/
def wword (opc : BitVec 8) (f : WForm) : Word :=
  triggerBits f.trig ++ opc ++ f.dst ++ f.imm ++ f.zero ++ f.ins ++ f.hw

/-- The word of a branch's fields (02 R52). -/
def bword (opc : BitVec 8) (f : BForm) : Word := triggerBits f.trig ++ opc ++ f.disp

end Sys2Proof.Machine
end

