-- ==== Sys2Proof/Machine/Maps.lean ====
section
/-! DEFINITION. Finite maps as plain data: a list of key and value pairs, keys rising, with no entry equal to what an
unlisted key reads as. Equal maps are equal lists. -/

namespace Sys2Proof.Machine

/-- A map from numbers, in canonical form when `KMap.wf` holds. -/
abbrev KMap (α : Type) := List (Nat × α)

/-- The value at a key; `d` where no entry stands. -/
def KMap.get {α : Type} (d : α) : KMap α → Nat → α
  | [], _ => d
  | (k, v) :: m, n => if n = k then v else KMap.get d m n

/-- Removes the entry of a key. -/
def KMap.erase {α : Type} (m : KMap α) (n : Nat) : KMap α := m.filter fun e => e.1 != n

/-- Puts an entry in its place among rising keys. -/
def KMap.insert {α : Type} : KMap α → Nat → α → KMap α
  | [], n, x => [(n, x)]
  | (k, v) :: m, n, x =>
    if n < k then (n, x) :: (k, v) :: m
    else if n = k then (n, x) :: m
    else (k, v) :: KMap.insert m n x

/-- Writes a value; writing what an unlisted key reads as removes the entry. -/
def KMap.set {α : Type} [DecidableEq α] (d : α) (m : KMap α) (n : Nat) (x : α) : KMap α :=
  if x = d then KMap.erase m n else KMap.insert m n x

/-- The canonical form: keys strictly rising and no entry equal to the default. -/
def KMap.wf {α : Type} [DecidableEq α] (d : α) : KMap α → Bool
  | [] => true
  | [(_, v)] => v != d
  | (k, v) :: (k', v') :: m => v != d && decide (k < k') && KMap.wf d ((k', v') :: m)

end Sys2Proof.Machine
end

