-- ==== Sys2Proof/Machine/State.lean ====
section
/-! DEFINITION. The state of one package as plain data, and its state at reset. INVENTORY.md, heading State, gives each
item's rule and reset value. Reset values the manual does not give are those of log entries 5 and 6. -/

namespace Sys2Proof.Machine

/-- Why the machine stops. Faults of the device are no stops: they are records, and the machine goes on (16 R421). -/
inductive Fault where
  /-- raised by `step` when the package has no power (24 R544: power is removed at 115 °C; 19 R473). Safe: nothing moves
  until a cold start, which the outside world makes. -/
  | unpowered
  deriving DecidableEq, Repr

/-- Why an instruction has no meaning. -/
inductive Refusal where
  /-- raised by an arm of exec whose row is not modelled. Safe: no claim about the row can be proved. -/
  | notModelled (mnemonic : String)
  deriving DecidableEq, Repr

/-! ### Tokens and channels -/

/-- Run states of a context (04 R96). -/
inductive RState where
  | run | sleep | halt | fault | saved
  deriving DecidableEq, Repr

/-- Kinds of tokens (06 R171). -/
inductive Kind where
  | data | mark | permit | ctrl
  deriving DecidableEq, Repr

/-- A token as a channel holds it (06 R170). -/
structure Token where
  kind : Kind
  tag : BitVec 3
  payload : Word
  deriving DecidableEq, Repr

/-- A token in a router, with its route tag (06 R170, 10 R303), the die and region of the unit that sent it (15 R408), and the
entry by which the router it stands in routes it, fixed when it entered; none after a RESUME.retry, by which the entry now in
force routes it (10 R304, 16 R426). `saved` lists the inputs for which an image has taken the token (16 R441). -/
structure RTok where
  route : BitVec 8
  tok : Token
  sender : Option (Nat × Nat)
  ent : Option (BitVec 16)
  saved : List InPort
  /-- the router's position when the entry was read, which a fault record names (10 R304) -/
  pos : BitVec 2 := 0
  deriving DecidableEq, Repr

/-- A channel entry: a token, or a reservation under an identifier (04 R110, 06 R174). -/
inductive Entry where
  | tok (t : Token)
  | resv (id : Nat)
  deriving DecidableEq, Repr

/-- An input channel: its entries head first, the token its link offers and the die and region that sent it (15 R408),
CHCONF (06 R173) and DRANK (06 R193). -/
structure InChan where
  q : List Entry
  link : Option Token
  linkSrc : Option (Nat × Nat)
  conf : BitVec 19
  drank : BitVec 3
  deriving DecidableEq, Repr

/-- An input channel after CFGLOAD gives it nothing: ACCEPT 0xFF (06 R173). -/
def InChan.reset : InChan := { q := [], link := none, linkSrc := none, conf := 0xFF, drank := 0 }

/-- A task packet (06 R184). -/
structure TaskPkt where
  sel : BitVec 7
  len2 : Bool
  w0 : Word
  w1 : Word
  task : BitVec 16
  taint : BitVec 4
  deriving DecidableEq, Repr

/-- A task packet on its way, with its sender (a unit, or 4,128 + die for a dispatcher), its target element and the job of a
dispatched task (06 R201, 13 R373). -/
structure NetPkt where
  src : Nat
  dst : Nat
  job : Nat
  pkt : TaskPkt
  deriving DecidableEq, Repr

/-! ### Requests -/

/-- The operations a request can carry: the instructions of the request port (07 R221, 09 R259, 10 R308, 11 R332, 12 R356,
13 R382, 15 R413, 16 R425, R440, 19 R468, 22 R520, R529). -/
inductive ReqKind where
  | ld | st | stp | ldacq | strel | fence | flush | ldw | stw | pref | atom | cas
  | alloc | free | seal | persist | hbind | hexp | hshort | hdrop | objq
  | planLoad | planStep | planDrop | evict
  | syncadd | syncrd | syncset | sfree | sbind | scancel
  | mxbind | mxbindCb | mxbindFree | mxpri | mxstat | gload | gbind | gunload | opcfg | oprd
  | tsubmit | launch | cancel | wcount | klend | klendRet | klendQ
  | coll | rekey
  | cfgload | run | freeze | freezeRel | thaw | barrier | mark | save | restore | resume
  deriving DecidableEq, Repr

/-- One request of a unit (07 R221-R223, R228): its identifier, context, slot or PC, instruction word, operation, operands
(`a`, `b` and the upper registers of pairs), MOD and RET, the job it acts for, its response words, and where it stands. -/
structure Req where
  rid : Nat
  ctx : Nat
  slot : Nat
  word : Word
  kind : ReqKind
  a : Word
  a2 : Word
  b : Word
  b2 : Word
  mode : Nat
  job : Option Nat
  resp : Nat
  /-- fault code while held under 07 R228 -/
  code : Nat
  /-- the wide address resolved, 0 before -/
  wide : Nat
  /-- its access to an object has passed translation, and is in flight (07 R218) -/
  flying : Bool
  /-- parts done of a request served in parts (a MODE write; a parked request's stage) -/
  stage : Nat
  /-- a request resent once after a reject (22 R528) -/
  resent : Bool
  /-- words of a descriptor or image read so far (20 R490, 22 R515), or one word for each byte that an access which is not aligned
  has read or written -/
  data : List Word
  /-- page whose promotion it waits for (19 R461) -/
  miss : Option Nat
  deriving DecidableEq, Repr

/-- A response on its way to ML (07 R223). -/
structure Resp where
  rid : Nat
  words : List Word
  tag : BitVec 3
  deriving DecidableEq, Repr

/-- An ML entry: the context that reserved it, its request and word number, the word once filled, its tag (07 R223-R224),
and whether an LDACQ reserved it (07 R222). -/
structure MlEntry where
  ctx : Nat
  rid : Nat
  part : Nat
  val : Option Word
  tag : BitVec 3
  acq : Bool
  deriving DecidableEq, Repr

/-! ### Contexts, elements and control cores -/

/-- A result of latency above 1 that is still to be delivered (04 R108-R109, R115). -/
structure Outst where
  /-- cycle at which it may be delivered -/
  due : Nat
  dst : BitVec 5
  vals : List Word
  tag : BitVec 3
  /-- what a predicate destination receives -/
  pv : Bool
  pact : BitVec 2
  pidx : BitVec 3
  cond : Bool
  flags : BitVec 5
  /-- the instruction can set a flag (05 R137) -/
  canFlag : Bool
  /-- reserved output entry, for DST 16-19 -/
  resv : Nat
  deriving DecidableEq, Repr

/-- How a context came to FAULT, for RESUME (16 R426): at issue, on the way to memory, at a breakpoint, or at a core's fetch
(15 R398). -/
inductive FaultKind where
  | issue | path (rid : Nat) | brk | fetch
  deriving DecidableEq, Repr

/-- A fault a context holds. -/
structure CtxFault where
  kind : FaultKind
  code : Nat
  slot : Nat
  word : Word
  /-- JOB of its record (16 R422) -/
  job : Nat
  deriving DecidableEq, Repr

/-- The state of a trigger context, and of a context of a control core, which alone uses `pc` and `ctxjob` (04 R94, R98). -/
structure Ctx where
  x : Vector Word 16
  p : BitVec 8
  fpmode : BitVec 3
  fpflags : BitVec 5
  cb0 : Vector (BitVec 16) 16
  cb1 : Vector (BitVec 16) 16
  patience : BitVec 8
  deadline : Word
  rstate : RState
  outst : List Outst
  /-- faults held, in the order taken: one at issue, or any number on the way to memory (log entry 18) -/
  faults : List CtxFault
  /-- slots whose next issue ignores their BRK bit (06 R204) -/
  stepOver : List Nat
  pc : BitVec 19
  ctxjob : BitVec 9
  deriving DecidableEq, Repr

/-- A context at reset (04 R94). -/
def Ctx.reset : Ctx :=
  { x := Vector.replicate 16 0, p := 0, fpmode := 0, fpflags := 0, cb0 := Vector.replicate 16 0,
    cb1 := Vector.replicate 16 0, patience := 0, deadline := 0, rstate := .halt, outst := [], faults := [],
    stepOver := [], pc := 0, ctxjob := 0 }

/-- A slot: its word when loaded, its pass counter W, its BRK bit, and whether its word holds an uncorrectable error
(04 R95, R99, 06 R204, R207). -/
structure Slot where
  word : Option Word
  w : Nat
  brk : Bool
  bad : Bool
  deriving DecidableEq, Repr

/-- An empty slot. -/
def Slot.reset : Slot := { word := none, w := 0, brk := false, bad := false }

/-- A selector-table entry (06 R181). -/
structure Sel where
  v : Bool
  ctx : BitVec 2
  handler : BitVec 3
  deriving DecidableEq, Repr

/-- An invalid selector-table entry. -/
def Sel.reset : Sel := { v := false, ctx := 0, handler := 0 }

/-- An open-task entry (06 R188). -/
structure OpenTask where
  task : BitVec 16
  cancelled : Bool
  deriving DecidableEq, Repr

/-- A held permit (06 R178). -/
structure Permit where
  key : BitVec 12
  taint : Bool
  deriving DecidableEq, Repr

/-- TRACECTL (06 R193). -/
structure TraceCtl where
  lost : BitVec 32
  core : BitVec 2
  drop : Bool
  en : Bool
  deriving DecidableEq, Repr

/-- A unit that issues instructions: an element, or a control core, which uses no channel, lane, selector table, hold set or
open-task table and alone uses the event queue `evq`. -/
structure Proc where
  ctxs : Vector Ctx 4
  slots : KMap Slot
  /-- the context that issued last: LAST of 04 R95, the rotating order of 15 R393 -/
  last : BitVec 2
  ins : Vector InChan 4
  outs : Vector (List Entry) 4
  sels : KMap Sel
  lanes : Vector (List TaskPkt) 8
  owners : Vector (BitVec 2) 8
  ptr : BitVec 3
  head : Option (Fin 8)
  openTasks : List OpenTask
  hold : List Permit
  ml : List MlEntry
  el : List Word
  /-- events held by their sources (06 R168, R189) -/
  elHeld : List Word
  taskOut : List NetPkt
  trace : TraceCtl
  traceBuf : Option (List Word)
  /-- the memory request queue (07 R221) -/
  reqs : List Req
  /-- requests held by a path fault (07 R228) -/
  held : List Req
  /-- requests that wait where they are served: fences, SEAL, PERSIST, residency misses, merged atomics, cuts -/
  parked : List Req
  resps : List Resp
  view : Word
  evq : List (List Word)
  /-- the die's region that holds the element (15 R407) -/
  region : Option Nat
  dirtySlots : Bool
  dirtyCtx : BitVec 4
  /-- registers that hold an uncorrectable error, 16 × context + register, where a codebook or special register stands as
  `cbSite` or `sprSite` (06 R207) -/
  badRegs : List Nat
  deriving DecidableEq, Repr

/-- A unit at reset. -/
def Proc.reset : Proc :=
  { ctxs := Vector.replicate 4 Ctx.reset, slots := [], last := 3, ins := Vector.replicate 4 InChan.reset,
    outs := Vector.replicate 4 [], sels := [], lanes := Vector.replicate 8 [], owners := Vector.replicate 8 0, ptr := 0,
    head := none, openTasks := [], hold := [], ml := [], el := [], elHeld := [], taskOut := [],
    trace := { lost := 0, core := 0, drop := false, en := false }, traceBuf := none, reqs := [], held := [],
    parked := [], resps := [], view := 0, evq := [], region := none, dirtySlots := false, dirtyCtx := 0, badRegs := [] }

/-! ### Stream operators -/

/-- A normaliser (10 R286), the word 0 that waits for word 1, and the head array of the graph that binds it (12 R355). -/
structure Nrm where
  ctrl : Word
  scale : Word
  row : BitVec 8
  status : Word
  table : KMap (BitVec 32)
  w0 : Option Word
  graph : Option Nat
  deriving DecidableEq, Repr

/-- A normaliser at reset (10 R286). -/
def Nrm.reset : Nrm := { ctrl := 0, scale := 0, row := 0, status := 0, table := [], w0 := none, graph := none }

/-- A token diverted to a converter, the input that diverted it, its reservation and CBSLOT (06 R174, 10 R289). -/
structure SteerTok where
  tok : Token
  port : InPort
  id : Nat
  cbslot : Nat
  deriving DecidableEq, Repr

/-- A converter (10 R288), the FP32 values gathered for F32PK, its steer queue and whose turn it is (10 R290). -/
structure Cvt where
  ctrl : Word
  map : Word
  status : Word
  codebook : KMap (BitVec 16)
  gathered : List (BitVec 32)
  /-- tokens of a result that are still to be sent -/
  pend : List Token
  steerQ : List SteerTok
  streamTurn : Bool
  deriving DecidableEq, Repr

/-- A converter at reset. -/
def Cvt.reset : Cvt :=
  { ctrl := 0, map := 0, status := 0, codebook := [], gathered := [], pend := [], steerQ := [], streamTurn := false }

/-- One update in a window (10 R292): its location, operation and operand, the merged atomic it came from (unit and request) or none
for the stream, and whether the unit merged when it came (10 R310). -/
structure Upd where
  loc : Nat
  op : Nat
  val : Word
  src : Option (Nat × Nat)
  merge : Bool := false
  deriving DecidableEq, Repr

/-- A sparse-update unit (10 R291). -/
structure Suu where
  ctrl : Word
  op : Word
  status : Word
  win : List Upd
  /-- cycle of the last arrival, for WAIT -/
  lastAt : Nat
  deriving DecidableEq, Repr

/-- A sparse-update unit at reset. -/
def Suu.reset : Suu := { ctrl := 0, op := 0, status := 0, win := [], lastAt := 0 }

/-- The reducer (10 R296). -/
structure Red where
  ctrl : Word
  status : Word
  deriving DecidableEq, Repr

/-- A counter (10 R298). -/
structure Cnt where
  ctrl : Word
  words : Word
  count : Nat
  next : Nat
  copy : Option Nat
  /-- bound as the VISIBLE counter of its copy -/
  visible : Bool
  deriving DecidableEq, Repr

/-- A counter at reset. -/
def Cnt.reset : Cnt := { ctrl := 0, words := 0, count := 0, next := 0, copy := none, visible := false }

/-- A router (10 R301-R307, 16 R449): its table, position, last generation, OUTTAG registers (element outputs 0-3, then
4 + 4p + i), its inputs (mesh ports 0-3, element outputs 4-7, then 8 + 4p + i), the inputs whose head token is held by a fault
or by a watchpoint, the watchpoint registers, the watchpoints that an input's head token has met, the CTRL payloads that
wait for the end of a cut, and the cut markers that wait at source ports, ahead of the tokens there and taking no entry
(06 R169, 16 R430). -/
structure Router where
  table : KMap (BitVec 16)
  pos : BitVec 2
  lastgen : BitVec 8
  outtag : KMap (BitVec 32)
  inq : Vector (List RTok) 16
  stuck : List (RouterIn × Option Nat)
  wp : KMap Word
  passWp : List (RouterIn × Nat)
  pending : List Word
  marks : List (RouterIn × Token)
  deriving DecidableEq, Repr

/-- A router at reset. -/
def Router.reset : Router :=
  { table := [], pos := 0, lastgen := 0, outtag := [], inq := Vector.replicate 16 [], stuck := [], wp := [], passWp := [],
    pending := [], marks := [] }

/-- A bound matrix template (11 R315-R319): descriptor words, binder, region, current base priority, operation count, chain
progress and the chain's internal partial in frame form. -/
structure MxTmpl where
  w0 : Word
  w1 : Word
  user : Word
  proc : Nat
  region : Option Nat
  pri : BitVec 2
  n : Nat
  chaining : Bool
  inChain : Nat
  partials : List Word
  /-- an entry of the template stands in the queue -/
  queued : Bool
  /-- restored in mid-chain: the next incoming partial is read from the frames (11 R336) -/
  fromFrames : Bool
  /-- cancelled: released once no operation of it is past its entry (11 R337) -/
  closing : Bool
  /-- words of the internal partial written to the destination so far, at unbind, cancel or a save (11 R319, R336; 20 R490) -/
  wrote : Nat
  deriving DecidableEq, Repr

/-- A queue entry, with the cycle of its island at which its age was 0 (11 R325); a restored entry may be older than the island
(11 R336). -/
structure MxEntry where
  t : Nat
  pri : BitVec 2
  born : Int
  deriving DecidableEq, Repr

/-- An operation past its entry: template, base priority, effective priority at latching, the words its latch has read, by word
address, whether an uncorrectable error there is posted, whether the latch is complete, k-steps done, the cycle its compute last
started, whether it overtook, and its result in frame form, fixed at the latch (11 R319, R326-R327; 20 R490); the words of its
destination written so far, and in `emit` what its four ports have still to send (11 R321). -/
structure MxOp where
  t : Nat
  pri : BitVec 2
  epri : Nat
  born : Int
  latchStart : Nat
  latch : KMap (Option Word)
  posted : Bool
  latched : Bool
  steps : Nat
  started : Nat
  overtaker : Bool
  result : List Word
  flags : BitVec 5
  wrote : Nat
  emit : Option (List (List Token))
  deriving DecidableEq, Repr

/-- A matrix engine (11 R317, R323-R326, R335). -/
structure Mx where
  tmpl : KMap (Option MxTmpl)
  codebook : KMap (BitVec 16)
  queue : List MxEntry
  standby : Option MxOp
  running : Option MxOp
  shadow : Option MxOp
  finished : List MxOp
  flags : BitVec 5
  done : BitVec 16
  badIdx : Bool
  gaStatus : Nat
  deriving DecidableEq, Repr

/-- A matrix engine at reset. -/
def Mx.reset : Mx :=
  { tmpl := [], codebook := [], queue := [], standby := none, running := none, shadow := none, finished := [], flags := 0,
    done := 0, badIdx := false, gaStatus := 0 }

/-- One section of a loaded graph (12 R343-R345). -/
structure EspSection where
  nodes : List Word
  taps : List Word
  lanes : Nat
  deriving DecidableEq, Repr

/-- What an array has taken and not yet used: a formed block (shared exponent and mantissas, or none for a block holding an
infinity or NaN), or a marker's rank (12 R351-R352, 01 R41). -/
inductive EspItem where
  | block (eb : Int) (m : Option (List Int))
  | marker (rank : Nat)
  deriving DecidableEq, Repr

/-- States of an array (12 R350). -/
inductive EspState where
  | free | loaded | bound
  deriving DecidableEq, Repr

/-- An Espalier array (12 R338-R361). The fields after `items` are used in a head only. -/
structure Esp where
  st : EspState
  head : Nat
  narr : Nat
  sect : EspSection
  wmax : Nat
  depth : Nat
  block : List (BitVec 16)
  items : List EspItem
  rows : Nat
  scales : List (BitVec 32)
  /-- tokens still to be sent, in groups; a group is a vector or a marker -/
  outq : List (List Token × Bool)
  bind : Word
  status : Word
  vcount : BitVec 32
  nrm : Option Nat
  proc : Nat
  region : Option Nat
  serial : Nat
  /-- takes nothing from in0: an unload waits for the vectors already blocked (12 R357) -/
  stopped : Bool
  /-- the unload is a cancellation's and has no response (12 R363) -/
  closing : Bool
  deriving DecidableEq, Repr

/-- A free array. -/
def Esp.reset : Esp :=
  { st := .free, head := 0, narr := 0, sect := { nodes := [], taps := [], lanes := 0 }, wmax := 0, depth := 0, block := [],
    items := [], rows := 0, scales := [], outq := [], bind := 0, status := 0, vcount := 0, nrm := none, proc := 0,
    region := none, serial := 0, stopped := false, closing := false }

/-- A SYNCRD that waits at the sync page (09 R261). -/
structure Waiter where
  proc : Nat
  req : Req
  deriving DecidableEq, Repr

/-- A cluster: tag table (valid entries by frame), tile tags, sync-word waiters, DIRTY and CDIRTY bits, and its operators.
Operator channels are keyed 4 k + i by the operator order of 10 R301. -/
structure Cluster where
  tags : KMap (Option (BitVec 52))
  tiles : KMap (BitVec 2)
  waiters : List Waiter
  waitq : List Waiter
  dirty : BitVec 1024
  cdirty : BitVec 1024
  opIn : KMap InChan
  opOut : KMap (List Entry)
  nrm : KMap Nrm
  cvt : KMap Cvt
  suu : KMap Suu
  red : Red
  cnt : KMap Cnt
  routers : KMap Router
  mx : KMap Mx
  esp : KMap Esp
  /-- scratchpad words that hold an uncorrectable error (09 R250) -/
  badWords : List Nat
  deriving DecidableEq, Repr

/-- A cluster at reset. -/
def Cluster.reset : Cluster :=
  { tags := [], tiles := [], waiters := [], waitq := [], dirty := 0, cdirty := 0, opIn := [], opOut := [], nrm := [],
    cvt := [], suu := [], red := { ctrl := 0, status := 0 }, cnt := [], routers := [], mx := [], esp := [], badWords := [] }

/-! ### Copies -/

/-- A position that a copy has begun and not yet fired: ring words written or read, and far words complete at SCOPE
(09 R268, R272). -/
structure CopyPos where
  p : Nat
  done : List Nat
  vis : List Nat
  fired : Bool
  firedV : Bool
  deriving DecidableEq, Repr

/-- Where a request of a copy stands: going on, asked of a peer for a page, waiting for a page's promotion, or held by a path
fault with its code (09 R275, 19 R461, 22 R515). -/
inductive ReqPhase where
  | going
  | sent (page : Nat)
  | missing (page : Nat)
  | held (code : Nat)
  deriving DecidableEq, Repr

/-- A request of a copy for up to 8 words of its far stream, one 64-byte line of it (09 R268, R275): its first word and its
words, the bytes read from the far side or written there so far, the bytes to write, the words placed in the ring or sent into
the subgraph, the far line last asked for, and where it stands. -/
structure CopyReq where
  n : Nat
  len : Nat
  got : List Byte
  out : List Byte
  put : Nat
  line : Option Nat
  phase : ReqPhase
  deriving DecidableEq, Repr

/-- A stream copy (09 R263-R277). -/
structure Copy where
  desc : List Word
  job : Option Nat
  proc : Nat
  /-- the far side's first byte: a fabric scratchpad address, or a wide address -/
  farScratch : Bool
  far : Nat
  notices : BitVec 256
  /-- next position to begin, and positions in all -/
  next : Nat
  total : Nat
  active : List CopyPos
  /-- positions fired, in order -/
  fired : Nat
  /-- VISIBLE points fired, in order -/
  firedV : Nat
  /-- low words of the index tokens received (09 R264) -/
  idx : List Nat
  /-- far words asked for so far, and the requests not yet complete (09 R268, R275) -/
  issued : Nat
  reqs : List CopyReq
  /-- words sent into the subgraph, and words it has returned (09 R265) -/
  sent : Nat
  placed : Nat
  /-- positions completed (09 R274, R277) -/
  whole : Nat
  stopping : Option (Nat × Nat)
  /-- its subgraph has returned more than its declared ratio, which leaves it incomplete (09 R265) -/
  broken : Bool
  /-- 0 live, 1 ended, 2 cancelled -/
  status : Nat
  deriving DecidableEq, Repr

/-- A coalescer (10 R300). -/
structure Coal where
  ctrl : Word
  status : Word
  /-- the line being gathered and the cycle of its last request -/
  line : Option (Nat × Nat)
  deriving DecidableEq, Repr

/-! ### Dispatch and work -/

/-- States of a key (13 R365). -/
inductive KeyState where
  | free | held | lent
  deriving DecidableEq, Repr

/-- A key (13 R365-R367, R376, R387). -/
structure Key where
  st : KeyState
  taint : Bool
  /-- HOLDER of 13 R387 -/
  holder : BitVec 16
  /-- job of the task that holds it or of the lender -/
  job : Nat
  res : Bool
  /-- context to which a return is noted: unit and context -/
  note : Option (Nat × Nat)
  deriving DecidableEq, Repr

/-- A free key. -/
def Key.reset : Key := { st := .free, taint := false, holder := 0xFFFF, job := 0, res := false, note := none }

/-- Where a task stands (13 R371-R381). -/
inductive TaskSt where
  | waiting | dispatched (e : Nat) | done | cancelled
  deriving DecidableEq, Repr

/-- A task of a phase graph (13 R368-R372). -/
structure Task where
  job : Nat
  idx : Nat
  /-- PHASE of the job when the task was accepted -/
  phase : Nat
  launch : Nat
  sel : BitVec 7
  len2 : Bool
  keys : List Nat
  tbase : Nat
  tcnt : Nat
  cost : Nat
  w0 : Word
  w1 : Word
  preds : List Nat
  user : Word
  rp : Nat
  pass : Nat
  st : TaskSt
  acc : Nat
  deriving DecidableEq, Repr

/-- A TDONE whose Complete waits for die-scope acknowledgement (06 R201). -/
structure Completing where
  proc : Nat
  ctx : Nat
  /-- every request of the context below this identifier is awaited -/
  before : Nat
  job : Nat
  task : Nat
  deriving DecidableEq, Repr

/-- A work counter (13 R378-R380, R386). `st` is the STATE code; `parent` and `child` levels are found by its indexes. -/
structure Counter where
  st : Nat
  count : Nat
  canc : Nat
  user : Word
  owner : Nat
  job : Nat
  /-- index of the level above: launch of a unit, 64 × die + region of a launch, phase of a graph -/
  up : Nat
  armed : List (Nat × Nat)
  moved : Option Nat
  posted : Bool
  deriving DecidableEq, Repr

/-- A level that does not exist: STATE 3. -/
def Counter.reset : Counter :=
  { st := 3, count := 0, canc := 0, user := 0, owner := 0, job := 0, up := 0, armed := [], moved := none, posted := true }

/-- An event record held by its source (15 R399): the core it goes to. -/
structure EvRec where
  core : Nat
  words : List Word
  deriving DecidableEq, Repr

/-! ### Regions, cuts and images -/

/-- States of a region (15 R406). -/
inductive RegState where
  | free | loaded | running | frozen | done | saved
  deriving DecidableEq, Repr

/-- A caught item and the input it stands for (16 R431, R434, R437). -/
inductive Caught where
  | token (port : InPort) (t : Token)
  | packet (e : Nat) (pkt : TaskPkt)
  | event (e : Nat) (w : Word)
  deriving DecidableEq, Repr

/-- The content of a save record (16 R437), cluster and element numbers region-relative: `c` a cluster, `e` an element of it,
`k` a context or an operator in the order of 10 R301. A record of a unit holds its part of the unit that is given. -/
inductive SaveBody where
  | context (c e k : Nat) (ctx : Ctx)
  | slots (c e : Nat) (slots : KMap Slot)
  | channels (c e : Nat) (unit : Proc)
  | tables (c e : Nat) (unit : Proc)
  | caught (c u : Nat) (items : List (Nat × Caught))
  | operator (c k : Nat) (regs : List Word) (unit : Cluster)
  | frame (c f : Nat) (bytes : List Byte)
  | cluster (c : Nat) (unit : Cluster) (sync : List Word)
  | router (c r : Nat) (unit : Router)
  | engine (c k : Nat) (unit : Cluster)
  | copy (id : Nat) (copy : Copy)
  deriving DecidableEq, Repr

/-- A save image (16 R437): its header fields and its records. -/
structure SaveImage where
  cut : Nat
  die : Nat
  region : Nat
  cbase : Nat
  job : Nat
  launch : Nat
  time : Word
  recs : List SaveBody
  deriving DecidableEq, Repr

/-- An item that is to be taken into an image, and the router input it stands at when it is a token in a router: cluster, router
and input (16 R434, R441). -/
structure Take where
  item : Caught
  at_ : Option (Nat × Nat × Nat)
  deriving DecidableEq, Repr

/-- A user of a die's save codecs (16 R438): the cut or save of a region, or a RESTORE or roll with its codec and request. -/
inductive CodecUser where
  | cut (g : Nat)
  | restore (k rid : Nat)
  deriving DecidableEq, Repr

/-- A cut or save in progress (16 R428-R434, R441): kind (0 SNAP, 1 PREEMPT, 2 SAVE, 3 save.rel, 4 the watchdog's), its
issuer's unit and request, the save area and the size of its object, the internal inputs, the units to record and those recorded
(elements by number, operators by 8192 + 32 cluster + k), the engines and arrays whose turn to record has come and which still
send what they have latched or blocked (11 R336, 12 R362), the inputs whose marker has come, the caught items whose record is performed, the inputs whose link holds a
caught token not yet written, the items still to be taken, the image's words once its records are made, the pieces still to write
with their word offsets, and whether SAVE_AREA_MISS holds the writing (16 R439). -/
structure Cut where
  kind : Nat
  proc : Nat
  rid : Nat
  area : Word
  areaWide : Nat
  areaSize : Nat
  time : Word
  internal : List InPort
  pending : List Nat
  recorded : List Nat
  due : List Nat
  markersIn : List InPort
  caught : List Caught
  standing : List InPort
  takes : List Take
  image : Option Nat
  toWrite : List (Nat × List Word)
  missed : Bool
  /-- words of the piece in hand that packets to a peer carry already (22 R512) -/
  sent : Nat := 0
  deriving DecidableEq, Repr

/-- A restore in progress (16 R442, R445; 20 R490): the request of RESTORE or RESUME, the words of scratchpad still to write, and
the die and region whose work moves to the new one at its end. -/
structure Filling where
  rid : Nat
  writes : List (Nat × Word)
  source : Option (Nat × Nat)
  deriving DecidableEq, Repr

/-- A region (15 R406-R407, 16 R429, R445-R447). -/
structure Region where
  st : RegState
  job : Nat
  cbase : Nat
  elems : List Nat
  clusters : List Nat
  replayable : Bool
  /-- wide address of the launch image, and the region's number in it -/
  image : Nat
  rsel : Nat
  wd : Word
  /-- time from which the watchdog's timer counts; it moves along while the timer holds still (16 R447) -/
  wdStart : Word
  cut : Option Cut
  cutNo : BitVec 16
  /-- short address of the image of the last complete SNAP cut (16 R445) -/
  snap : Option Word
  /-- short address of the area of the last MARK or SAVE (16 R447) -/
  area : Option Word
  /-- TIME of the image that holds a SAVED region's state (16 R437) -/
  savedAt : Nat
  /-- caught items of a restored image that wait for room (16 R442) -/
  entering : List Caught
  /-- target words of the faults with FRZ 1 that the region holds (16 R424, R426) -/
  held : List Word
  /-- `freeze.rel` has acted on the region, which waits to be FREE (15 R416, R418) -/
  rel : Bool
  /-- a RESTORE or roll that still writes its frames and sync words -/
  filling : Option Filling := none
  deriving DecidableEq, Repr

/-- A free region. -/
def Region.reset : Region :=
  { st := .free, job := 0, cbase := 0, elems := [], clusters := [], replayable := false, image := 0, rsel := 0, wd := 0,
    wdStart := 0, cut := none, cutNo := 0, snap := none, area := none, savedAt := 0, entering := [], held := [], rel := false }

/-- A die: its control-page registers by number, key table, graph engine, queues, counters, regions, mailbox, copies, edge
units, throttle buckets and memory protection. Counters are keyed 2^24 × level + index, with the job in bits [23:16] for
levels 0 and 3. -/
structure Die where
  ctl : KMap Word
  keys : KMap Key
  tasks : List Task
  acc : Nat
  res : Option Nat
  delivery : KMap (List NetPkt)
  net : List NetPkt
  /-- permits lent and not yet at their channel: element, input channel, token (13 R376) -/
  lends : List (Nat × Nat × Token)
  completing : List Completing
  counters : KMap Counter
  regions : KMap Region
  /-- the users of the two save codecs, in arrival order (16 R438) -/
  codecq : List CodecUser
  /-- requests at the region table that wait, in arrival order (15 R416) -/
  tableq : List Nat
  mailbox : List (List Word)
  mailSeq : Nat
  faultPend : List (List Word)
  evPend : List EvRec
  copies : KMap (Option Copy)
  coal : KMap Coal
  tileIn : KMap InChan
  edgeSuu : KMap Suu
  /-- bucket levels in items with 10 fractional bits: tile g at g, the task network at 16 (15 R412) -/
  bucket : KMap Nat
  /-- islands whose point change is in progress, with the point asked for (15 R410) -/
  islandBusy : List Nat
  /-- minor counters by line and major counters by block (19 R477) -/
  minor : KMap Nat
  major : KMap Nat
  /-- parent counters by block, dirty cached blocks, blocks whose minor counter has wrapped (19 R478) -/
  parent : KMap Nat
  dirtyBlk : List Nat
  wrapped : List Nat
  /-- aligned 8-byte words, by line × 8 + word, of lines that fail verification, until rewritten (19 R479) -/
  poison : List Nat
  /-- the counter cache: blocks in the order in which they entered, verified (19 R478) -/
  cached : List Nat
  /-- counter blocks whose copy in the stack fails verification, and the lines below them that have met it (19 R479) -/
  badBlk : List Nat
  met : List Nat
  /-- the scrubber's pass: cycle of its start; the cycle of its last read; the line whose corrected data it is to write back,
  until another write reaches the line (19 R481-R482) -/
  scrubStart : Nat
  scrubAt : Nat
  scrubW : Option Nat
  /-- entries written to the error log since the start -/
  errs : Nat
  failed : Bool
  deriving DecidableEq, Repr

/-- A bucket starts at DEPTH, 0xFFFF items (15 R411, R412). -/
def bucketReset : Nat := 0xFFFF * 1024

/-- A die at reset. -/
def Die.reset : Die :=
  { ctl := [], keys := [], tasks := [], acc := 0, res := none, delivery := [], net := [], lends := [], completing := [], counters := [],
    regions := [], codecq := [], tableq := [], mailbox := [], mailSeq := 0, faultPend := [], evPend := [], copies := [], coal := [], tileIn := [],
    edgeSuu := [], bucket := [], islandBusy := [], minor := [], major := [], parent := [], dirtyBlk := [],
    wrapped := [], poison := [], cached := [], badBlk := [], met := [], scrubStart := 0, scrubAt := 0, scrubW := none, errs := 0,
    failed := false }

/-! ### Objects, residency and the package -/

/-- States of an object (07 R216). -/
inductive ObjSt where
  | opened | sealed | durable | deadPending | reclaimed | unissued
  deriving DecidableEq, Repr

/-- An object (07 R216-R218): its state, size, the die whose stack holds it, its job, the store pages that its first pages take
in the log (19 R457, R471), whether all of its bytes lie there (19 R474). -/
structure Obj where
  st : ObjSt
  size : Nat
  die : Nat
  job : Nat
  pages : List Nat
  stored : Bool
  deriving DecidableEq, Repr

/-- No object has held the serial. -/
def Obj.reset : Obj := { st := .unissued, size := 0, die := 0, job := 0, pages := [], stored := false }

/-- The codec of a user: region r uses codec r mod 2 (16 R438). -/
def CodecUser.codec : CodecUser → Nat
  | .cut g => g % 2
  | .restore k _ => k

/-- What a home has answered of an object of another node: its state code and size; STATE 5 while nothing is known (22 R547). -/
structure Known where
  code : Nat
  size : Nat
  deriving DecidableEq, Repr

/-- Nothing is known. -/
def Known.reset : Known := { code := 5, size := 0 }

/-- STATE of a handle slot (07 R211). -/
inductive HState where
  | empty | bound | retired
  deriving DecidableEq, Repr

/-- A handle-table slot (07 R211). -/
structure Handle where
  count : BitVec 16
  st : HState
  node : Nat
  serial : Nat
  base : Nat
  deriving DecidableEq, Repr

/-- An EMPTY slot never bound. -/
def Handle.reset : Handle := { count := 0, st := .empty, node := 0, serial := 0, base := 0 }

/-- A leaf entry of the residency map (19 R457). `frame` is stack × 2^21 + page for TIER 0, a store page for TIER 2. -/
structure Leaf where
  v : Bool
  tier : Nat
  apnode : Nat
  rap : Bool
  w : Bool
  isSealed : Bool
  dur : Bool
  pin : Bool
  keyidx : Nat
  job : Nat
  frame : Nat
  /-- while PIN is set: the die whose miss set it, and the job of the request that is held first for the page (19 R461, R475) -/
  pinDie : Nat := 0
  pinJob : Option Nat := none
  deriving DecidableEq, Repr

/-- An invalid leaf entry: TIER 3 unmapped (19 R457). -/
def Leaf.reset : Leaf :=
  { v := false, tier := 3, apnode := 0, rap := false, w := false, isSealed := false, dur := false, pin := false,
    keyidx := 0, job := 0, frame := 0 }

/-- One entry of a prefetch plan (19 R466). -/
structure PlanEntry where
  start : Nat
  len : Nat
  rel : Bool
  step : Nat
  deriving DecidableEq, Repr

/-- A loaded plan (19 R467, R469). -/
structure Plan where
  entries : List PlanEntry
  step : Nat
  ahead : Nat
  comp : Nat
  core : Nat
  die : Nat
  proc : Nat
  user : Word
  job : Nat
  /-- pages the engine has promoted for the plan, and the steps whose completion is posted -/
  got : List Nat
  posted : List Nat
  deriving DecidableEq, Repr

/-- The store and the engines of residency and durability (19 R462, R463, R471-R474): sealed objects waiting to be appended in
seal-completion order, bytes in the staging buffer, free bytes of the log, the store pages never yet used (from `top` on), those
released and those dead, the append position of each page's first line and the next one (19 R480), whether appending has stopped,
hold-up energy in percent of one full drain and whether its record is posted, pages whose waiting promotion is reported, pages
whose promotion has failed verification once, and pages released by plans that are gone. -/
structure Store where
  waiting : List Nat
  staging : Nat
  free : Nat
  top : Nat
  spare : List Nat
  dead : List Nat
  pos : KMap Nat
  nextPos : Nat
  stopped : Bool
  holdup : Nat
  lowPosted : Bool
  noFrame : List Nat
  failedOnce : List Nat
  released : List Nat
  /-- the node number kept with the store, once it has issued a serial (22 R513) -/
  node : Option Nat
  deriving DecidableEq, Repr

/-- An empty store with its hold-up energy complete. -/
def Store.reset : Store :=
  { waiting := [], staging := 0, free := 2 ^ 44, top := 0, spare := [], dead := [], pos := [], nextPos := 0, stopped := false,
    holdup := 100, lowPosted := false, noFrame := [], failedOnce := [], released := [], node := none }

/-- Sequence state toward and from one peer (22 R512, R527). -/
structure Peer where
  sendSeq : Nat
  high : Nat
  got : List Nat
  unacked : List Packet
  deriving DecidableEq, Repr

/-- No packet yet in this epoch: SEQ starts at 1 (22 R527). -/
def Peer.reset : Peer := { sendSeq := 1, high := 0, got := [], unacked := [] }

/-- A packet waiting in a port die for a link (22 R511): the cycle it came, whether its hold has been posted, and the link in
whose queue it stands. -/
structure OutPkt where
  pkt : Packet
  since : Nat
  posted : Bool
  link : Option Nat
  deriving DecidableEq, Repr

/-- One instance of a collective (22 R521): its contributions and the local contributors to answer (unit, request). -/
structure CollInst where
  n : Nat
  got : List Contribution
  answer : List (Nat × Nat)
  deriving DecidableEq, Repr

/-- A re-key in progress at this package (22 R530): the new epoch, leader and members, whether this node leads, the
issuer's unit and request, the nodes that have answered DRAIN and SWITCH, its stage, when the answers awaited were asked for, and
the node's STATE before it. -/
structure Rekey where
  epoch : Nat
  leader : Nat
  members : Nat
  leads : Bool
  proc : Nat
  rid : Nat
  drained : List Nat
  switched : List Nat
  /-- 0 draining, 1 switching -/
  stage : Nat
  began : Word
  was : Nat
  deriving DecidableEq, Repr

/-- A request of a peer that waits at this home: whether its access has passed translation, and to which page (07 R218), and what
its performances so far have read or written, one word each (20 R490). -/
structure HomeReq where
  pkt : Packet
  flying : Bool
  page : Nat
  data : List Word
  deriving DecidableEq, Repr

/-- What a member that has switched returns to when the re-key is aborted (22 R530): the re-key, and its DOMSTAT, members and
sequence state before the switch. -/
structure Undo where
  rekey : Rekey
  stat : Word
  members : List Word
  peers : KMap Peer
  deriving DecidableEq, Repr

/-- The port dies' state beyond the fabric registers (22). `remote` maps the SEQ of a request packet to its destination
and its requester's unit and request; copy `id` is unit 8,192 + `id`, its request at far word `n` is 2 × `n`, and one more once
the packet was resent. -/
structure Fabric where
  peers : KMap Peer
  outq : List OutPkt
  /-- packets received that wait for a re-key's switch, with whether they verify under the new key (22 R531) -/
  heldIn : List (Packet × Bool)
  /-- accepted requests of peers that wait at this home, and those forwarded to a page's holder with the SEQ and destination
  of the forwarded request, and whether that was sent again (22 R515, R528, R547) -/
  homeq : List HomeReq
  forwards : List (Nat × Nat × Bool × Packet)
  remote : List (Nat × Nat × Nat × Nat)
  collCount : KMap Nat
  coll : KMap (List CollInst)
  sessions : List Nat
  accepted : List Nat
  /-- the leader has answered no heartbeat since this time -/
  silentSince : Option Word
  rekey : Option Rekey
  /-- a REKEY of a node that is not the leader, while it opens the sessions it needs (22 R530) -/
  opening : Option Rekey
  /-- this member has switched, and the leader has not ended the re-key yet (22 R530) -/
  undo : Option Undo
  deriving DecidableEq, Repr

/-- The package's time unit (19 R484, R485). -/
structure TimeUnit where
  /-- correction still to be slewed, in 1/3000 ns -/
  slew : Int
  /-- port die whose unit disciplines the counter -/
  active : Nat
  /-- parts of a nanosecond carried between cycles, in 1/6000 ns -/
  frac : Nat
  deriving DecidableEq, Repr

/-- The management mailbox of BAR0 (24 R545): its command and status words, its 4,080 payload bytes as words 0 to 509, and how
often MSI-X vector 0 has been raised. -/
structure Mailbox where
  command : Word
  status : Word
  payload : KMap Word
  raised : Nat
  deriving DecidableEq, Repr

/-- The issue in progress: the unit, the context, the slot (the PC on a core) and the word. -/
structure Cur where
  proc : Nat
  ctx : BitVec 2
  slot : Nat
  word : Word
  deriving DecidableEq, Repr

/-- The state of one package. -/
structure State where
  procs : KMap Proc
  clusters : KMap Cluster
  dies : KMap Die
  mem : List Host.Cell
  objs : KMap Obj
  nextSerial : Nat
  highWater : Nat
  handles : KMap Handle
  /-- by job: one more than the die that ran its first region, whose HBM is the home of its handle table (07) -/
  tableHome : KMap Nat
  /-- what is known of the objects of other nodes, by wide address ÷ 2^56 -/
  known : KMap Known
  leaves : KMap Leaf
  /-- the pages that the two slots of each bucket of the residency map hold (19 R458) -/
  buckets : KMap (List Nat)
  /-- pages accessed since the clock hand last passed their frame, and the hand of each stack (19 R463) -/
  touched : List Nat
  hands : KMap Nat
  plans : KMap (Option Plan)
  store : Store
  /-- the registers that every die's control page shows alike (22 R532, 24 R540-R544, 19 R485) -/
  regs : KMap Word
  /-- KEYIDX of each job created in SECURE mode, by 256 × die + job (19 R476) -/
  jobKeys : KMap Nat
  fabric : Fabric
  tai : Word
  time : TimeUnit
  /-- cycles of the 1.5 GHz clock -/
  cycle : Nat
  /-- by cluster: how far its island's clock stands behind the 1.5 GHz clock, in sixths of an island cycle (00 R3, 15 R410) -/
  lag : KMap Nat
  /-- by cluster: 64 × the island cycle in which an instruction last acted on its tags, plus its place in the order of 09 R258 -/
  tagLast : KMap Nat
  mbox : Mailbox
  firmware : List Word
  /-- the words that stage 2 has hashed into the measurement blocks (24 R536) -/
  measured : List Word
  /-- start stage timer: the cycle at which the stage began (24 R536) -/
  stageStart : Nat
  /-- THROTTLE was forced to 3 by heat, and its level before (24 R544) -/
  thermal : Option (BitVec 2)
  powered : Bool
  /-- model: the steps named next -/
  agenda : List Action
  cur : Cur
  choice : Nat
  fresh : Nat
  deriving DecidableEq, Repr

/-- The control-page and fabric registers that do not reset to 0 and are the same on every die: MODE with REDUCED
(24 R541), BOOTSTAGE 1 (24 R536), REKEYTO and APPOL (22 R532). -/
def regsReset : KMap Word := [(1080, 0x40), (1082, 1), (1106, 1000), (1131, 3)]

/-- The package at power-on, before start stage 1 (24 R536): every context HALT, every object UNISSUED. -/
def State.reset : State :=
  { procs := [], clusters := [], dies := [], mem := [], objs := [], nextSerial := 0x10000, highWater := 0, handles := [], tableHome := [],
    known := [], leaves := [], buckets := [], touched := [], hands := [], plans := [],
    store := Store.reset,
    regs := regsReset, jobKeys := [],
    fabric := { peers := [], outq := [], heldIn := [], homeq := [], forwards := [], remote := [], collCount := [], coll := [],
                sessions := [], accepted := [], silentSince := none, rekey := none, opening := none, undo := none },
    tai := 0, time := { slew := 0, active := 0, frac := 0 }, cycle := 0, lag := [], tagLast := [],
    mbox := { command := 0, status := 1, payload := [], raised := 0 }, firmware := [], measured := [], stageStart := 0, thermal := none,
    powered := true, agenda := [], cur := { proc := 0, ctx := 0, slot := 0, word := 0 }, choice := 0, fresh := 0 }

end Sys2Proof.Machine
end

