-- ==== Sys2Proof/Config.lean ====
section
/-! DEFINITION. What the manual leaves to the implementation or leaves open. Every constant here has no body: no proof can
see a value of it, so a claim holds for every value. -/

namespace Sys2Proof.Config

/-- The agent that moves next when the agenda names none. FREE VALUE, log entry 1. -/
opaque schedule : Nat → Action

/-- How many nanoseconds a unit's view of the TAI counter stands behind it, taken modulo 5 (00 R9: at most 4 ns).
FREE VALUE, log entry 4. -/
opaque skew : Nat → Nat

/-- A byte whose value the manual does not give. FREE VALUE, log entry 12. -/
opaque freeByte : Nat → BitVec 8

/-- A way to lay out what a save record holds as words, given its TYPE: any from which what it holds can be had back. -/
structure Layout where
  enc : Nat → List Word → List Word
  dec : Nat → List Word → Option (List Word)
  back : ∀ t ws, dec t (enc t ws) = some ws

/-- The words as they come. -/
def plainLayout : Layout := { enc := fun _ ws => ws, dec := fun _ ws => some ws, back := fun _ _ => rfl }

/-- How the implementation lays out the bodies of save records whose layout the manual does not give (16 R437), if otherwise than
plainly. FREE VALUE, log entry 8. -/
opaque layout : Option Layout

/-- The layout in use. -/
def layoutOf : Layout := layout.getD plainLayout

/-- The edge tile's input, modulo 32, that outer mesh port `n` of die `d` joins, given 96 d + n: 2 × tile + input (14 R389); of a
tile's own port, its input alone. FREE VALUE, log entry 10. -/
opaque edgeInput : Nat → Nat

/-- The outer mesh port, modulo 96, by which words of address-generator tile `g` of die `d` enter the mesh, given 16 d + g
(09 R265): the next one after it that no lower tile has. FREE VALUE, log entry 10. -/
opaque tileOutput : Nat → Nat

/-- The HBM channel, modulo 32, of a line of a die's stack, given as 2^31 × die + line. FREE VALUE, log entry 20. -/
opaque hbmChannel : Nat → Nat

/-- Hash of a page's wide address in the residency map (19 R458). FREE VALUE, log entry 85. -/
opaque mapHash : Nat → Nat

/-- Buckets of the residency map, B of 19 R458, at least 1. FREE VALUE, log entry 85. -/
opaque mapBuckets : Nat

/-- Store pages of a segment of the store's log (19 R474), at least 1. FREE VALUE, log entry 36. -/
opaque segmentPages : Nat

/-- Requests in the queue of a die's memory controller, modulo 65, at 8 × cycle + die (19 R481). FREE VALUE, log entry 89. -/
opaque queueOccupancy : Nat → Nat

/-- The words of the measurement digest of some firmware: the device's measurement blocks, hashed (22 R524, R525). FREE VALUE, log
entry 11. -/
opaque measurement : List Word → Nat → Word

end Sys2Proof.Config
end

