-- ==== Sys2Proof/Machine/Ops.lean ====
section
/-! DEFINITION. The named operations over the state: units and their contexts, memory, channels, the response lane, free
values, taking a fault and returning from one, event records. -/

namespace Sys2Proof.Machine

/-! ### Vectors by number -/

/-- Element `i` of a vector, counted modulo its length. -/
def vget {α : Type} {n : Nat} [NeZero n] (v : Vector α n) (i : Nat) : α :=
  v[i % n]'(Nat.mod_lt _ (Nat.pos_of_ne_zero (NeZero.ne n)))

/-- A vector with element `i`, counted modulo its length, replaced. -/
def vset {α : Type} {n : Nat} [NeZero n] (v : Vector α n) (i : Nat) (x : α) : Vector α n :=
  v.set (i % n) x (Nat.mod_lt _ (Nat.pos_of_ne_zero (NeZero.ne n)))

/-! ### Units -/

/-- Unit `p` is a control core (00 R5: elements are 0-4,095). -/
def isCore (p : Nat) : Bool := 4096 ≤ p

/-- The die of a unit (00 R5). -/
def dieOf (p : Nat) : Nat := if 4096 ≤ p then (p - 4096) / 4 % 8 else p / 512

/-- The unit number under which a die keeps its own view of the time counter. -/
def dieUnit (d : Nat) : Nat := 4128 + d

/-- Unit `p`. -/
def State.proc (s : State) (p : Nat) : Proc := s.procs.get Proc.reset p
/-- Replaces unit `p`. -/
def State.setProc (s : State) (p : Nat) (P : Proc) : State := { s with procs := s.procs.set Proc.reset p P }
/-- Changes unit `p`. -/
def State.modProc (s : State) (p : Nat) (f : Proc → Proc) : State := s.setProc p (f (s.proc p))

/-- Cluster `n`. -/
def State.cluster (s : State) (n : Nat) : Cluster := s.clusters.get Cluster.reset n
/-- Changes cluster `n`. -/
def State.modCluster (s : State) (n : Nat) (f : Cluster → Cluster) : State :=
  { s with clusters := s.clusters.set Cluster.reset n (f (s.cluster n)) }

/-- Die `d`. -/
def State.die (s : State) (d : Nat) : Die := s.dies.get Die.reset d
/-- Changes die `d`. -/
def State.modDie (s : State) (d : Nat) (f : Die → Die) : State :=
  { s with dies := s.dies.set Die.reset d (f (s.die d)) }

/-- Context `c` of a unit. -/
def Proc.ctx (P : Proc) (c : Nat) : Ctx := vget P.ctxs c

/-- A context without what is no state of 04 R94: results on their way, faults held, breakpoints to step over. -/
def Ctx.own (C : Ctx) : Ctx := { C with outst := [], faults := [], stepOver := [] }

/-- Replaces context `c` of a unit. A change of its state of 04 R94 sets the context's dirty bit (16 R436). -/
def Proc.setCtx (P : Proc) (c : Nat) (C : Ctx) : Proc :=
  { P with
    ctxs := vset P.ctxs c C
    dirtyCtx := if C.own = (P.ctx c).own then P.dirtyCtx else P.dirtyCtx ||| (1#4 <<< (c % 4)) }

/-- Context `c` of unit `p`. -/
def State.ctx (s : State) (p c : Nat) : Ctx := (s.proc p).ctx c
/-- Changes context `c` of unit `p`. -/
def State.modCtx (s : State) (p c : Nat) (f : Ctx → Ctx) : State :=
  s.modProc p fun P => P.setCtx c (f (P.ctx c))

/-- Region `g` of die `d`. -/
def State.region (s : State) (d g : Nat) : Region := (s.die d).regions.get Region.reset g
/-- Changes region `g` of die `d`. -/
def State.modRegion (s : State) (d g : Nat) (f : Region → Region) : State :=
  s.modDie d fun D => { D with regions := D.regions.set Region.reset g (f (D.regions.get Region.reset g)) }

/-- A cut of a region, or a restore into it, is in progress. -/
def Region.busy (R : Region) : Bool := R.cut.isSome || R.filling.isSome

/-- The value a die's control-page register resets to: DEPTH of the throttles (15 R411), SCRUBCTL and ERRCTL (19 R483);
every other register resets to 0. -/
def ctlReset (r : Nat) : Word :=
  if 1056 ≤ r ∧ r ≤ 1072 then put 0xFFFF 16
  else if r = 1088 then put 24 48 ||| put 16 8 ||| 1
  else if r = 1090 then 4
  else 0

/-- Control-page register `r` of die `d` as it is stored. -/
def State.ctlReg (s : State) (d r : Nat) : Word := (s.die d).ctl.get (ctlReset r) r
/-- Stores a control-page register of die `d`. -/
def State.setCtlReg (s : State) (d r : Nat) (w : Word) : State :=
  s.modDie d fun D => { D with ctl := D.ctl.set (ctlReset r) r w }

/-- A register that every die's control page shows alike. -/
def State.pkgReg (s : State) (r : Nat) : Word := s.regs.get 0 r
/-- Stores a register that every die's control page shows alike. -/
def State.setPkgReg (s : State) (r : Nat) (w : Word) : State := { s with regs := s.regs.set 0 r w }

/-- The job a context acts for: an element's is its region's job (06 R192), a core's its CTXJOB (15 R397). -/
def State.jobOf (s : State) (p c : Nat) : Option Nat :=
  if isCore p then
    let j := (s.ctx p c).ctxjob
    if j.getLsbD 8 then some (j.toNat % 256) else none
  else (s.proc p).region.map fun g => (s.region (dieOf p) g).job

/-- Some region of the job holds an element of the cluster (15 R407). -/
def State.jobInCluster (s : State) (job cl : Nat) : Bool :=
  (s.die (cl / 32)).regions.any fun e =>
    e.2.st != .free && e.2.st != .saved && e.2.job == job && e.2.clusters.contains cl

/-- The region that holds an element, when one does. -/
def State.regionOf (s : State) (e : Nat) : Option Region :=
  (s.proc e).region.map fun g => s.region (dieOf e) g

/-- The region that holds the operators attached to router `r` of a cluster: that of the element at the router
(10 R301, 15 R407). -/
def State.regionAt (s : State) (cl r : Nat) : Option Nat := (s.proc (cl * 16 + r % 16)).region

/-- The job a region of die `d` belongs to, 0 for no region. -/
def State.jobOfRegion (s : State) (d : Nat) (g : Option Nat) : Nat :=
  match g with
  | none => 0
  | some g => (s.region d g).job

/-- Unit number of core `c` of die `d`. -/
def coreUnit (d c : Nat) : Nat := 4096 + 4 * d + c % 4

/-! ### Routers -/

/-- Router `r` of a cluster. -/
def State.router (s : State) (cl r : Nat) : Router := (s.cluster cl).routers.get Router.reset r
/-- Writes a router. -/
def State.setRouter (s : State) (cl r : Nat) (x : Router) : State :=
  s.modCluster cl fun C => { C with routers := C.routers.set Router.reset r x }

/-- The entry of a route tag at a router as it stands, for its position (10 R302). -/
def Router.entryOf (R : Router) (tag : BitVec 8) : BitVec 16 := R.table.get 0 (256 * R.pos.toNat + tag.toNat)

/-- A token enters an input of a router, and is routed in that cycle by the entry as it stands (10 R304). -/
def State.enterRouter (s : State) (cl r i : Nat) (x : RTok) : State :=
  let R := s.router cl r
  s.setRouter cl r { R with inq := vset R.inq i (vget R.inq i ++ [{ x with ent := some (R.entryOf x.route), pos := R.pos }]) }

/-! ### Operators by number (10 R278, R282, R301) -/

/-- KIND and UNIT of operator `k` in the order of 10 R301. -/
def opKind (k : Nat) : Nat × Nat :=
  if k < 4 then (0, k) else if k < 8 then (1, k - 4) else if k < 12 then (2, k - 8) else if k < 14 then (3, k - 12)
  else if k < 16 then (4, k - 14) else if k < 18 then (5, k - 16) else if k < 26 then (9, k - 18) else (8, k - 26)

/-- Operator `k` of the order of 10 R301 from its KIND and UNIT, when it exists. -/
def opIndex (kind unit : Nat) : Option Nat :=
  match kind with
  | 0 => if unit < 4 then some unit else none
  | 1 => if unit < 4 then some (4 + unit) else none
  | 2 => if unit < 4 then some (8 + unit) else none
  | 3 => if unit < 2 then some (12 + unit) else none
  | 4 => if unit < 2 then some (14 + unit) else none
  | 5 => if unit < 2 then some (16 + unit) else none
  | 8 => if unit < 1 then some 26 else none
  | 9 => if unit < 8 then some (18 + unit) else none
  | _ => none

/-- The operator address with REG 0 (10 R282). -/
def opAddress (cl k : Nat) : Word := put cl 23 ||| put (opKind k).1 19 ||| put (opKind k).2 14

/-- The operator address of an edge unit, with REG 0 (10 R282). -/
def edgeAddress (d kind unit : Nat) : Word := put 1 31 ||| put d 28 ||| put kind 19 ||| put unit 14

/-- The region that holds operator `k` of a cluster (10 R301, 15 R407). -/
def State.regionOfOp (s : State) (cl k : Nat) : Option Nat := s.regionAt cl (k % 16)

/-- The number of an operator among the units of a cut: elements are their own numbers. -/
def opUnit (cl k : Nat) : Nat := 8192 + 32 * cl + k

/-! ### Free values and identifiers -/

/-- A fresh index for a free value. -/
def State.choose (s : State) : Nat × State := (s.choice, { s with choice := s.choice + 1 })

/-- A fresh identifier of a request or a reservation. -/
def State.freshId (s : State) : Nat × State := (s.fresh, { s with fresh := s.fresh + 1 })

/-- A unit reads its view of the TAI counter: at most 4 ns behind, never decreasing (00 R9, 06 R190). -/
def State.view (s : State) (p : Nat) : Word × State :=
  let raw := s.tai - BitVec.ofNat 64 (min (Config.skew s.choice % 5) s.tai.toNat)
  let old := (s.proc p).view
  let v := if raw < old then old else raw
  (v, ({ s with choice := s.choice + 1 } : State).modProc p fun P => { P with view := v })

/-! ### Island clocks (00 R3, 15 R410) -/

/-- Cycles of the island clock of a cluster. -/
def State.islandCycle (s : State) (cl : Nat) : Nat := (6 * s.cycle - s.lag.get 0 cl) / 6

/-- Cycles of the clock of a unit: an element's island's, or the 1.5 GHz clock of a control core. -/
def State.unitCycle (s : State) (p : Nat) : Nat := if isCore p then s.cycle else s.islandCycle (p / 16)

/-! ### Memory -/

/-- The canonical form of memory: addresses rising, no entry equal to 0, which an unlisted address reads as (log entry 5). -/
def Memory.wf (m : List Host.Cell) : Bool := KMap.wf (0 : BitVec 8) m

/-- One byte of memory; an unlisted address reads 0 (log entry 5). -/
def State.mget (s : State) (a : Nat) : Byte := KMap.get (0 : BitVec 8) s.mem a
/-- Writes one byte of memory. -/
def State.mset (s : State) (a : Nat) (b : Byte) : State := { s with mem := KMap.set (0 : BitVec 8) s.mem a b }

/-- `n` bytes from `a`. -/
def State.mread (s : State) (a n : Nat) : List Byte := (List.range n).map fun j => s.mget (a + j)

/-- Writes bytes from `a` on. -/
def State.mwrite (s : State) (a : Nat) : List Byte → State
  | [] => s
  | b :: bs => (s.mset a b).mwrite (a + 1) bs

/-- Zeroes `n` bytes from `a` on: an unlisted address reads 0. -/
def State.clearBytes (s : State) (a n : Nat) : State :=
  { s with mem := s.mem.filter fun c => !(decide (a ≤ c.1) && decide (c.1 < a + n)) }

/-- The key of byte `off` of a core's local memory. -/
def localKey (p off : Nat) : Nat := 2 ^ 30 + (p - 4096) * 2 ^ 18 + off
/-- The key of a byte of an object. -/
def wideKey (w : Nat) : Nat := 2 ^ 40 + w

/-- The frame of a fabric scratchpad address (09 R248): its cluster and 4 KiB frame. -/
def frameOf (a : Nat) : Nat × Nat := (a / 2 ^ 22, a % 2 ^ 22 / 4096)

/-- MINIMAL is on (24 R539). -/
def State.minimal (s : State) : Bool := bitOf (s.pkgReg 1080) 7
/-- REDUCED is on (24 R537). -/
def State.reduced (s : State) : Bool := bitOf (s.pkgReg 1080) 6
/-- The store takes no write: it is mounted read-write by stage 7, and read-only in minimal mode (24 R536, R539). -/
def State.storeReadOnly (s : State) : Bool := s.reduced || s.minimal
/-- SECURE mode is on and has effect (24 R541, R543). -/
def State.secureMode (s : State) : Bool := bitOf (s.pkgReg 1080) 0 && !s.minimal
/-- SNAPSHOT mode is on and has effect (24 R541, R543). -/
def State.snapshotMode (s : State) : Bool := bitOf (s.pkgReg 1080) 1 && !s.minimal
/-- DEBUG mode is on and has effect (24 R541, R543). -/
def State.debugMode (s : State) : Bool := bitOf (s.pkgReg 1080) 2 && !s.minimal

/-- Sets DIRTY, and CDIRTY while SNAPSHOT mode is on, of the frame of a scratchpad byte; CDIRTY holds 0 while it is off (16 R436). -/
def State.markDirty (s : State) (a : Nat) : State :=
  let f := frameOf a
  let snap := s.snapshotMode
  s.modCluster f.1 fun C =>
    { C with dirty := C.dirty ||| (1#1024 <<< f.2)
             cdirty := if snap then C.cdirty ||| (1#1024 <<< f.2) else 0 }

/-- A word written whole holds no error any more (09 R250). -/
def mendWords (bad : List Nat) (off len : Nat) : List Nat := bad.filter fun o => !(decide (off ≤ o) && decide (o + 8 ≤ off + len))

/-- Writes scratchpad bytes from a fabric address, with their dirty bits and error marks. -/
def State.swrite (s : State) (a : Nat) (bs : List Byte) : State :=
  if bs.isEmpty then s
  else
    let s := ((s.mwrite a bs).markDirty a).modCluster (a / 2 ^ 22) fun C =>
      { C with badWords := mendWords C.badWords (a % 2 ^ 22) bs.length }
    if (a + bs.length - 1) / 4096 = a / 4096 then s else s.markDirty (a + bs.length - 1)

/-- A scratchpad range holds a word with an uncorrectable error (09 R250). -/
def State.sbad (s : State) (a n : Nat) : Bool :=
  (s.cluster (a / 2 ^ 22)).badWords.any fun o => o + 8 > a % 2 ^ 22 && o < a % 2 ^ 22 + n

/-! ### Channels -/

/-- A data token. -/
def dataTok (tag : BitVec 3) (w : Word) : Token := { kind := .data, tag := tag, payload := w }

/-- CLASS of a MARK payload: 0 END, 1 SNAP, 2 PREEMPT (06 R172). -/
def markClass (w : Word) : Nat := fldN w 62 2
/-- RANK of an END marker (06 R172). -/
def markRank (w : Word) : Nat := fldN w 0 3
/-- A token is an end marker. -/
def Token.isEnd (t : Token) : Bool := t.kind == .mark && markClass t.payload == 0
/-- A token is a cut marker (16 R429). -/
def Token.isCut (t : Token) : Bool := t.kind == .mark && (markClass t.payload == 1 || markClass t.payload == 2)
/-- The end marker of a rank. -/
def endTok (rank : Nat) : Token := { kind := .mark, tag := 0, payload := put (rank % 8) 0 }

/-- An entry is an end marker. -/
def Entry.isEnd : Entry → Bool
  | .tok t => t.isEnd
  | .resv _ => false

/-- A token may merge into the tail of a list of entries (06 R177). -/
def mergeable (q : List Entry) (t : Token) : Bool :=
  t.isEnd && (match q.getLast? with | some e => e.isEnd | none => false)

/-- Puts a token at the tail, or merges an end marker into an end marker there (06 R177). -/
def enqueue (q : List Entry) (t : Token) : List Entry :=
  match q.getLast? with
  | some (.tok u) =>
    if t.isEnd && u.isEnd then q.dropLast ++ [.tok (endTok (Nat.max (markRank u.payload) (markRank t.payload)))]
    else q ++ [.tok t]
  | _ => q ++ [.tok t]

/-- Fills a reservation. -/
def fillEntry (q : List Entry) (id : Nat) (t : Token) : List Entry :=
  q.map fun e => if e = .resv id then .tok t else e

/-- The token at the front of a channel, none when it is empty or its front is a reservation (06 R174). -/
def frontOf : List Entry → Option Token
  | .tok t :: _ => some t
  | _ => none

/-- Discard mode hides a head: a DATA token, or an end marker of any rank that has not yet ended the mode (06 R199). -/
def hidden (drank : BitVec 3) (t : Token) : Bool :=
  drank != 0 && (t.kind == .data || t.kind == .mark)

/-- The head of an input channel that selection sees (06 R174, R199). -/
def InChan.head (c : InChan) : Option Token :=
  match frontOf c.q with
  | some t => if hidden c.drank t then none else some t
  | none => none

/-- The input channel of a port. -/
def State.inAt (s : State) : InPort → InChan
  | .elem e ch => vget (s.proc e).ins ch
  | .oper cl k i => (s.cluster cl).opIn.get InChan.reset (4 * k + i % 4)
  | .tile d g i => (s.die d).tileIn.get InChan.reset (2 * g + i % 2)

/-- Changes the input channel of a port. -/
def State.modInAt (s : State) (port : InPort) (f : InChan → InChan) : State :=
  match port with
  | .elem e ch => s.modProc e fun P => { P with ins := vset P.ins ch (f (vget P.ins ch)) }
  | .oper cl k i => s.modCluster cl fun C =>
      { C with opIn := C.opIn.set InChan.reset (4 * k + i % 4) (f (C.opIn.get InChan.reset (4 * k + i % 4))) }
  | .tile d g i => s.modDie d fun D =>
      { D with tileIn := D.tileIn.set InChan.reset (2 * g + i % 2) (f (D.tileIn.get InChan.reset (2 * g + i % 2))) }

/-- The unit of a port, as a cut numbers it. -/
def portUnit : InPort → Nat
  | .elem e _ => e
  | .oper cl k _ => opUnit cl k
  | .tile d g _ => 16384 + 16 * d + g

/-- The die and region of a port's unit; a tile belongs to no region (15 R407). -/
def State.portRegion (s : State) : InPort → Nat × Option Nat
  | .elem e _ => (dieOf e, (s.proc e).region)
  | .oper cl k _ => (cl / 32, s.regionOfOp cl k)
  | .tile d _ _ => (d, none)

/-- The cut in progress in the region of a port. -/
def State.portCut (s : State) (port : InPort) : Option Cut :=
  let r := s.portRegion port
  match r.2 with
  | none => none
  | some g => (s.region r.1 g).cut

/-- A unit still works as before the cut: its turn to record has not come (16 R430). -/
def Cut.records (c : Cut) (u : Nat) : Bool := c.pending.contains u && !c.due.contains u

/-- Output channel `i` of operator `k` of a cluster. -/
def State.opOut (s : State) (cl k i : Nat) : List Entry := (s.cluster cl).opOut.get [] (4 * k + i % 4)
/-- Changes output channel `i` of operator `k`. -/
def State.modOpOut (s : State) (cl k i : Nat) (f : List Entry → List Entry) : State :=
  s.modCluster cl fun C => { C with opOut := C.opOut.set [] (4 * k + i % 4) (f (C.opOut.get [] (4 * k + i % 4))) }

/-- Depth of an input channel (06 R167). -/
def inDepth : Nat := 4
/-- Depth of an output channel (06 R167). -/
def outDepth : Nat := 2

/-- Changes input channel `ch` of unit `e`. -/
def State.modIn (s : State) (e ch : Nat) (f : InChan → InChan) : State :=
  s.modProc e fun P => { P with ins := vset P.ins ch (f (vget P.ins ch)) }

/-- Changes output channel `j` of unit `e`. -/
def State.modOut (s : State) (e j : Nat) (f : List Entry → List Entry) : State :=
  s.modProc e fun P => { P with outs := vset P.outs j (f (vget P.outs j)) }

/-! ### The response lane -/

/-- The ML head of context `c`: its oldest entry, when filled (07 R223). -/
def Proc.mlHead (P : Proc) (c : Nat) : Option Token :=
  match P.ml.find? fun e => e.ctx == c with
  | some e => e.val.map fun v => dataTok e.tag v
  | none => none

/-- Removes the oldest entry of context `c`. -/
def mlPop (ml : List MlEntry) (c : Nat) : List MlEntry := ml.eraseP fun e => e.ctx == c

/-- Reserves `n` response words (07 R223). -/
def mlReserve (ml : List MlEntry) (c rid n : Nat) (acq : Bool) : List MlEntry :=
  ml ++ (List.range n).map fun k => { ctx := c, rid := rid, part := k, val := none, tag := 0, acq := acq }

/-- Fills the entries of a request (07 R223). -/
def mlFill (ml : List MlEntry) (rid : Nat) (ws : List Word) (tag : BitVec 3) : List MlEntry :=
  ml.map fun e => if e.rid = rid ∧ e.val = none then { e with val := some (ws.getD e.part 0), tag := tag } else e

/-- Sends the response words of a request of unit `p` (07 R223). A request that reserves none sends none. -/
def State.respond (s : State) (p : Nat) (r : Req) (ws : List Word) (tag : BitVec 3 := 0) : State :=
  if r.resp = 0 then s
  else s.modProc p fun P => { P with resps := P.resps ++ [{ rid := r.rid, words := ws, tag := tag }] }

/-! ### Faults -/

/-- What a faulting operation supplies for its record (16 R421-R422). -/
structure Flt where
  code : Nat
  op0 : Option Word := none
  op1 : Option Word := none
  op2 : Word := 0
  cause : Nat := 0
  deriving DecidableEq, Repr

/-- HANDLE_STALE (16 R421). -/
def fltStale : Flt := { code := 3 }
/-- HANDLE_EXHAUSTED (16 R421). -/
def fltExhausted : Flt := { code := 4 }
/-- BOUNDS (16 R421). -/
def fltBounds : Flt := { code := 5 }
/-- PAGE_MISS (16 R421). -/
def fltPageMiss : Flt := { code := 6 }
/-- PROTECTION (16 R421). -/
def fltProt : Flt := { code := 7 }
/-- REMOTE_ATOMIC (16 R421). -/
def fltRemoteAtomic : Flt := { code := 8 }
/-- SYNC_WORD_WRITE (16 R421). -/
def fltSyncWrite : Flt := { code := 9 }
/-- KEY_RANGE (16 R421). -/
def fltKeyRange : Flt := { code := 14 }
/-- INTEGRITY (16 R421). -/
def fltIntegrity : Flt := { code := 21 }

/-- The target word of a context: KIND 0 for an element, KIND 1 for a control core (16 R423). `slot` is the slot or the PC. -/
def State.ctxTarget (s : State) (p c slot : Nat) : Word :=
  if isCore p then
    put 1 61 ||| put (dieOf p) 58 ||| put ((p - 4096) % 4) 0 ||| put c 4 ||| put (slot % 2 ^ 18) 18
  else
    put (dieOf p) 58 ||| put (((s.proc p).region.getD 0) % 64) 52 ||| put p 0 ||| put c 12 ||| put (slot % 32) 14

/-- The target word of a region: KIND 6 (16 R423). -/
def regionTarget (d g : Nat) : Word := put 6 61 ||| put d 58 ||| put g 52

/-- The eight words of a fault record, SEQ still 0 (16 R422). -/
def faultWords (time : Word) (f : Flt) (job : Nat) (frz : Bool) (target word : Word) (held : Bool) (nresp : Nat) :
    List Word :=
  [time,
   put f.code 56 ||| put job 48 ||| put f.cause 32 ||| put (if frz then 1 else 0) 16,
   target, word, f.op0.getD 0, f.op1.getD 0, f.op2,
   put (if held then 1 else 0) 63 ||| put nresp 56]

/-- Queues a record for the mailbox of die `d` (15 R401). -/
def State.postFault (s : State) (d : Nat) (ws : List Word) : State :=
  s.modDie d fun D => { D with faultPend := D.faultPend ++ [ws] }

/-- Raises a fault of a unit of die `d` that is no context: its record is queued (16 R421). -/
def State.raiseOther (s : State) (d : Nat) (f : Flt) (job : Nat) (frz : Bool) (target : Word) (held : Bool := false)
    (nresp : Nat := 0) : State :=
  let v := s.view (dieUnit d)
  v.2.postFault d (faultWords v.1 f job frz target 0 held nresp)

/-- The run state in which a fault leaves a context: FAULT from RUN, and every other state as it stands (04 R97, R131): a request
that faults on its way after its context halted or slept is held and posted, and the context stays in HALT or SLEEP (log entry 80). -/
def RState.faulted : RState → RState
  | .run => .fault
  | r => r

/-- TAKING A FAULT at issue: a running context enters FAULT and one record is queued; nothing else of the instruction happens
(06 R205, 16 R421). `f` has its operands filled in. -/
def State.takeFault (s : State) (kind : FaultKind) (p c slot : Nat) (word : Word) (f : Flt) (held : Bool := false)
    (nresp : Nat := 0) : State :=
  let v := s.view p
  let job := (s.jobOf p c).getD 0
  let s1 := v.2.modCtx p c fun C =>
    { C with rstate := C.rstate.faulted, faults := C.faults ++ [{ kind := kind, code := f.code, slot := slot, word := word, job := job }] }
  s1.postFault (dieOf p)
    (faultWords v.1 f job false (s.ctxTarget p c slot) word held nresp)

/-- RETURN FROM A FAULT: the context holds fault `x` no more (a request held anew is the same fault) and goes from FAULT to RUN
(04 R97, 16 R426); in any other state it stays there, and another fault that it holds stays held (log entries 18, 80). -/
def State.leaveFault (s : State) (p c : Nat) (x : CtxFault) : State :=
  s.modCtx p c fun C =>
    { C with faults := C.faults.filter fun y => y.kind != x.kind, rstate := if C.rstate == .fault then .run else C.rstate }

/-- A fault that freezes a region of die `d`: the region becomes FROZEN and holds it (10 R281, R304, 16 R424). -/
def State.freezeBy (s : State) (d : Nat) (g : Option Nat) (f : Flt) (target : Word) : State :=
  let s1 := s.raiseOther d f (s.jobOfRegion d g) true target
  match g with
  | none => s1
  | some g => s1.modRegion d g fun R =>
      { R with st := if R.st = .running then .frozen else R.st, held := R.held ++ [target] }

/-- An uncorrectable error that an operator of a cluster meets at byte `a` of scratchpad: its region is frozen and the record
names the cluster and the offset (09 R250, 10 R281). -/
def State.operEcc (s : State) (cl k a : Nat) : State :=
  let g := s.regionOfOp cl k
  s.freezeBy (cl / 32) g { fltIntegrity with op0 := some (put a 0) }
    (put 4 61 ||| put (cl / 32) 58 ||| put (g.getD 0) 52 ||| opAddress cl k)

/-! ### Event records and the event lane -/

/-- A request is held by a path fault. -/
def CopyReq.isHeld (q : CopyReq) : Bool := match q.phase with | .held _ => true | _ => false
/-- The held requests of a copy (09 R275). -/
def Copy.heldReqs (c : Copy) : List CopyReq := c.reqs.filter CopyReq.isHeld

/-- Hands an event record to the queue of core `core` of die `d`: held by its source until posted (15 R399). `w1` holds TYPE
and the fields of word 1. -/
def State.postEvent (s : State) (d core : Nat) (w1 w2 w3 : Word) : State :=
  let v := s.view (dieUnit d)
  v.2.modDie d fun D => { D with evPend := D.evPend ++ [{ core := core, words := [v.1, w1, w2, w3] }] }

/-- A record of a source is still held by it (15 R399): one whose word 1 agrees with `w` from bit `lo` on. -/
def State.eventHeld (s : State) (d : Nat) (w : Word) (lo : Nat) : Bool :=
  (s.die d).evPend.any fun r => (r.words.getD 1 0) >>> lo == w >>> lo

/-- The number under which element `e` of SAVED region `g` of die `d` stands while its state is in an image (16 R443). -/
def savedUnit (d g e : Nat) : Nat := 2 ^ 20 + 4096 * (64 * d + g) + e
/-- The die, the region and the element of such a number. -/
def savedAt (p : Nat) : Option (Nat × Nat × Nat) :=
  if 2 ^ 20 ≤ p then some ((p - 2 ^ 20) / 4096 / 64, (p - 2 ^ 20) / 4096 % 64, (p - 2 ^ 20) % 4096) else none

/-- Posts an EL event to an element (06 R189); a control core has no event lane (15 R548). An event for an element whose state stands
in an image waits for the region's RESTORE (16 R443; log entry 111). -/
def State.postEl (s : State) (p src code ctx info : Nat) : State :=
  let w := put src 60 ||| put (code % 16) 56 ||| put (ctx % 4) 54 ||| put (info % 2 ^ 48) 0
  match savedAt p with
  | some x => s.modRegion x.1 x.2.1 fun R => { R with entering := R.entering ++ [.event x.2.2 w] }
  | none => if isCore p then s else s.modProc p fun P => { P with elHeld := P.elHeld ++ [w] }

/-! ### Error history and throttles -/

/-- Logs an error: the newest entry takes its place in a ring of 256 (log entry 16), and is posted when ERRCTL.POST is 1
(19 R483). -/
def State.logError (s : State) (d cls sev wh : Nat) : State :=
  let w : Word := put 0x15 56 ||| put cls 53 ||| put sev 51 ||| put d 48 ||| put (wh % 2 ^ 48) 0
  let v := s.view (dieUnit d)
  let s1 := v.2
  let i := (s1.die d).errs % 256
  let n := (List.range 256).countP fun j => s1.ctlReg d (1537 + 2 * j) == w
  let s2 := ((s1.setCtlReg d (1536 + 2 * i) v.1).setCtlReg d (1537 + 2 * i) w).modDie d fun D => { D with errs := D.errs + 1 }
  let ctl := s2.ctlReg d 1090
  if bitOf ctl 2 then s2.postEvent d (fldN ctl 0 2) w (BitVec.ofNat 64 (n + 1)) 0 else s2

/-- A throttled ingress admits an item (15 R412): `idx` is its bucket, `reg` its AGTHR or TASKTHR register. -/
def State.throttle (s : State) (d idx reg : Nat) : Option State :=
  if fldN (s.ctlReg d reg) 0 16 = 0 then some s
  else
    let l := (s.die d).bucket.get bucketReset idx
    if l < 1024 then none
    else some (s.modDie d fun D => { D with bucket := D.bucket.set bucketReset idx (l - 1024) })

/-- The outer mesh ports of a die by which the words of its address-generator tiles enter the mesh, tile by tile: each tile has one of
its own (09 R265, 14 R389; log entry 10). -/
def tilePorts (d : Nat) : List Nat :=
  (List.range 16).foldl (fun ps g =>
    ps ++ [(((List.range 96).map fun i => (Config.tileOutput (16 * d + g) + i) % 96).find? fun n => !ps.contains n).getD 0]) []

end Sys2Proof.Machine
end

