-- ==== Sys2Proof/Machine/Flags.lean ====
section
/-! DEFINITION. Conditions, guards and flags: the head tests of 02 R49, the conditions of CMP (04 R121), the predicate byte,
and the sticky floating-point flags of 01 R26 in the layout of 05 R133. -/

namespace Sys2Proof.Machine

/-- IV (05 R133). -/
def flIV : BitVec 5 := 16
/-- DZ (05 R133). -/
def flDZ : BitVec 5 := 8
/-- OF (05 R133). -/
def flOF : BitVec 5 := 4
/-- UF (05 R133). -/
def flUF : BitVec 5 := 2
/-- NX (05 R133). -/
def flNX : BitVec 5 := 1

/-- A flag when a condition holds. -/
def flagIf (b : Bool) (f : BitVec 5) : BitVec 5 := if b then f else 0

/-- Predicate `k` of a predicate byte. -/
def predBit (p : BitVec 8) (k : Nat) : Bool := p.getLsbD (k % 8)

/-- A predicate byte with predicate `k` written. -/
def setPred (p : BitVec 8) (k : Nat) (v : Bool) : BitVec 8 :=
  if v then p ||| (1#8 <<< (k % 8)) else p &&& ~~~(1#8 <<< (k % 8))

/-- The predicate guard (02 R51). -/
def guardHolds (t : Trigger) (p : BitVec 8) : Bool := (p &&& t.pcare) == (t.pval &&& t.pcare)

/-- The head test of a TGA code (02 R49). On the task lane a token's tag is the handler number. -/
def headTest (tga : Nat) (t : Token) : Bool :=
  if tga < 8 then t.kind == .data && t.tag.toNat == tga
  else match tga with
    | 8 => t.kind == .data
    | 9 => t.isEnd && markRank t.payload ≥ 1
    | 10 => t.isEnd && markRank t.payload ≥ 2
    | 11 => t.isEnd && markRank t.payload ≥ 3
    | 12 => t.isEnd && markRank t.payload == 7
    | 13 => t.kind == .permit
    | 14 => t.kind == .ctrl
    | _ => true

/-- The condition of CMP and CMPI under its code (02 R62, 04 R121). -/
def cmpHolds (cond : Nat) (a b : Word) : Bool :=
  match cond with
  | 0 => a == b
  | 1 => a != b
  | 2 => a.slt b
  | 3 => a.sle b
  | 4 => b.slt a
  | 5 => b.sle a
  | 6 => a.ult b
  | 7 => a.ule b
  | 8 => b.ult a
  | 9 => b.ule a
  | 10 => (a &&& b) != 0
  | 11 => (a &&& b) == 0
  | _ => false

/-- Opcodes that can set a floating-point flag (05 R137): FP32 but FCLASS, BF16x4, the conversions, CBENC, CSARES, CSAADD. -/
def canSetFlag (opc : BitVec 8) : Bool :=
  let n := opc.toNat
  (0x50 ≤ n && n ≤ 0x69 && n != 0x5C) || (0x80 ≤ n && n ≤ 0x83) || n == 0x85 || n == 0x89 || n == 0x8A

end Sys2Proof.Machine
end

