-- ==== Sys2Proof/Machine/Shape.lean ====
section
/-! DEFINITION. What each opcode does with the fields of its word: the form table of 02 R66 and the field rows of the
instruction tables (04 R118-R128, 05 R142-R166, 06 R194, 07 R231, 09 R259, 10 R308, 11 R332, 12 R356, 13 R382, 15 R413,
16 R425, R440, 19 R468, 22 R520, R529), one row per opcode. -/

namespace Sys2Proof.Machine

/-- The four forms of 02 R52. -/
inductive FormKind where
  | r | i | w | b
  deriving DecidableEq, Repr

/-- The fields of a word, whatever its form: fields the form lacks read 0. -/
structure View where
  opc : BitVec 8
  trig : Trigger
  dst : BitVec 5
  sa : BitVec 5
  sb : BitVec 5
  pact : BitVec 2
  pidx : BitVec 3
  dq : BitVec 4
  mod : BitVec 4
  imm : BitVec 10
  deriving DecidableEq, Repr

/-- What an opcode does with DST. -/
inductive DstUse where
  /-- any destination of 02 R55 but the memory request port -/
  | value
  /-- x0-x15 only, written -/
  | reg
  /-- x0-x15 only, read and written -/
  | regRead
  /-- o0-o3 only -/
  | out
  /-- the memory request port, code 20 only -/
  | mem
  /-- p0-p7 only -/
  | pred
  /-- an even register x0-x14 of a pair -/
  | pair
  /-- the first of four registers: x0, x4, x8, x12 -/
  | four
  /-- the first of eight registers: x0, x8 -/
  | eight
  /-- unused, must be 0 -/
  | none
  deriving DecidableEq, Repr

/-- What an opcode does with SA or SB. -/
inductive SrcUse where
  /-- a source of 02 R57 -/
  | src
  /-- an even register x0-x14 of a pair -/
  | pair
  /-- an input channel's head only, codes 16-19 -/
  | input
  /-- a number below the limit -/
  | num (limit : Nat)
  /-- a predicate number, 0-7 -/
  | pred
  /-- unused, must be 0 -/
  | none
  deriving DecidableEq, Repr

/-- Where an opcode may run (02 R66, 15 R394). -/
inductive PlaceUse where
  | both | coreOnly | elementOnly
  deriving DecidableEq, Repr

/-- One row of the field tables. -/
structure Shape where
  form : FormKind := .r
  dst : DstUse := .value
  sa : SrcUse := .src
  sb : SrcUse := .src
  /-- MOD holds no reserved code and no unassigned bit -/
  modOk : Bool := true
  /-- the opcode has a predicate action -/
  pact : Bool := true
  /-- the opcode may dequeue -/
  dq : Bool := true
  /-- CHA must name an input channel (06 R195) -/
  chaIn : Bool := false
  place : PlaceUse := .both
  /-- latency in cycles; 0 marks the divide row of 04 R108 -/
  lat : Nat := 1
  /-- response words reserved in ML (07 R222) -/
  resp : Nat := 0
  deriving DecidableEq, Repr

/-- MOD unused. -/
def mod0 (v : View) : Bool := v.mod == 0
/-- MOD a rounding selector of 01 R20. -/
def modRound (v : View) : Bool := v.mod.toNat ≤ 4
/-- MOD a lane size of 02 R62 alone. -/
def modLane (v : View) : Bool := v.mod.toNat < 3
/-- MOD a lane size with the flag of bit 2 (05 R152). -/
def modLaneU (v : View) : Bool := v.mod.toNat % 4 < 3 && v.mod.toNat < 8
/-- MOD below a limit. -/
def modBelow (n : Nat) (v : View) : Bool := v.mod.toNat < n

/-- A two-source instruction delivering a value, MOD 0. -/
def alu2 (v : View) (lat : Nat) : Shape := { modOk := mod0 v, lat := lat }
/-- A one-source instruction delivering a value, MOD 0. -/
def alu1 (v : View) (lat : Nat) : Shape := { sb := .none, modOk := mod0 v, lat := lat }
/-- An instruction of the request port. -/
def port (sa sb : SrcUse) (modOk : Bool) (resp : Nat) : Shape :=
  { dst := .mem, sa := sa, sb := sb, modOk := modOk, resp := resp }

/-- Rows 0x00-0x2F (04 R118-R124). -/
def shapeInt (v : View) : Nat → Option Shape
  | 0x02 | 0x03 | 0x04 => some (alu2 v 3)
  | 0x05 | 0x06 | 0x07 | 0x08 => some (alu2 v 0)
  | 0x0D | 0x0E => some (alu1 v 1)
  | 0x0F => some { dst := .regRead, modOk := mod0 v, lat := 3 }
  | 0x1B | 0x1C | 0x1D | 0x1E | 0x1F => some (alu1 v 1)
  | 0x20 => some { modOk := modBelow 12 v }
  | 0x21 => some { modOk := modBelow 8 v }
  | 0x22 => some (alu1 v 1)
  | 0x23 => some { sb := .none, modOk := modLaneU v }
  | 0x24 => some { modOk := modBelow 2 v }
  | 0x25 => some { dst := .regRead, modOk := mod0 v }
  | 0x26 => some { modOk := modBelow 4 v }
  | 0x27 => some { sb := .none, modOk := modLane v }
  | 0x28 => some { dst := .regRead, modOk := modBelow 2 v }
  | n => if n < 0x20 then some (alu2 v 1) else none

/-- Rows 0x30-0x4F (04 R125-R127, 06 R194). -/
def shapeImm (v : View) : Nat → Option Shape
  | 0x31 => some { form := .i, sb := .none, modOk := mod0 v, lat := 3 }
  | 0x39 => some { form := .i, sb := .none, modOk := modBelow 12 v }
  | 0x3C => some { form := .i, sa := .none, sb := .none, modOk := mod0 v }
  | 0x3D => some { form := .w, dst := if v.mod.getLsbD 2 then .regRead else .reg, sa := .none, sb := .none }
  | 0x40 => some { dst := .none, modOk := mod0 v }
  | 0x41 => some { sa := .none, sb := .none, modOk := mod0 v }
  | 0x42 => some { dst := .pred, sa := .pred, sb := .pred }
  | 0x43 | 0x44 => some { dst := .none, sa := .none, sb := .none, modOk := mod0 v }
  | 0x45 => some { dst := .none, sb := .none, modOk := modBelow 2 v }
  | 0x46 => some { sa := .none, sb := .none, modOk := mod0 v }
  | 0x47 => some { form := .i, sa := .none, sb := .none, modOk := mod0 v }
  | 0x48 => some { form := .i, dst := .none, sb := .none, modOk := mod0 v }
  | 0x49 => some { form := .i, dst := .none, sb := .none, modOk := mod0 v, dq := false }
  | 0x4A => some { dst := .none, sb := .none, modOk := mod0 v, pact := false, dq := false }
  | 0x4B => some { dst := .none }
  | n => if 0x30 ≤ n ∧ n < 0x3D then some { form := .i, sb := .none, modOk := mod0 v } else none

/-- Rows 0x50-0x6F (05 R142-R151). -/
def shapeFloat (v : View) : Nat → Option Shape
  | 0x50 | 0x51 | 0x52 | 0x5E => some { modOk := modRound v, lat := 4 }
  | 0x53 | 0x54 => some { dst := .regRead, modOk := modRound v, lat := 4 }
  | 0x55 => some { modOk := modRound v, lat := 12 }
  | 0x56 => some { sb := .none, modOk := modRound v, lat := 12 }
  | 0x57 | 0x58 => some (alu2 v 4)
  | 0x59 | 0x5A | 0x5C | 0x5F => some (alu1 v 4)
  | 0x5B => some { modOk := modBelow 8 v, lat := 4 }
  | 0x5D => some { sb := .none, modOk := modRound v, lat := 4 }
  | 0x60 | 0x61 | 0x62 => some { modOk := modRound v, lat := 4 }
  | 0x63 | 0x67 => some { dst := .regRead, modOk := modRound v, lat := 4 }
  | 0x64 | 0x65 => some (alu2 v 4)
  | 0x66 => some { lat := 4 }
  | 0x68 => some { modOk := modBelow 3 v, lat := 4 }
  | 0x69 => some { sb := .none, modOk := modRound v, lat := 4 }
  | _ => none

/-- Rows 0x70-0x8F (05 R152-R166). -/
def shapePacked (v : View) : Nat → Option Shape
  | 0x70 | 0x71 | 0x7E => some { modOk := modLane v }
  | 0x72 | 0x73 | 0x76 | 0x77 | 0x79 | 0x7A | 0x7B => some { modOk := modLaneU v }
  | 0x74 => some { modOk := modLane v, lat := 3 }
  | 0x75 => some { modOk := modLaneU v, lat := 3 }
  | 0x78 => some { sb := .none, modOk := modLane v }
  | 0x7C => some { modOk := decide (v.mod.toNat % 4 < 3) }
  | 0x7D => some { sb := .none, modOk := modLaneU v }
  | 0x7F => some { modOk := modLaneU v && v.mod.toNat % 4 != 0 }
  | 0x80 => some { sb := .num 6, modOk := modRound v, lat := 4 }
  | 0x81 | 0x82 => some { sb := .num 8, modOk := modRound v, lat := 4 }
  | 0x83 =>
    if v.mod.getLsbD 3 then some { sb := .none, modOk := modBelow 10 v, lat := 4 }
    else some { modOk := modRound v, lat := 4 }
  | 0x84 => some { sb := .none, modOk := modBelow 8 v }
  | 0x85 => some { modOk := modBelow 8 v, lat := 4 }
  | 0x86 => some { dst := .none, sb := .none, modOk := modBelow 8 v }
  | 0x87 => some { dst := .out, sb := .none, modOk := modBelow 8 v }
  | 0x88 => some { sa := .input, sb := .none, modOk := mod0 v }
  | 0x89 => some { modOk := modRound v, lat := 4 }
  | 0x8A => some { dst := .pair, sa := .pair, sb := .pair, modOk := mod0 v, lat := 2 }
  | _ => none

/-- Rows 0x90-0xAF (06 R194, 10 R308, 13 R382). -/
def shapeTask (v : View) : Nat → Option Shape
  | 0x90 => some { dst := .out, sa := .none, sb := .none, modOk := mod0 v, chaIn := true }
  | 0x91 => some { dst := .out, sa := .none, sb := .none, modOk := modBelow 8 v && v.mod != 0 }
  | 0x92 => some { dst := .none, sa := .none, sb := .num 4, modOk := modBelow 8 v, place := .elementOnly }
  | 0x93 => some { sa := .none, sb := .none, modOk := modBelow 8 v, chaIn := true }
  | 0x94 => some { dst := .out, sb := .none, modOk := mod0 v }
  | 0x95 => some { dst := .none, sb := .num 4, modOk := mod0 v, place := .elementOnly }
  | 0x96 => some { dst := .out, sb := .none, modOk := mod0 v }
  | 0x97 => some { sb := .none, modOk := mod0 v, place := .elementOnly }
  | 0xA0 => some { dst := .none, modOk := mod0 v }
  | 0xA1 => some { dst := .none, sa := .pair, modOk := mod0 v }
  | 0xA2 => some { dst := .none, sb := .none, modOk := mod0 v }
  | 0xA3 | 0xA4 => some (port .src .src (mod0 v) 1)
  | 0xA5 => some (port .src .none (mod0 v) 1)
  | 0xA6 => some (port .src .none (modBelow 2 v) 1)
  | 0xA7 => some (port .src (if v.mod.toNat % 4 = 0 then .src else .none) (modBelow 3 v) 1)
  | _ => none

/-- Rows 0xB0-0xCF (07 R231, 09 R259). -/
def shapeMemory (v : View) : Nat → Option Shape
  | 0xB0 => some (port .src .none (modBelow 7 v) 1)
  | 0xB1 => some (port .src .src (modBelow 4 v) 1)
  | 0xB2 => some (port .src .src (modBelow 4 v) 0)
  | 0xB3 => some (port .src .none (modBelow 5 v) 1)
  | 0xB4 => some (port .src .src (modBelow 5 v) 1)
  | 0xB5 | 0xB6 => some (port .none .none (modBelow 5 v) 1)
  | 0xB7 => some (port .pair .none (modBelow 7 v) 1)
  | 0xB8 => some (port .pair .src (modBelow 4 v) 1)
  | 0xB9 => some (port .src .none (mod0 v) 0)
  | 0xC0 => some { port .src .src (modBelow 10 v) 1 with pact := false }
  | 0xC1 => some (port .src .pair (mod0 v) 1)
  | 0xC2 | 0xC4 => some (port .src .src (mod0 v) 1)
  | 0xC3 => some (port .src (if v.mod.toNat % 4 = 0 then .none else .src) (modBelow 3 v) 1)
  | 0xC5 | 0xC7 => some (alu1 v 2)
  | 0xC6 => some (alu2 v 2)
  | 0xC8 =>
    some { sb := .num 3, lat := 2,
           modOk := v.sb == 0 || (v.sb == 1 && modBelow 4 v) || v.mod == 0 || decide (v.sb.toNat > 2) }
  | 0xC9 => some (port .src .src (mod0 v) 0)
  | _ => none

/-- Rows 0xD0-0xEF (07 R231, 09 R259, 10 R308, 11 R332, 12 R356, 19 R468, 22 R520). -/
def shapeObject (v : View) : Nat → Option Shape
  | 0xD0 | 0xD1 | 0xD2 | 0xD3 | 0xD7 => some (port .src .none (mod0 v) 1)
  | 0xD4 | 0xD6 | 0xD8 => some (port .pair .none (mod0 v) 1)
  | 0xD5 => some (port .src .none (mod0 v) 2)
  | 0xD9 => some (port .src (if v.mod == 2 then .none else .src) (modBelow 3 v) 1)
  | 0xDA => some (port .src .src (mod0 v) 1)
  | 0xE0 | 0xE1 => some (port .src .none (mod0 v) 1)
  | 0xE2 => some (port .src (if v.mod == 2 then .none else .src) (modBelow 3 v) 1)
  | 0xE3 => some (port .src .src (mod0 v) 1)
  | 0xE4 => some (port .src .none (modBelow 2 v) 1)
  | 0xE5 | 0xE6 | 0xE8 => some (port .src .src (mod0 v) 1)
  | 0xE7 | 0xE9 => some (port .src .none (mod0 v) 1)
  | 0xEA => some (port .src (if v.mod == 7 then .none else .src) (modBelow 8 v) 2)
  | _ => none

/-- Rows 0xF0-0xFF (15 R413, 16 R425, R440, 22 R529); every one is legal on a control core only. -/
def shapeControl (v : View) : Nat → Option Shape
  | 0xF0 | 0xF1 => some { form := .b, dst := .none, sa := .none, sb := .none, place := .coreOnly }
  | 0xF2 => some { dst := .none, sb := .none, modOk := mod0 v, place := .coreOnly }
  | 0xF3 => some { dst := .four, sa := .none, sb := .none, modOk := mod0 v, place := .coreOnly, lat := 2 }
  | 0xF4 => some { dst := .eight, sa := .none, sb := .none, modOk := mod0 v, place := .coreOnly, lat := 2 }
  | 0xF5 | 0xF6 => some { port .src .src (mod0 v) 1 with place := .coreOnly }
  | 0xF7 => some { port .src .none (modBelow 2 v) 1 with place := .coreOnly }
  | 0xF8 | 0xFC | 0xFD => some { port .src .none (mod0 v) 1 with place := .coreOnly }
  | 0xF9 | 0xFA => some { port .src .src (modBelow 2 v) 1 with place := .coreOnly }
  | 0xFB => some { port .src .src (mod0 v) 1 with place := .coreOnly }
  | 0xFE => some { port .src .pair (modBelow 4 v) 1 with place := .coreOnly }
  | _ => none

/-- The row of an opcode; none for the reserved and illegal points of 02 R65. -/
def shapeOf (v : View) : Option Shape :=
  let n := v.opc.toNat
  if n < 0x30 then shapeInt v n
  else if n < 0x50 then shapeImm v n
  else if n < 0x70 then shapeFloat v n
  else if n < 0x90 then shapePacked v n
  else if n < 0xB0 then shapeTask v n
  else if n < 0xD0 then shapeMemory v n
  else if n < 0xF0 then shapeObject v n
  else shapeControl v n

/-- What a word of no row does with its fields: nothing (02 R58). -/
def blankShape : Shape := { dst := .none, sa := .none, sb := .none }

/-- The fields of a word in the form of its opcode (02 R52). A word of no form is read in the register form. -/
def viewOf (w : Word) : View :=
  let f := rformOf w
  let base : View :=
    { opc := fld w 28 8, trig := f.trig, dst := f.dst, sa := f.sa, sb := f.sb, pact := f.pact, pidx := f.pidx,
      dq := f.dq, mod := f.mod, imm := 0 }
  match (shapeOf base).map Shape.form with
  | some .i => { base with sb := 0, pact := 0, pidx := 0, imm := fld w 8 10 }
  | some .w => { base with sa := 0, sb := 0, pact := 0, pidx := 0, dq := 0 }
  | some .b => { base with dst := 0, sa := 0, sb := 0, pact := 0, pidx := 0, dq := 0, mod := 0 }
  | _ => base

/-- The view of register-form fields under an opcode. -/
def viewR (opc : BitVec 8) (f : RForm) : View :=
  { opc := opc, trig := f.trig, dst := f.dst, sa := f.sa, sb := f.sb, pact := f.pact, pidx := f.pidx, dq := f.dq,
    mod := f.mod, imm := 0 }

/-- The view of immediate-form fields under an opcode. -/
def viewI (opc : BitVec 8) (f : IForm) : View :=
  { opc := opc, trig := f.trig, dst := f.dst, sa := f.sa, sb := 0, pact := 0, pidx := 0, dq := f.dq, mod := f.mod,
    imm := f.imm }

/-- The view of MOVW's fields. MOD holds the lowest must-be-zero bit, INS and HW (02 R52). -/
def viewW (opc : BitVec 8) (f : WForm) : View :=
  { opc := opc, trig := f.trig, dst := f.dst, sa := 0, sb := 0, pact := 0, pidx := 0, dq := 0,
    mod := f.zero.extractLsb' 0 1 ++ f.ins ++ f.hw, imm := 0 }

/-- The view of a branch's fields. -/
def viewB (opc : BitVec 8) (f : BForm) : View :=
  { opc := opc, trig := f.trig, dst := 0, sa := 0, sb := 0, pact := 0, pidx := 0, dq := 0, mod := 0, imm := 0 }

end Sys2Proof.Machine
end

