-- ==== Sys2Proof/Machine/Operands.lean ====
section
/-! DEFINITION. Operand forms, eligibility, and the one way every instruction word issues: admission (04 R101; 02 R64 and
15 R393 on a control core), sources (02 R57, 04 R115), dequeues (02 R61), the effect, and delivery with PACT (02 R59-R60,
04 R108-R110, R115). -/

namespace Sys2Proof.Machine

/-- What a step answers. -/
abbrev Out := Host.Outcome State Fault Refusal

/-! ### Sources and channels -/

/-- The channel code that a source code reads (02 R57). -/
def chanOfSrc (c : BitVec 5) : Option Nat :=
  let n := c.toNat
  if 16 ≤ n ∧ n ≤ 19 then some (n - 16)
  else if n = 20 ∨ n = 21 then some 4
  else if n = 22 then some 5
  else if n = 23 then some 6
  else none

/-- The packet at the task-lane head as context `c` sees it, with its handler (06 R185-R186). -/
def Proc.tlHead (P : Proc) (c : Nat) : Option (Nat × TaskPkt) :=
  match P.head with
  | none => none
  | some h =>
    if (vget P.owners h.val).toNat = c then (vget P.lanes h.val).head?.map fun k => (h.val, k) else none

/-- The head of a channel code as context `c` of unit `p` sees it (02 R48, 06 R186, 07 R223; on a core 15 R394). -/
def State.headOf (s : State) (p c ch : Nat) : Option Token :=
  let P := s.proc p
  if ch < 4 then (vget P.ins ch).head
  else if ch = 4 then
    if isCore p then (s.die (dieOf p)).mailbox.head?.map fun r => dataTok 0 (r.getD 0 0)
    else (P.tlHead c).map fun k => dataTok (BitVec.ofNat 3 k.1) k.2.w0
  else if ch = 5 then P.mlHead c
  else if ch = 6 then
    if isCore p then P.evq.head?.map fun r => dataTok 0 (r.getD 0 0)
    else P.el.head?.map fun w => dataTok 0 w
  else none

/-- Src: the value a source code reads (04 R115). -/
def State.src (s : State) (p c : Nat) (code : BitVec 5) : Word :=
  let n := code.toNat
  if n < 16 then vget (s.ctx p c).x n
  else if n = 24 then 0
  else if n = 25 then BitVec.allOnes 64
  else if n = 21 then (match (s.proc p).tlHead c with | some k => if k.2.len2 then k.2.w1 else 0 | none => 0)
  else match chanOfSrc code with
    | some ch => ((s.headOf p c ch).map Token.payload).getD 0
    | none => 0

/-! ### What a word reads and writes -/

/-- Registers an operand field reads. -/
def srcRegs (u : SrcUse) (c : BitVec 5) : List Nat :=
  match u with
  | .src => if c.toNat < 16 then [c.toNat] else []
  | .pair => [c.toNat, c.toNat + 1]
  | _ => []

/-- Registers the destination field writes. -/
def dstRegs (u : DstUse) (c : BitVec 5) : List Nat :=
  match u with
  | .value | .reg | .regRead => if c.toNat < 16 then [c.toNat] else []
  | .pair => [c.toNat, c.toNat + 1]
  | .four => (List.range 4).map (c.toNat + ·)
  | .eight => (List.range 8).map (c.toNat + ·)
  | _ => []

/-- Registers an instruction reads or writes (04 R101 condition 9); BRL writes x15 (15 R413). -/
def usedRegs (sh : Shape) (v : View) : List Nat :=
  srcRegs sh.sa v.sa ++ srcRegs sh.sb v.sb ++ dstRegs sh.dst v.dst ++ (if v.opc = 0xF1 then [15] else [])

/-- The number under which a quarter of a codebook register is marked as holding an error (05 R134, 06 R207). -/
def cbSite (m : Bool) (q : Nat) : Nat := 64 * (1 + (if m then 4 else 0) + q % 4)

/-- The number under which special register `n` is marked (06 R192, R207). -/
def sprSite (n : Nat) : Nat := 64 * (9 + n)

/-- Codebook registers an instruction reads: CBDEC and CBENC (05 R161-R162). -/
def readBooks (v : View) : List Nat :=
  if v.opc = 0x84 ∨ v.opc = 0x85 then (List.range 4).map (cbSite (v.mod.getLsbD 0)) else []

/-- Special registers an instruction reads: the one SPR names, and FPMODE for every row of chapter 05, which reads FTZ at issue
(05 R132, R135; 06 R197). -/
def readSprs (v : View) : List Nat :=
  if v.opc = 0x47 then [sprSite v.imm.toNat] else if 0x50 ≤ v.opc.toNat ∧ v.opc.toNat ≤ 0x8A then [sprSite 0] else []

/-- On a control core, an instruction with operand `a` that takes its job from CTXJOB: every one that 15 R397 gives no other job
and that speaks of a job at all. Local memory and the control page need none, nor do TDONE, FENCE and FLUSH. -/
def takesJob (v : View) (a : Word) : Bool :=
  let o := v.opc.toNat
  ((decide (0xA0 ≤ o) && decide (o ≤ 0xEA) && o != 0xA2 && o != 0xB5 && o != 0xB6) || o == 0xFD) &&
    !(decide (0xB0 ≤ o) && decide (o ≤ 0xB4) && fldN a 48 16 == 0 && fldN a 30 2 != 0)

/-- Registers an instruction reads: MAD and its like read DST (04 R119, R124). -/
def readRegs (sh : Shape) (v : View) : List Nat :=
  srcRegs sh.sa v.sa ++ srcRegs sh.sb v.sb ++ (if sh.dst = .regRead then [v.dst.toNat] else []) ++ readBooks v ++ readSprs v

/-- Predicates an instruction reads or writes beside its guard (04 R101 condition 9, R124, R128). -/
def usedPreds (sh : Shape) (v : View) : List Nat :=
  (if sh.dst ≠ .none ∧ 24 ≤ v.dst.toNat then [v.dst.toNat - 24] else []) ++
  (if v.pact ≠ 0 then [v.pidx.toNat] else []) ++
  (match v.opc.toNat with
    | 0x21 => [v.mod.toNat % 8]
    | 0x40 | 0x41 => List.range 8
    | 0x42 => [v.sa.toNat % 8, v.sb.toNat % 8]
    | _ => [])

/-- A register waits for an outstanding result (04 R108-R109). -/
def Ctx.regPending (C : Ctx) (r : Nat) : Bool :=
  C.outst.any fun o => o.dst.toNat < 16 && o.dst.toNat ≤ r && r < o.dst.toNat + o.vals.length

/-- A predicate waits for an outstanding result (04 R108-R109). -/
def Ctx.predPending (C : Ctx) (k : Nat) : Bool :=
  C.outst.any fun o => (24 ≤ o.dst.toNat && o.dst.toNat - 24 == k) || (o.pact != 0 && o.pidx.toNat == k)

/-- Channels that DQ selects, each once (02 R61). -/
def dqChans (sh : Shape) (v : View) : List Nat :=
  let one (b : Bool) (c : Option Nat) : List Nat := if b then c.toList else []
  (one (v.dq.getLsbD 3) (if v.trig.cha = 7 then none else some v.trig.cha.toNat) ++
   one (v.dq.getLsbD 2) (if v.trig.chb = 7 then none else some v.trig.chb.toNat) ++
   one (v.dq.getLsbD 1) (match sh.sa with | .src | .input => chanOfSrc v.sa | _ => none) ++
   one (v.dq.getLsbD 0) (match sh.sb with | .src => chanOfSrc v.sb | _ => none)).eraseDups

/-! ### Admission -/

/-- The channel tests: CHA under TGA, CHB for a data token, and a data token for every source read
(04 R101 conditions 5-7). -/
def channelsReady (s : State) (p c : Nat) (sh : Shape) (v : View) : Bool :=
  let data (ch : Nat) : Bool := match s.headOf p c ch with | some t => t.kind == .data | none => false
  let srcOk (u : SrcUse) (code : BitVec 5) : Bool :=
    match u with
    | .src | .input => (match chanOfSrc code with | some ch => data ch | none => true)
    | _ => true
  (v.trig.cha == 7 ||
    (match s.headOf p c v.trig.cha.toNat with | some t => headTest v.trig.tga.toNat t | none => false)) &&
  (v.trig.chb == 7 || data v.trig.chb.toNat) && srcOk sh.sa v.sa && (sh.form == .i || srcOk sh.sb v.sb)

/-- The memory request port has space (07 R222). -/
def portSpace (P : Proc) (c resp : Nat) : Bool :=
  P.reqs.length < 4 && P.ml.length + resp ≤ 8 && !(P.ml.any fun e => e.ctx == c && e.acq && e.val.isNone)

/-- The destination has space (04 R114, 06 R201, 07 R222). An end marker that merges needs none (06 R177, log entry 13). -/
def spaceReady (s : State) (p c : Nat) (sh : Shape) (v : View) : Bool :=
  let P := s.proc p
  (match sh.dst with
    | .value | .out =>
      if 16 ≤ v.dst.toNat ∧ v.dst.toNat ≤ 19 then
        let q := vget P.outs (v.dst.toNat - 16)
        decide (q.length < outDepth) || (v.opc == 0x91 && mergeable q (endTok v.mod.toNat)) ||
        (v.opc == 0x90 && (match s.headOf p c v.trig.cha.toNat with | some t => mergeable q t | none => false))
      else true
    | .mem => portSpace P c sh.resp
    | _ => true) &&
  (!(v.opc == 0xA0 || v.opc == 0xA1) || P.taskOut.length < 2)

/-- The hold set and the open-task table have room for what the word dequeues (06 R178, R188). -/
def takeReady (s : State) (p c : Nat) (sh : Shape) (v : View) : Bool :=
  let P := s.proc p
  let chs := dqChans sh v
  let permits := (chs.filter fun ch => ch < 4 && (match s.headOf p c ch with | some t => t.kind == .permit | _ => false)).length
  (v.opc == 0x90 || permits = 0 || P.hold.length + permits ≤ 4) &&
  (!(chs.contains 4 && !isCore p) ||
    (match P.tlHead c with | some k => k.2.task == 0xFFFF || P.openTasks.length < 32 | none => true))

/-- Conditions of single opcodes: SPR and SPW of FPFLAGS (05 R137), TRACE (06 R203), PEEK (06 R198). -/
def opcodeReady (s : State) (p c : Nat) (v : View) : Bool :=
  let P := s.proc p
  match v.opc.toNat with
  | 0x47 | 0x48 => v.imm != 1 || !((P.ctx c).outst.any fun o => o.canFlag)
  | 0x4B => !P.trace.en || P.trace.drop || P.traceBuf.isNone
  | 0x93 =>
    let q := vget P.ins v.trig.cha.toNat
    q.drank == 0 && (q.q.take (v.mod.toNat % 4 + 1)).length == v.mod.toNat % 4 + 1 &&
      (q.q.take (v.mod.toNat % 4 + 1)).all fun e => match e with | .tok _ => true | .resv _ => false
  | _ => true

/-- Nothing the word uses is pending (04 R101 condition 9). -/
def operandsReady (C : Ctx) (sh : Shape) (v : View) : Bool :=
  (usedRegs sh v).all (fun r => !C.regPending r) && (usedPreds sh v).all fun k => !C.predPending k

/-- No predicate of the guard is pending (04 R101 condition 4). -/
def guardReady (C : Ctx) (t : Trigger) : Bool :=
  (List.range 8).all fun k => !(t.pcare.getLsbD k) || !C.predPending k

/-- The unit's region lets it issue: it is not frozen and its unit has not recorded for a cut (04 R101, 16 R430). -/
def State.unitLive (s : State) (p : Nat) : Bool :=
  isCore p || (match s.regionOf p with
    | none => true
    | some R => R.st != .frozen && (match R.cut with | none => true | some k => !k.recorded.contains p))

/-- How an instruction word meets its context. -/
inductive Adm where
  /-- it issues -/
  | run
  /-- it waits, and nothing changes (04 R103, 02 R64 step 3) -/
  | hold
  /-- a control core skips it (02 R64 step 2) -/
  | skip
  deriving DecidableEq, Repr

/-- The context a word issues in: its CTX field in an element, the fetching context on a core (02 R47, R64). -/
def State.ctxNo (s : State) (v : View) : Nat := if isCore s.cur.proc then s.cur.ctx.toNat else v.trig.ctx.toNat

/-- Conditions 5 to 9 of 04 R101. -/
def wordReady (s : State) (p c : Nat) (sh : Shape) (v : View) : Bool :=
  channelsReady s p c sh v && operandsReady (s.ctx p c) sh v && spaceReady s p c sh v && takeReady s p c sh v &&
  opcodeReady s p c v

/-- Admission of a word (04 R101, 02 R64, 15 R393). -/
def admission (sh : Shape) (v : View) (s : State) : Adm :=
  let p := s.cur.proc
  let c := s.ctxNo v
  let C := s.ctx p c
  if C.rstate ≠ .run ∨ s.unitLive p = false ∨ guardReady C v.trig = false then .hold
  else if guardHolds v.trig C.p = false then (if isCore p then .skip else .hold)
  else if wordReady s p c sh v then .run
  else .hold

/-! ### The operands as read at issue -/

/-- What an effect may read: the unit and context, the word's fields, and its sources, all as they stand before the issue. -/
structure Env where
  p : Nat
  c : Nat
  v : View
  sh : Shape
  C : Ctx
  a : Word
  a2 : Word
  b : Word
  b2 : Word
  d : Word
  d2 : Word
  /-- the state before the issue, for heads and queues an effect reads -/
  pre : State

/-- Reads the operands at issue (04 R108, R115). A field the opcode does not use holds code 0 and gives a fault record the
value Src gives for it (16 R422, log entry 17). -/
def State.env (s : State) (sh : Shape) (v : View) : Env :=
  let p := s.cur.proc
  let c := s.ctxNo v
  let C := s.ctx p c
  { p := p, c := c, v := v, sh := sh, C := C
    a := if sh.form = .b ∨ sh.form = .w then 0 else s.src p c v.sa
    a2 := vget C.x (v.sa.toNat + 1)
    b := if sh.form = .i then v.imm.signExtend 64 else if sh.form = .r then s.src p c v.sb else 0
    b2 := vget C.x (v.sb.toNat + 1)
    d := vget C.x v.dst.toNat
    d2 := vget C.x (v.dst.toNat + 1)
    pre := s }

/-! ### Dequeues -/

/-- Removes the head of an input channel; a permit enters the hold set unless FWD moves it (06 R178). The hold set is kept in
dequeue order and closes up when PGIVE removes an entry (DESIGN CHOICE, log entry 81). -/
def popIn (P : Proc) (ch : Nat) (fwd : Bool) : Proc :=
  let q := vget P.ins ch
  let hold := match frontOf q.q with
    | some t =>
      if t.kind = .permit ∧ fwd = false then
        P.hold ++ [{ key := t.payload.setWidth 12, taint := bitOf t.payload 12 }]
      else P.hold
    | none => P.hold
  { P with ins := vset P.ins ch { q with q := q.q.tail }, hold := hold }

/-- Removes the head packet of the task lane; a dispatched task becomes open (06 R186, R188). -/
def popTask (P : Proc) : Proc :=
  match P.head with
  | none => P
  | some h =>
    let lane := vget P.lanes h.val
    let opened := match lane.head? with
      | some k => if k.task = 0xFFFF then P.openTasks else P.openTasks ++ [{ task := k.task, cancelled := false }]
      | none => P.openTasks
    { P with lanes := vset P.lanes h.val lane.tail, head := none, openTasks := opened }

/-- One dequeue of channel code `ch` by context `c` of unit `p` (02 R61; on a core 15 R394). -/
def State.dequeue1 (p c : Nat) (fwd : Bool) (s : State) (ch : Nat) : State :=
  if ch < 4 then s.modProc p fun P => popIn P ch fwd
  else if ch = 4 then
    if isCore p then s.modDie (dieOf p) fun D => { D with mailbox := D.mailbox.tail }
    else s.modProc p popTask
  else if ch = 5 then s.modProc p fun P => { P with ml := mlPop P.ml c }
  else if ch = 6 then
    s.modProc p fun P => if isCore p then { P with evq := P.evq.tail } else { P with el := P.el.tail }
  else s

/-- The dequeues of a word (02 R61). -/
def State.dequeue (s : State) (p c : Nat) (sh : Shape) (v : View) : State :=
  (dqChans sh v).foldl (State.dequeue1 p c (v.opc == 0x90)) s

/-! ### Delivery -/

/-- What an effect delivers. -/
structure Res where
  /-- the values for DST on, empty for an instruction that delivers no value -/
  vals : List Word := []
  tag : BitVec 3 := 0
  /-- the condition of PACT 1 (02 R60) -/
  cond : Bool := true
  flags : BitVec 5 := 0
  /-- the target of a taken branch -/
  pc : Option (BitVec 19) := none
  /-- what a predicate destination receives, when it is not whether the value is nonzero (09 R262) -/
  pv : Option Bool := none
  deriving DecidableEq, Repr

/-- A delivered value, whose condition is that it is nonzero (02 R60). -/
def Res.val (w : Word) (tag : BitVec 3 := 0) (flags : BitVec 5 := 0) : Res :=
  { vals := [w], tag := tag, cond := w != 0, flags := flags }

/-- No value (02 R60: the condition is 1). -/
def Res.none : Res := {}

/-- Writes values to consecutive registers. -/
def Ctx.setRegs (C : Ctx) (r : Nat) : List Word → Ctx
  | [] => C
  | w :: ws => ({ C with x := vset C.x r w } : Ctx).setRegs (r + 1) ws

/-- PACT (02 R59-R60). -/
def pactOf (pact : BitVec 2) (k : Nat) (cond : Bool) (p : BitVec 8) : BitVec 8 :=
  match pact.toNat with
  | 1 => setPred p k cond
  | 2 => setPred p k false
  | 3 => setPred p k true
  | _ => p

/-- Deliver, as far as it concerns the context: registers, predicates, flags, and PACT last (02 R59, 04 R115, 05 R137). -/
def deliverCtx (o : Outst) (C : Ctx) : Ctx :=
  let C1 := if o.dst.toNat < 16 then C.setRegs o.dst.toNat o.vals else C
  let p1 := if 24 ≤ o.dst.toNat ∧ o.vals ≠ [] then setPred C1.p (o.dst.toNat - 24) o.pv else C1.p
  { C1 with p := pactOf o.pact o.pidx.toNat o.cond p1, fpflags := C1.fpflags ||| o.flags }

/-- A written register holds no error any more (06 R207). -/
def Proc.mend (P : Proc) (c : Nat) (o : Outst) : Proc :=
  if o.dst.toNat < 16 then
    { P with badRegs := P.badRegs.filter fun k =>
        !(decide (16 * c + o.dst.toNat ≤ k) && decide (k < 16 * c + o.dst.toNat + o.vals.length)) }
  else P

/-- A codebook quarter or a special register that an instruction writes holds no error any more (06 R207). -/
def State.mendSite (s : State) (p c r : Nat) : State :=
  s.modProc p fun P => { P with badRegs := P.badRegs.filter (· != 16 * c + r) }

/-- The record of a result on its way to delivery. -/
def outstOf (sh : Shape) (v : View) (r : Res) (due resv : Nat) : Outst :=
  { due := due, dst := v.dst, vals := if sh.dst = .none then [] else r.vals, tag := r.tag,
    pv := r.pv.getD (r.vals.head?.any (· != 0)), pact := v.pact, pidx := v.pidx, cond := r.cond, flags := r.flags,
    canFlag := canSetFlag v.opc, resv := resv }

/-- The result goes to an output channel. -/
def toOut (o : Outst) : Bool := 16 ≤ o.dst.toNat && o.dst.toNat ≤ 19 && !o.vals.isEmpty

/-- Delivery in the issue cycle (latency 1). -/
def State.deliver (s : State) (p c : Nat) (o : Outst) : State :=
  let s1 := s.modProc p fun P => (P.setCtx c (deliverCtx o (P.ctx c))).mend c o
  if toOut o then s1.modOut p (o.dst.toNat - 16) fun q => enqueue q (dataTok o.tag (o.vals.headD 0)) else s1

/-- A result of latency above 1: it is outstanding, with a reserved entry when it goes to an output channel
(04 R108-R110). -/
def State.suspend (s : State) (p c : Nat) (o : Outst) : State :=
  let s1 := s.modCtx p c fun C => { C with outst := C.outst ++ [o] }
  if toOut o then s1.modOut p (o.dst.toNat - 16) fun q => q ++ [.resv o.resv] else s1

/-- Delivery of an outstanding result: its reserved entry is filled (04 R110). -/
def State.deliverLate (s : State) (p c : Nat) (o : Outst) : State :=
  let s1 := s.modProc p fun P =>
    (P.setCtx c (deliverCtx o { P.ctx c with outst := (P.ctx c).outst.erase o })).mend c o
  if toOut o then s1.modOut p (o.dst.toNat - 16) fun q => fillEntry q o.resv (dataTok o.tag (o.vals.headD 0)) else s1

/-- The divide row of 04 R108. -/
def divLatency (signed : Bool) (a b : Word) : Nat :=
  if b = 0 ∨ (signed = true ∧ a = BitVec.intMin 64 ∧ b = BitVec.allOnes 64) then 10
  else
    let n := if signed then a.toInt.natAbs else a.toNat
    Nat.max 10 (2 + (sigBits n + 1) / 2)

/-- The latency of an issue (04 R108, 05 R136, 09 R259, 15 R413). -/
def latencyOf (e : Env) : Nat :=
  if e.sh.lat = 0 then divLatency (e.v.opc == 0x05 || e.v.opc == 0x07) e.a e.b else e.sh.lat

/-- On a control core, PC advances by 8 or takes a branch's target (15 R393, R414). An element has no PC. -/
def State.advance (s : State) (p c : Nat) (target : Option (BitVec 19)) : State :=
  if isCore p then s.modCtx p c fun C => { C with pc := target.getD (C.pc + 8) } else s

/-- The end of an issue: delivery, now or later, and the PC. -/
def finish (e : Env) (r : Res) (s : State) : State :=
  let lat := latencyOf e
  let s1 :=
    if lat ≤ 1 then s.deliver e.p e.c (outstOf e.sh e.v r 0 0)
    else
      let i := s.freshId
      i.2.suspend e.p e.c (outstOf e.sh e.v r (s.unitCycle e.p + lat) i.1)
  s1.advance e.p e.c r.pc

/-- An effect: what an instruction does once it issues, from its operands and the state after its dequeues. -/
abbrev Effect := Env → State → Except Flt (State × Res)

/-- A faulting instruction's record takes its operands where the fault names none (16 R422). -/
def Flt.withOps (f : Flt) (e : Env) : Flt :=
  { f with op0 := some (f.op0.getD e.a), op1 := some (f.op1.getD e.b) }

/-- What an admitted word does: its effect and delivery, or its issue fault with no effect (06 R205). -/
def perform (e : Env) (eff : Effect) (s : State) : State :=
  match eff e (s.dequeue e.p e.c e.sh e.v) with
  | .ok (s', r) => finish e r s'
  | .error f => s.takeFault (if f.code = 18 then .brk else .issue) e.p e.c s.cur.slot s.cur.word (f.withOps e)

/-- The word of the slot in hand holds an uncorrectable error. -/
def State.slotBad (s : State) : Bool :=
  !isCore s.cur.proc && ((s.proc s.cur.proc).slots.get Slot.reset s.cur.slot).bad

/-- Registers that the issue of a word reads in its context: the word's own, PATIENCE, by which an element chooses (04 R104), and
CTXJOB on a control core (15 R397). -/
def State.issueReads (s : State) (sh : Shape) (v : View) : List Nat :=
  readRegs sh v ++
  (if isCore s.cur.proc then
    (if takesJob v (s.src s.cur.proc (s.ctxNo v) v.sa) then [sprSite 21] else [])
   else [sprSite 2])

/-- The word of the slot, or a register its issue reads, holds an uncorrectable error (06 R207, log entry 108). -/
def State.eccHit (s : State) (sh : Shape) (v : View) : Bool :=
  s.slotBad || (s.issueReads sh v).any fun r => (s.proc s.cur.proc).badRegs.contains (16 * s.ctxNo v + r)

/-- An issue that meets an uncorrectable error takes INTEGRITY (06 R207). -/
def State.takeEcc (s : State) (e : Env) : State :=
  s.takeFault .issue e.p e.c s.cur.slot s.cur.word (fltIntegrity.withOps e)

/-- The issue of a word: it performs, waits or is skipped. -/
def issue (v : View) (eff : Effect) (s : State) : Out :=
  match shapeOf v with
  | none => .next s
  | some sh =>
    match admission sh v s with
    | .run => .next (if s.eccHit sh v then s.takeEcc (s.env sh v) else perform (s.env sh v) eff s)
    | .hold => .next s
    | .skip => .next (s.advance s.cur.proc (s.ctxNo v) none)

/-! ### Shared effects -/

/-- An effect that delivers one value computed from the operands. -/
def pureVal (f : Env → Word) : Effect := fun e s => .ok (s, .val (f e))

/-- An effect that delivers what its operands give. -/
def pureRes (f : Env → Res) : Effect := fun e s => .ok (s, f e)

/-- Queues a request of the issuing context and reserves its response words (07 R221, R223). -/
def State.pushReq (s : State) (e : Env) (kind : ReqKind) (mode : Nat) : State :=
  let i := s.freshId
  let r : Req :=
    { rid := i.1, ctx := e.c, slot := s.cur.slot, word := s.cur.word, kind := kind, a := e.a, a2 := e.a2, b := e.b,
      b2 := e.b2, mode := mode, job := s.jobOf e.p e.c, resp := e.sh.resp, code := 0, wide := 0, flying := false, stage := 0, resent := false,
      data := [], miss := none }
  i.2.modProc e.p fun P =>
    { P with reqs := P.reqs ++ [r], ml := mlReserve P.ml e.c i.1 e.sh.resp (kind == .ldacq) }

/-- An instruction of the request port: its issue faults, else one request (07 R221, R228). -/
def portEffect (kind : ReqKind) (mode : Env → Nat) (faults : Env → State → Option Flt) : Effect := fun e s =>
  match faults e s with
  | some f => .error f
  | none => .ok (s.pushReq e kind (mode e), .none)

/-- MOD as the mode of a request. -/
def modOf (e : Env) : Nat := e.v.mod.toNat

end Sys2Proof.Machine
end

