-- ==== Sys2Proof/Machine/Numbers.lean ====
section
/-! DEFINITION. Floating-point values and their one rounding (01 R18-R27, 05 R140-R148), carry-save partials (01 R32-R36),
the matrix-engine sum (01 R37-R40), the Espalier blocking (01 R41-R42) and the normaliser's rounding (01 R43-R45). Values are
exact: a significand, a power of two, and a mark that the value lies strictly above it (quotients and roots). -/

namespace Sys2Proof.Machine

/-- A binary format: exponent bits and fraction bits (01 R18). -/
structure Fmt where
  eb : Nat
  fb : Nat
  deriving DecidableEq, Repr

/-- FP32 (01 R18). -/
def fp32 : Fmt := { eb := 8, fb := 23 }
/-- BF16 (01 R18). -/
def bf16 : Fmt := { eb := 8, fb := 7 }
/-- FP16 (01 R18). -/
def fp16 : Fmt := { eb := 5, fb := 10 }

/-- The exponent bias. -/
def Fmt.bias (f : Fmt) : Nat := 2 ^ (f.eb - 1) - 1
/-- The exponent of the smallest normal value. -/
def Fmt.emin (f : Fmt) : Int := 1 - f.bias
/-- The position of the sign. -/
def Fmt.top (f : Fmt) : Nat := f.eb + f.fb
/-- The pattern of +∞. -/
def Fmt.infBits (f : Fmt) : Nat := (2 ^ f.eb - 1) * 2 ^ f.fb
/-- The canonical quiet NaN (01 R25). -/
def Fmt.nanBits (f : Fmt) : Nat := f.infBits + 2 ^ (f.fb - 1)

/-- A value: a NaN (marked when it records IV), an infinity, or ± m × 2^e, with `more` when the magnitude lies strictly
between m and m + 1 units. -/
inductive FVal where
  | nan (iv : Bool)
  | inf (neg : Bool)
  | fin (neg : Bool) (m : Nat) (e : Int) (more : Bool)
  deriving DecidableEq, Repr

/-- The value of a pattern; a signalling NaN records IV (01 R18, R26). -/
def Fmt.value (f : Fmt) (bits : Nat) : FVal :=
  let neg := bits / 2 ^ f.top % 2 == 1
  let ex := bits / 2 ^ f.fb % 2 ^ f.eb
  let fr := bits % 2 ^ f.fb
  if ex = 2 ^ f.eb - 1 then
    if fr = 0 then .inf neg else .nan (decide (fr < 2 ^ (f.fb - 1)))
  else if ex = 0 then .fin neg fr (f.emin - f.fb) false
  else .fin neg (2 ^ f.fb + fr) ((ex : Int) - f.bias - f.fb) false

/-- A pattern is subnormal. -/
def Fmt.isSub (f : Fmt) (bits : Nat) : Bool := bits / 2 ^ f.fb % 2 ^ f.eb == 0 && bits % 2 ^ f.fb != 0

/-- Read of 05 R140: under FTZ a subnormal is a zero of its sign. -/
def Fmt.read (f : Fmt) (ftz : Bool) (bits : Nat) : FVal :=
  if ftz && f.isSub bits then .fin (bits / 2 ^ f.top % 2 == 1) 0 0 false else f.value bits

/-- IV of a value that is a NaN. -/
def FVal.iv : FVal → Bool
  | .nan b => b
  | _ => false
/-- A value is a NaN. -/
def FVal.isNan : FVal → Bool
  | .nan _ => true
  | _ => false
/-- A value is a zero. -/
def FVal.isZero : FVal → Bool
  | .fin _ m _ more => m == 0 && !more
  | _ => false
/-- The sign of a value. -/
def FVal.neg? : FVal → Bool
  | .nan _ => false
  | .inf n => n
  | .fin n _ _ _ => n
/-- Exp of a finite nonzero value (01 R19). -/
def FVal.exp : FVal → Int
  | .fin _ m e _ => (Nat.log2 m : Int) + e
  | _ => 0
/-- A value with its sign replaced. -/
def FVal.withSign (n : Bool) : FVal → FVal
  | .nan b => .nan b
  | .inf _ => .inf n
  | .fin _ m e k => .fin n m e k

/-! ### Rounding -/

/-- Whether a rounding goes away from zero (01 R20): `n` the kept significand, `rem` of `d` the dropped part. -/
def roundsUp (rm : Nat) (neg : Bool) (n rem d : Nat) (more : Bool) : Bool :=
  let inexact := rem != 0 || more
  match rm with
  | 0 => 2 * rem > d || (2 * rem == d && (more || n % 2 == 1))
  | 2 => neg && inexact
  | 3 => !neg && inexact
  | _ => false

/-- A magnitude on the grid of 2^q: the rounded count and whether anything was lost. -/
def roundGrid (rm : Nat) (neg : Bool) (m : Nat) (e q : Int) (more : Bool) : Nat × Bool :=
  if q ≤ e then (m * 2 ^ (e - q).toNat, more)
  else
    let d := 2 ^ (q - e).toNat
    let n := m / d
    let rem := m % d
    (n + (if roundsUp rm neg n rem d more then 1 else 0), rem != 0 || more)

/-- The largest finite pattern. -/
def Fmt.maxBits (f : Fmt) : Nat := f.infBits - 1

/-- The result of an overflow (01 R21). -/
def Fmt.overflow (f : Fmt) (rm : Nat) (neg : Bool) : Nat :=
  let toMax := match rm with
    | 1 => true
    | 2 => !neg
    | 3 => neg
    | _ => false
  (if neg then 2 ^ f.top else 0) + (if toMax then f.maxBits else f.infBits)

/-- Rounds a nonzero magnitude to `prec` fraction bits of a format: the pattern, whether it is inexact, whether it
overflowed, and whether it is tiny after rounding (01 R21, R26). A magnitude that RTZ rounds to the largest finite value has
not overflowed (log entry 119). -/
def Fmt.roundMag (f : Fmt) (prec : Nat) (rm : Nat) (neg : Bool) (m : Nat) (e : Int) (more : Bool) :
    Nat × Bool × Bool × Bool :=
  let ex : Int := (Nat.log2 m : Int) + e
  let base := max ex f.emin - f.fb
  let q := max (ex - prec) (f.emin - f.fb)
  let r := roundGrid rm neg m e q more
  let n := r.1 * 2 ^ (q - base).toNat
  let sign := if neg then 2 ^ f.top else 0
  let free := (roundGrid rm neg m e (ex - prec) more).1
  let tiny := decide (ex < f.emin) && !(decide (ex = f.emin - 1) && free == 2 ^ (prec + 1))
  if ex > f.bias then (f.overflow rm neg, true, true, false)
  else
    let pat := if ex < f.emin then n else (ex + f.bias).toNat * 2 ^ f.fb + n - 2 ^ f.fb
    if pat ≥ f.infBits then (f.overflow rm neg, true, true, false)
    else (sign + pat, r.2, false, tiny)

/-- Rounds a value to a format: its pattern and its flags (01 R21, R23, R25, R26). A zero keeps its sign. -/
def Fmt.round (f : Fmt) (rm : Nat) (ftz : Bool) (v : FVal) : Nat × BitVec 5 :=
  match v with
  | .nan iv => (f.nanBits, flagIf iv flIV)
  | .inf n => ((if n then 2 ^ f.top else 0) + f.infBits, 0)
  | .fin n m e more =>
    if m = 0 ∧ more = false then ((if n then 2 ^ f.top else 0), 0)
    else
      let r := f.roundMag f.fb rm n m e more
      if r.2.2.1 then (r.1, flOF ||| flNX)
      else if ftz && r.2.2.2 then ((if n then 2 ^ f.top else 0), flUF ||| flNX)
      else (r.1, flagIf (r.2.2.2 && r.2.1) flUF ||| flagIf r.2.1 flNX)

/-- A finite value rounded to an integer: its magnitude and whether it is inexact. -/
def roundInt (rm : Nat) (neg : Bool) (m : Nat) (e : Int) : Nat × Bool := roundGrid rm neg m e 0 false

/-! ### Exact operations -/

/-- A finite value as a signed count of 2^q, for q at most its exponent. -/
def toGrid (neg : Bool) (m : Nat) (e q : Int) : Int :=
  let x : Int := (m * 2 ^ (e - q).toNat : Nat)
  if neg then -x else x

/-- The exact product (05 R140-R141): 0 × ∞ is invalid. -/
def mulF (a b : FVal) : FVal :=
  match a, b with
  | .nan i, y => .nan (i || y.iv)
  | x, .nan j => .nan (j || x.iv)
  | .inf n, y => if y.isZero then .nan true else .inf (n != y.neg?)
  | x, .inf n => if x.isZero then .nan true else .inf (n != x.neg?)
  | .fin n m e _, .fin k l g _ => .fin (n != k) (m * l) (e + g) false

/-- The least exponent of the finite values of a list. -/
def minExp : List FVal → Int
  | [] => 0
  | [.fin _ _ e _] => e
  | .fin _ _ e _ :: vs => min e (minExp vs)
  | _ :: vs => minExp vs

/-- The exact sum of finite values on a grid. -/
def sumGrid (q : Int) (vs : List FVal) : Int :=
  vs.foldl (fun acc v => match v with | .fin n m e _ => acc + toGrid n m e q | _ => acc) 0

/-- The exact sum of a list of values (05 R140-R141, R150): opposite infinities are invalid; an exact zero keeps a sign that
all terms, being zeros, share, and is otherwise +0, or -0 in RDN (log entry 14). -/
def sumF (rm : Nat) (vs : List FVal) : FVal :=
  let pinf := vs.contains (.inf false)
  let ninf := vs.contains (.inf true)
  if vs.any FVal.isNan || (pinf && ninf) then .nan (vs.any FVal.iv || (pinf && ninf))
  else if pinf then .inf false
  else if ninf then .inf true
  else
    let q := minExp vs
    let t := sumGrid q vs
    if t = 0 then
      let same := vs.all FVal.isZero && (vs.all FVal.neg? || vs.all fun v => !v.neg?)
      .fin (if same then vs.all FVal.neg? else rm == 2) 0 0 false
    else .fin (decide (t < 0)) t.natAbs q false

/-- The negative of a value. -/
def negF (v : FVal) : FVal := v.withSign (!v.neg?)

/-- The exact quotient and its flags (05 R143). -/
def divF (a b : FVal) : FVal × BitVec 5 :=
  match a, b with
  | .nan i, y => (.nan (i || y.iv), 0)
  | x, .nan j => (.nan (j || x.iv), 0)
  | .inf _, .inf _ => (.nan true, 0)
  | .inf n, y => (.inf (n != y.neg?), 0)
  | x, .inf n => (.fin (n != x.neg?) 0 0 false, 0)
  | .fin n m e _, .fin k l g _ =>
    if l = 0 then if m = 0 then (.nan true, 0) else (.inf (n != k), flDZ)
    else if m = 0 then (.fin (n != k) 0 0 false, 0)
    else
      let sh := 64 + Nat.log2 l
      (.fin (n != k) (m * 2 ^ sh / l) (e - g - sh) (m * 2 ^ sh % l != 0), 0)

/-- The integer square root, bit by bit from 2^40 down. -/
def isqrt (n : Nat) : Nat :=
  (List.range 41).foldl (fun r j => let t := r + 2 ^ (40 - j); if t * t ≤ n then t else r) 0

/-- The exact square root (05 R143). -/
def sqrtF (a : FVal) : FVal :=
  match a with
  | .nan i => .nan i
  | .inf n => if n then .nan true else .inf false
  | .fin n m e _ =>
    if m = 0 then .fin n 0 0 false
    else if n then .nan true
    else
      let k := 79 - Nat.log2 m
      let k := if (e - k) % 2 = 0 then k else k - 1
      let x := m * 2 ^ k
      let r := isqrt x
      .fin false r ((e - k) / 2) (r * r != x)

/-- Order of two values that are no NaN; -0 equals +0. -/
def ordF (a b : FVal) : Ordering :=
  match a, b with
  | .inf n, .inf k => if n = k then .eq else if n then .lt else .gt
  | .inf n, _ => if n then .lt else .gt
  | _, .inf k => if k then .gt else .lt
  | .fin n m e _, .fin k l g _ => compare (toGrid n m e (min e g)) (toGrid k l g (min e g))
  | _, _ => .eq

/-- FMIN's or FMAX's choice (05 R144): -0 lies below +0; a quiet NaN gives way to the other operand. -/
def minmaxF (wantMax : Bool) (a b : FVal) : FVal :=
  match a, b with
  | .nan i, .nan j => .nan (i || j)
  | .nan i, y => if i then .nan true else y
  | x, .nan j => if j then .nan true else x
  | x, y =>
    let less := match ordF x y with
      | .lt => true
      | .gt => false
      | .eq => x.neg? && !y.neg?
    if less = wantMax then y else x

/-- The condition of FCMP and BCMP (05 R145): whether it holds, and whether it records IV. -/
def fcmpHolds (cond : Nat) (a b : FVal) : Bool × Bool :=
  let un := a.isNan || b.isNan
  let quiet := a.iv || b.iv
  let o := ordF a b
  match cond with
  | 0 => (!un && o == .eq, quiet)
  | 1 => (un || o != .eq, quiet)
  | 2 => (!un && o == .lt, un)
  | 3 => (!un && o != .gt, un)
  | 4 => (!un && o == .gt, un)
  | 5 => (!un && o != .lt, un)
  | 6 => (un, quiet)
  | _ => (!un, quiet)

/-- FCLASS's mask (05 R146). -/
def fclassBits (bits : Nat) : Word :=
  let f := fp32
  let bit (k : Nat) : Word := put 1 k
  match f.value bits with
  | .nan iv => bit (if iv then 8 else 9)
  | .inf n => bit (if n then 0 else 7)
  | .fin n m _ _ =>
    if m = 0 then bit (if n then 3 else 4)
    else if f.isSub bits then bit (if n then 2 else 5)
    else bit (if n then 1 else 6)

/-- FRINT (05 R147): the integral value and its flags. -/
def frintF (rm : Nat) (a : FVal) : FVal × BitVec 5 :=
  match a with
  | .fin n m e _ =>
    if e ≥ 0 then (a, 0)
    else
      let r := roundInt rm n m e
      (.fin n r.1 0 false, flagIf r.2 flNX)
  | _ => (a, 0)

/-- a × 2^b (05 R147). Beyond ±1,000 every `b` overflows or underflows as ±1,000 does. -/
def fscaleF (a : FVal) (b : Int) : FVal :=
  match a with
  | .fin n m e _ => .fin n m (e + max (-1000) (min 1000 b)) false
  | _ => a

/-- FRCPA (05 R148): 1 ÷ a rounded RNE to 12 significant bits, and its flags. -/
def frcpa (ftz : Bool) (bits : Nat) : Nat × BitVec 5 :=
  let f := fp32
  match f.read ftz bits with
  | .nan iv => (f.nanBits, flagIf iv flIV)
  | .inf n => ((if n then 2 ^ f.top else 0), 0)
  | .fin n m e _ =>
    let sign := if n then 2 ^ f.top else 0
    if m = 0 then (sign + f.infBits, flDZ)
    else
      match (divF (.fin false 1 0 false) (.fin false m e false)).1 with
      | .fin _ m' e' more =>
        let r := f.roundMag 11 0 n m' e' more
        if r.2.2.1 then (sign + f.infBits, flOF)
        else if ftz && r.2.2.2 then (sign, 0)
        else (r.1, 0)
      | _ => (sign, 0)

/-- The bounds of the integer type of a conversion code (05 R157). -/
def intBounds (code : Nat) : Int × Int :=
  let w := match code / 2 with
    | 0 => 64
    | 1 => 32
    | 2 => 16
    | _ => 8
  if code % 2 = 0 then (-(2 ^ (w - 1)), 2 ^ (w - 1) - 1) else (0, 2 ^ w - 1)

/-- FTOI (01 R27, 05 R158): the integer and its flags. -/
def ftoi (rm : Nat) (code : Nat) (a : FVal) : Int × BitVec 5 :=
  let b := intBounds code
  match a with
  | .nan _ => (0, flIV)
  | .inf n => (if n then b.1 else b.2, flIV)
  | .fin n m e _ =>
    let r := roundInt rm n m e
    let v : Int := if n then -r.1 else r.1
    if v < b.1 then (b.1, flIV) else if v > b.2 then (b.2, flIV) else (v, flagIf r.2 flNX)

/-- An integer as a value. -/
def ofInt (v : Int) : FVal := .fin (decide (v < 0)) v.natAbs 0 false

/-- An integer as a 64-bit word. -/
def intWord (v : Int) : Word := BitVec.ofInt 64 v

/-! ### Carry-save partials -/

/-- The value of a partial (01 R33): a special, or v × 2^e. -/
inductive Part where
  | nan
  | inf (neg : Bool)
  | num (v e : Int)
  deriving DecidableEq, Repr

/-- The partial in a pair of words (01 R32-R33). -/
def partOf (w0 w1 : Word) : Part :=
  let sum : Int := (w0.extractLsb' 12 52).toInt
  let car : Int := (w1.extractLsb' 12 52).toInt
  let e : Int := (w0.extractLsb' 0 12).toInt
  if e = -2048 then (if sum = 0 then .nan else .inf (decide (sum < 0)))
  else .num (sum + car) e

/-- The halving loop of Emit (01 R34), on at most `fuel` turns. -/
def emitLoop : Nat → Int → Int → Int × Int
  | 0, v, e => (v, e)
  | fuel + 1, v, e => if v < -(2 ^ 52) ∨ v > 2 ^ 52 - 2 then emitLoop fuel (Int.fdiv v 2) (e + 1) else (v, e)

/-- Emit (01 R34), as a value: the canonical frame, or an infinity. -/
def emit (v e : Int) : Part :=
  let r := emitLoop (sigBits v.natAbs + 1) v e
  if r.2 > 2047 then .inf (decide (r.1 < 0))
  else if r.1 = 0 then .num 0 (-2047)
  else .num r.1 r.2

/-- The words of a canonical partial (01 R32-R34). A NaN or an infinity has one form, S = 0 or ±1 and C = 0, also where the operand
it comes from held another (log entry 101). -/
def partWords (p : Part) : Word × Word :=
  let pack (x : Int) (e : Int) : Word := BitVec.ofInt 52 x ++ BitVec.ofInt 12 e
  match p with
  | .nan => (pack 0 (-2048), 0)
  | .inf n => (pack (if n then -1 else 1) (-2048), 0)
  | .num v e =>
    if -(2 ^ 51) ≤ v ∧ v ≤ 2 ^ 51 - 1 then (pack v e, 0)
    else
      let h := Int.fdiv v 2
      (pack h e, pack (v - h) 0)

/-- v × 2^(e - g) truncated toward -∞, for g at least e (01 R35). -/
def floorTo (v e g : Int) : Int := Int.fdiv v (2 ^ (g - e).toNat)

/-- Combine (01 R35), and whether opposite infinities met. -/
def combine (a b : Part) : Part × Bool :=
  match a, b with
  | .nan, _ => (.nan, false)
  | _, .nan => (.nan, false)
  | .inf n, .inf k => if n = k then (.inf n, false) else (.nan, true)
  | .inf n, _ => (.inf n, false)
  | _, .inf n => (.inf n, false)
  | .num v e, .num w f =>
    if v = 0 then (emit w f, false)
    else if w = 0 then (emit v e, false)
    else
      let g := max e f
      (emit (floorTo v e g + floorTo w f g) g, false)

/-- The value of a partial, for one rounding (01 R33, 05 R165): an exact zero is +0. -/
def partVal : Part → FVal
  | .nan => .nan false
  | .inf n => .inf n
  | .num v e => .fin (decide (v < 0)) v.natAbs e false

/-- An FP32 value as a partial (01 R38). -/
def partOfFp32 (bits : Nat) : Part :=
  match fp32.value bits with
  | .nan _ => .nan
  | .inf n => .inf n
  | .fin n m e _ =>
    if m = 0 then .num 0 (-2047)
    else
      let ex : Int := (Nat.log2 m : Int) + e
      .num (toGrid n m e (ex - 23)) (ex - 23)

/-- The normaliser's result and flags (01 R44). -/
def normalise (p : Part) (scale : Nat) : Nat × BitVec 5 :=
  let s := fp32.value scale
  match p, s with
  | .nan, _ => (fp32.nanBits, flIV)
  | _, .nan _ => (fp32.nanBits, flIV)
  | .inf n, s => if s.isZero then (fp32.nanBits, flIV) else fp32.round 0 false (.inf (n != s.neg?))
  | .num v _, .inf k => if v = 0 then (fp32.nanBits, flIV) else fp32.round 0 false (.inf (decide (v < 0) != k))
  | .num v e, .fin k m g _ =>
    if v = 0 ∨ m = 0 then (0, 0)
    else fp32.round 0 false (.fin (decide (v < 0) != k) (v.natAbs * m) (e + g) false)

/-- FP32 1.0, the scale of a normaliser that has none (01 R44). -/
def oneBits : Nat := 0x3F800000

/-- The sum of one result element of a matrix operation over its products (01 R37), and whether it records IV. -/
def mxSum (ps : List FVal) : Part × Bool :=
  let pinf := ps.contains (.inf false)
  let ninf := ps.contains (.inf true)
  if ps.any FVal.isNan || (pinf && ninf) then (.nan, true)
  else if pinf then (.inf false, false)
  else if ninf then (.inf true, false)
  else
    match (ps.filter fun v => !v.isZero).map FVal.exp with
    | [] => (.num 0 (-2047), false)
    | x :: xs =>
      let fr := xs.foldl max x - 50
      let term (v : FVal) : Int :=
        match v with
        | .fin n m e _ =>
          let t : Int := if n then -(m : Int) else m
          if fr ≤ e then t * 2 ^ (e - fr).toNat else floorTo t e fr
        | _ => 0
      (.num (ps.foldl (fun acc v => acc + term v) 0) fr, false)

/-! ### Espalier blocks -/

/-- The lanes of a block as integers under one exponent (01 R41); none for a block that holds an infinity or a NaN. -/
def espBlock (lanes : List (BitVec 16)) : Int × Option (List Int) :=
  let vs := lanes.map fun l => bf16.value l.toNat
  let bad := vs.any fun v => match v with | .fin _ _ _ _ => false | _ => true
  if bad then (0, none)
  else
    let eb := match (vs.filter fun v => !v.isZero).map FVal.exp with
      | [] => 0
      | x :: xs => xs.foldl max x
    let m (v : FVal) : Int :=
      match v with
      | .fin n k e _ =>
        let r := (roundGrid 0 n k e (eb - 14) false).1
        if n then -(r : Int) else r
      | _ => 0
    (eb, some (vs.map m))

end Sys2Proof.Machine
end

