-- ==== Sys2Proof/Machine/Clock.lean ====
section
/-! DEFINITION. One cycle of the 1.5 GHz clock: the TAI counter with its slew (00 R9, 19 R485) and the throttle buckets
(15 R412); and the setting of a page's leaf entry by the supervisor (19 R457, log entry 9). -/

namespace Sys2Proof.Machine

/-- What the time counter advances in one cycle, in 1/6000 ns: 2/3 ns, slewed by 500 ns in 1,000,000 ns (19 R485). -/
def cycleStep (slew : Int) : Nat := if slew < 0 then 3998 else if slew = 0 then 4000 else 4002

/-- The slew left after one cycle: each moves the counter by 1/3000 ns. -/
def slewLeft (slew : Int) : Int := if slew < 0 then slew + 1 else if slew = 0 then 0 else slew - 1

/-- The throttle register of a bucket of a die: AGTHR 0-15, TASKTHR 16 (15 R402). -/
def throttleReg (i : Nat) : Nat := 1056 + i

/-- A bucket level after one cycle (15 R411, R412), in 1,024ths of an item. -/
def bucketStep (reg : Word) (l : Nat) : Nat :=
  min (Nat.max (fldN reg 16 16) 1 * 1024) (l + fldN reg 0 16)

/-- One bucket of a die after one cycle. -/
def tickBucket (D : Die) (b : KMap Nat) (i : Nat) : KMap Nat :=
  let r := throttleReg i
  b.set bucketReset i (bucketStep (D.ctl.get (ctlReset r) r) (b.get bucketReset i))

/-- The buckets of a die after one cycle. -/
def Die.tickBuckets (D : Die) : Die := { D with bucket := (List.range 17).foldl (tickBucket D) D.bucket }

/-- Sixths of an island cycle that a cycle of the 1.5 GHz clock brings at a POINT (15 R410). -/
def pointRate (n : Nat) : Nat := 6 - min n 4

/-- What an island falls behind in one cycle: at a lower point a part of it, and all of it while a change is in progress
(15 R410). -/
def islandLag (w : Word) : Nat := if bitOf w 8 then 6 else 6 - pointRate (fldN w 0 3)

/-- The lags after one cycle: only islands whose ISLAND register is not 0 fall behind. -/
def State.lagAfter (s : State) : KMap Nat :=
  s.dies.foldl (fun m D => (D.2.ctl.filter fun e => 1024 ≤ e.1 && e.1 < 1056).foldl (fun m e =>
    let cl := 32 * D.1 + (e.1 - 1024)
    m.set 0 cl (m.get 0 cl + islandLag e.2)) m) s.lag

/-- One cycle of the 1.5 GHz clock. -/
def State.tick (s : State) : State :=
  let n := s.time.frac + cycleStep s.time.slew
  let s1 : State :=
    { s with cycle := s.cycle + 1, lag := s.lagAfter
             tai := s.tai + BitVec.ofNat 64 (n / 6000)
             time := { s.time with frac := n % 6000, slew := slewLeft s.time.slew } }
  (List.range 8).foldl (fun t d => t.modDie d Die.tickBuckets) s1

/-! ### Leaf entries -/

/-- The leaf entry of a page; pages are numbered by wide address ÷ 65,536 (19 R454). -/
def State.leaf (s : State) (page : Nat) : Leaf := s.leaves.get Leaf.reset page
/-- Writes the leaf entry of a page. -/
def State.setLeaf (s : State) (page : Nat) (l : Leaf) : State := { s with leaves := s.leaves.set Leaf.reset page l }

/-- An object by its serial; serials are the node's own. -/
def State.obj (s : State) (serial : Nat) : Obj := s.objs.get Obj.reset serial
/-- Writes an object. -/
def State.setObj (s : State) (serial : Nat) (o : Obj) : State := { s with objs := s.objs.set Obj.reset serial o }

/-- NODE and SERIAL of a page number. -/
def pageNode (page : Nat) : Nat := page / 2 ^ 104 % 256
/-- SERIAL of a page number. -/
def pageSerial (page : Nat) : Nat := page / 2 ^ 40 % 2 ^ 64
/-- Page index in its object (19 R454). -/
def pageIndex (page : Nat) : Nat := page % 2 ^ 40

/-- A frame holds some page. -/
def State.frameUsed (s : State) (frame : Nat) : Bool :=
  s.leaves.any fun e => e.2.v && e.2.tier == 0 && e.2.frame == frame

/-- NODE of this package (22 R513, R532). -/
def State.nodeId (s : State) : Nat := fldN (s.pkgReg 1104) 0 8

/-! ### The hash table of the residency map (19 R458) -/

/-- The 16 consecutive buckets that a walk reads for a page (19 R458; log entry 85). -/
def mapWindow (page : Nat) : List Nat :=
  let b := Nat.max 1 Config.mapBuckets
  (List.range 16).map fun i => (Config.mapHash page + i) % b

/-- The valid entries that a bucket holds. -/
def State.bucket (s : State) (b : Nat) : List Nat := (s.buckets.get [] b).filter fun g => (s.leaf g).v

/-- Puts a page into the slots of bucket `b`. -/
def State.slotPage (s : State) (b page : Nat) : State := { s with buckets := s.buckets.set [] b (s.bucket b ++ [page]) }

/-- The entry that an insert into a full window drops: the first of TIER 2 without a pending promotion (19 R458). -/
def State.mapVictim (s : State) (page : Nat) : Option (Nat × Nat) :=
  (mapWindow page).findSome? fun b => ((s.bucket b).find? fun g => (s.leaf g).tier == 2 && !(s.leaf g).pin).map fun g => (b, g)

/-- Finds a slot for a page that has none: the first free one of its window, or one of a TIER 2 entry, which is dropped and
reinstalled by a later walk (19 R458; log entry 85). -/
def State.slotFor (s : State) (page : Nat) : State :=
  if (mapWindow page).any fun b => (s.bucket b).contains page then s
  else match (mapWindow page).find? fun b => decide ((s.bucket b).length < 2) with
    | some b => s.slotPage b page
    | none => match s.mapVictim page with
      | some (b, g) =>
        let s1 := s.setLeaf g Leaf.reset
        s1.slotPage b page
      | none => s.slotPage ((mapWindow page).headD 0) page

/-- Installs the leaf entry of a page, in a slot of the map (19 R458). -/
def State.installLeaf (s : State) (page : Nat) (l : Leaf) : State := (s.slotFor page).setLeaf page l

/-- The supervisor sets the leaf entry of another node's page to a peer aperture or to unmapped (19 R457, 22 R515; log entry 9):
W and RAP are its grant. Pages of this node and pages held here are set by ALLOC, promotion, eviction and migration alone. -/
def State.mapPage (s : State) (page tier apnode : Nat) (rap w : Bool) (job : Nat) : State :=
  let old := s.leaf page
  if pageNode page = s.nodeId ∨ (old.v = true ∧ old.tier ≠ 1) then s
  else if tier = 1 then
    s.installLeaf page { Leaf.reset with v := true, tier := 1, apnode := apnode % 256, rap := rap, w := w, job := job % 256 }
  else s.setLeaf page Leaf.reset

end Sys2Proof.Machine
end

