-- ==== Sys2Proof/Machine/Packets.lean ====
section
/-! DEFINITION. Domain membership and the sending of Hedgerow packets (22 R509, R512-R516, R527). -/

namespace Sys2Proof.Machine

/-- NODEID is valid (22 R513). -/
def State.nodeValid (s : State) : Bool := bitOf (s.pkgReg 1104) 8
/-- A node stands in MEMBERS (22 R532). -/
def State.isMember (s : State) (n : Nat) : Bool := bitOf (s.pkgReg (1108 + n / 64 % 4)) (n % 64)
/-- STATE of DOMSTAT: 0 alone, 1 joining, 2 member, 3 re-keying (22 R532). -/
def State.domState (s : State) : Nat := fldN (s.pkgReg 1105) 0 2
/-- The key epoch (22 R532). -/
def State.epoch (s : State) : Nat := fldN (s.pkgReg 1105) 32 32
/-- DTAG of a job on a die (22 R514); without SECURE no domain traffic is allowed (24 R541), and every job acts as one of DTAG 0. -/
def State.dtag (s : State) (d job : Nat) : BitVec 16 :=
  if s.secureMode then (s.ctlReg d (4 * (job % 256) + 3)).setWidth 16 else 0

/-- The domain takes an access of job `job` of die `d` to node `n` (22 R513, R516). -/
def State.domainOk (s : State) (d : Nat) (job : Option Nat) (n : Nat) : Bool :=
  s.nodeValid && s.isMember n && (match job with | some j => s.dtag d j != 0 | none => false)

/-- The package may send domain packets: stage 6 of its start is past (24 R537). -/
def State.sends (s : State) : Bool := decide (6 < (s.pkgReg 1082).toNat)

/-- A new request toward a node can leave: this node is valid, no re-key drains, fewer than 1,024 requests wait there, and stage 6 is
past (22 R512, R513, R530; 24 R537). -/
def State.mayPacket (s : State) (n : Nat) : Bool :=
  s.nodeValid && s.domState != 3 && (s.fabric.peers.get Peer.reset n).unacked.length < 1024 && s.sends

/-- Puts a packet into the port dies' queue. -/
def State.queuePkt (s : State) (k : Packet) : State :=
  { s with fabric := { s.fabric with outq := s.fabric.outq ++ [{ pkt := k, since := s.cycle, posted := false, link := none }] } }

/-- A packet to a node under its next sequence number (22 R509, R527). -/
def State.newPkt (s : State) (dst ty op len addr : Nat) (dtag : BitVec 16) (payload : List Word) : Packet × State :=
  let P := s.fabric.peers.get Peer.reset dst
  let k : Packet :=
    { dst := dst, src := s.nodeId, ptype := ty, op := op, escape := false, len := len, epoch := s.epoch % 2 ^ 16,
      seq := P.sendSeq, dtag := dtag, addr := addr, payload := payload }
  (k, { s with fabric := { s.fabric with peers := s.fabric.peers.set Peer.reset dst { P with sendSeq := P.sendSeq + 1 } } })

/-- Sends a request packet, which its source keeps until the acknowledgement (22 R512). -/
def State.sendRequest (s : State) (dst ty op len addr : Nat) (dtag : BitVec 16) (payload : List Word) : Nat × State :=
  let x := s.newPkt dst ty op len addr dtag payload
  let P := x.2.fabric.peers.get Peer.reset dst
  let s1 : State := { x.2 with fabric := { x.2.fabric with
    peers := x.2.fabric.peers.set Peer.reset dst { P with unacked := P.unacked ++ [x.1] } } }
  (x.1.seq, s1.queuePkt x.1)

/-- Sends an answer: a response 5 of `len` bytes, an acknowledgement 6 or a reject 7 of the packet `q` (22 R509). -/
def State.sendAnswer (s : State) (q : Packet) (ty code len : Nat) (payload : List Word) : State :=
  let x := s.newPkt q.src ty 0 len (q.seq + (if ty = 7 then code * 2 ^ 64 else 0)) q.dtag payload
  x.2.queuePkt x.1

end Sys2Proof.Machine
end

