-- ==== Sys2Proof/Machine/Locations.lean ====
section
/-! DEFINITION. Locations: short addresses and their issue checks (07 R208, R214, R230; 15 R395, R397), the handle table
(07 R211-R214), translation of wide addresses (07 R210, R218-R220; 19 R457-R458), the lines of HBM (19 R477-R479), sync words
and their waiters (09 R251-R253, R261), and the operations of atomics (07 R237). -/

namespace Sys2Proof.Machine

/-- How an access uses its location. -/
inductive Acc where
  | load | store | atomic
  deriving DecidableEq, Repr

/-- A location: a fabric scratchpad address, a byte of the issuing core's local memory by its key, a control-page register,
or a wide address. -/
inductive Loc where
  | scratch (a : Nat)
  | loc (k : Nat)
  | ctl (reg : Nat)
  | wide (w : Nat)
  deriving DecidableEq, Repr

/-! ### Fields of a short address -/

/-- SLOT (07 R208). -/
def aSlot (a : Word) : Nat := fldN a 48 16
/-- CHECK (07 R208). -/
def aCheck (a : Word) : Nat := fldN a 32 16
/-- OFFSET (07 R208). -/
def aOff (a : Word) : Nat := fldN a 0 32

/-- The wide address of a node, a serial and an offset, as a number. -/
def wideNum (node serial off : Nat) : Nat := (mkWide node serial off).toNat
/-- NODE of a wide address. -/
def wnNode (w : Nat) : Nat := w / 2 ^ 120 % 256
/-- SERIAL of a wide address. -/
def wnSerial (w : Nat) : Nat := w / 2 ^ 56 % 2 ^ 64
/-- OFFSET of a wide address. -/
def wnOff (w : Nat) : Nat := w % 2 ^ 56
/-- The wide address in a register pair (07 R209). -/
def pairWide (lo hi : Word) : Nat := (wideOf lo hi).toNat
/-- Bits [63:0] of a wide address. -/
def wnLo (w : Nat) : Word := BitVec.ofNat 64 w
/-- Bits [127:64] of a wide address. -/
def wnHi (w : Nat) : Word := BitVec.ofNat 64 (w / 2 ^ 64)

/-! ### Issue checks -/

/-- First byte of the sync page in a cluster (09 R249). -/
def syncBase : Nat := 0x3FF000

/-- A unit may reach a cluster's scratchpad: its job holds a region there, or it is a control core that acts for no job and
the cluster lies on its die (07 R214, 15 R397). -/
def State.clusterOk (s : State) (p : Nat) (job : Option Nat) (cl : Nat) : Bool :=
  match job with
  | some j => s.jobInCluster j cl
  | none => isCore p && cl / 32 == dieOf p

/-- The scratchpad checks of 07 R214, R230 and R237. -/
def State.scratchFault (s : State) (p : Nat) (job : Option Nat) (off len : Nat) (acc : Acc) : Option Flt :=
  if off % 2 ^ 22 + len > 2 ^ 22 then some fltBounds
  else if s.clusterOk p job (off / 2 ^ 22) = false then some fltProt
  else if acc = .atomic then (if off % len = 0 then none else some fltProt)
  else if off % 2 ^ 22 + len > syncBase then some (if acc = .store then fltSyncWrite else fltProt)
  else none

/-- The windows that only a control core has: local memory and the control page (15 R395). -/
def coreWindowFault (off len : Nat) (acc : Acc) : Option Flt :=
  if off / 2 ^ 30 = 3 then some fltBounds
  else if acc = .atomic then some fltProt
  else if off / 2 ^ 30 = 1 then
    (if off / 2 ^ 18 % 2 ^ 12 ≠ 0 ∨ off % 2 ^ 18 + len > 2 ^ 18 then some fltBounds else none)
  else if len ≠ 8 ∨ off % 8 ≠ 0 ∨ off / 2 ^ 16 % 2 ^ 14 ≠ 0 ∨ off % 2 ^ 16 / 8 > 2559 then some fltBounds
  else none

/-- The issue faults of an access by short address (07 R228, 15 R395, R397). -/
def State.shortFault (s : State) (p : Nat) (job : Option Nat) (a : Word) (len : Nat) (acc : Acc) : Option Flt :=
  if aSlot a ≠ 0 then (if isCore p && job.isNone then some fltProt else none)
  else if aCheck a ≠ 0 then some fltBounds
  else if aOff a / 2 ^ 30 = 0 then s.scratchFault p job (aOff a) len acc
  else if isCore p then coreWindowFault (aOff a) len acc
  else some fltBounds

/-! ### The handle table -/

/-- Key of a slot of a job's handle table. -/
def handleKey (job slot : Nat) : Nat := 65536 * job + slot
/-- A slot of a job's handle table. -/
def State.handle (s : State) (job slot : Nat) : Handle := s.handles.get Handle.reset (handleKey job slot)
/-- Writes a slot of a job's handle table. -/
def State.setHandle (s : State) (job slot : Nat) (h : Handle) : State :=
  { s with handles := s.handles.set Handle.reset (handleKey job slot) h }

/-- An object lies on this node. -/
def State.ownNode (s : State) (node : Nat) : Bool := node == s.nodeId

/-- HANDLE_STALE with its operands (08 R246). -/
def staleFault (a : Word) (h : Handle) : Flt :=
  { fltStale with op0 := some a, op1 := some (if h.st = .bound then h.count.zeroExtend 64 else 0) }

/-- What is known of the object of another node that a wide address names (22 R547). -/
def State.knownOf (s : State) (w : Nat) : Known := s.known.get Known.reset (w / 2 ^ 56)

/-- Size of the object of a wide address, as far as it is known here (07 R214; 22 R547; log entry 90). -/
def State.sizeOf (s : State) (w : Nat) : Option Nat :=
  if s.ownNode (wnNode w) then some (s.obj (wnSerial w)).size
  else if (s.knownOf w).code = 5 then none else some (s.knownOf w).size

/-- A byte range up to offset `off` goes past the object of `w`, as far as its size is known here. -/
def State.pastEnd (s : State) (w off : Nat) : Bool := match s.sizeOf w with | some n => decide (off > n) | none => false

/-- Resolve through the handle table (07 R214): the wide address. -/
def State.resolveHandle (s : State) (job : Nat) (a : Word) (len : Nat) : Except Flt Nat :=
  let h := s.handle job (aSlot a)
  if h.st ≠ .bound ∨ h.count.toNat ≠ aCheck a then .error (staleFault a h)
  else
    let w := h.base + aOff a
    if s.pastEnd (wideNum h.node h.serial 0) (w + len) then .error fltBounds
    else .ok (wideNum h.node h.serial w)

/-- The location of a short address (07 R214, 15 R395). Scratchpad was checked at issue. -/
def State.resolve (s : State) (p : Nat) (job : Option Nat) (a : Word) (len : Nat) : Except Flt Loc :=
  if aSlot a = 0 then
    let off := aOff a
    if off / 2 ^ 30 = 1 then .ok (.loc (localKey p (off % 2 ^ 18)))
    else if off / 2 ^ 30 = 2 then .ok (.ctl (off % 2 ^ 16 / 8))
    else .ok (.scratch (off % 2 ^ 30))
  else
    match job with
    | none => .error fltProt
    | some j => (s.resolveHandle j a len).map .wide

/-- The lowest EMPTY slot of a job's table, from 1 on (07 R212). Listed slots alone can be other than EMPTY. -/
def State.emptySlot (s : State) (job : Nat) : Option Nat :=
  let taken := s.handles.filterMap fun e =>
    if e.1 / 65536 = job ∧ e.2.st ≠ .empty then some (e.1 % 65536) else none
  let n := ((List.range (taken.length + 1)).map (· + 1)).find? fun k => !taken.contains k
  match n with
  | some k => if k < 65536 then some k else none
  | none => none

/-- Bind (07 R212): the short address, none when no slot is EMPTY. -/
def State.bind (s : State) (job node serial base : Nat) : Option (Word × State) :=
  match s.emptySlot job with
  | none => none
  | some k =>
    let h := s.handle job k
    let h' : Handle := { count := h.count + 1, st := .bound, node := node, serial := serial, base := base }
    some (put k 48 ||| put h'.count.toNat 32, s.setHandle job k h')

/-- Drop (07 R213). -/
def dropHandle (h : Handle) : Handle :=
  { h with st := if h.count = 0xFFFF then .retired else .empty, node := 0, serial := 0, base := 0 }

/-- Drops every slot of a job bound to an object (07 R219). -/
def State.dropBound (s : State) (job node serial : Nat) : State :=
  { s with handles := s.handles.map fun e =>
      if e.1 / 65536 = job ∧ e.2.st = .bound ∧ e.2.node = node ∧ e.2.serial = serial then (e.1, dropHandle e.2) else e }

/-! ### Translation -/

/-- Where an access by wide address goes on: HBM of this package, a promotion of a page, or another node. -/
inductive Trans where
  | hbm
  | miss (page : Nat)
  | remote (node : Nat)
  deriving DecidableEq, Repr

/-- The job holds the system grant on its die (07 R210). -/
def State.sysGrant (s : State) (d : Nat) (job : Option Nat) : Bool :=
  match job with
  | some j => bitOf (s.ctlReg d (4 * (j % 256))) 20
  | none => false

/-- Page of a wide address (19 R454). -/
def pageOf (w : Nat) : Nat := w / 65536

/-- The state of an object of this node lets an access through (07 R219, R220; 19 R458). `off` is past its last byte; an access
in flight since before the object died (`flying`) completes (07 R218). -/
def State.objectFault (s : State) (serial off : Nat) (acc : Acc) (flying : Bool := false) : Option Flt :=
  let o := s.obj serial
  match o.st with
  | .deadPending => if flying then (if off > o.size then some fltBounds else none) else some fltProt
  | .reclaimed => some fltProt
  | .unissued => some fltPageMiss
  | .opened => if off > o.size then some fltBounds else none
  | .sealed | .durable => if off > o.size then some fltBounds else if acc = .load then none else some fltProt

/-- What is known here of another node's object lets an access to a page held here through, as its home would (07 R219, R220;
22 R518, R547; log entry 90). `off` is past the last byte. -/
def State.foreignFault (s : State) (w off : Nat) (acc : Acc) (flying : Bool) : Option Flt :=
  let k := (s.knownOf w).code
  if (s.leaf (pageOf w)).tier = 1 ∨ k = 5 then none
  else if k = 4 ∨ (k = 3 ∧ flying = false) then some fltProt
  else if off > (s.knownOf w).size then some fltBounds
  else if acc ≠ .load ∧ (k = 1 ∨ k = 2) then some fltProt
  else none

/-- A residency miss of die `d` at a page: its promotion is pending from here on (19 R461). `job` is the job of the request that is
held for the page, none for a prefetch, which is not held. -/
def State.missAt (s : State) (page d : Nat) (job : Option Nat) : State :=
  let l := s.leaf page
  s.setLeaf page { l with pin := true, pinDie := if l.pin then l.pinDie else d,
                          pinJob := if l.pinJob.isSome then l.pinJob else job }

/-- An access to a page of another node's object held here of which nothing is known yet: the object's home is asked first, whose
object table has its state and size (22 R518, R547; log entry 90). -/
def State.mustAsk (s : State) (w : Nat) : Bool :=
  let l := s.leaf (pageOf w)
  !s.ownNode (wnNode w) && (s.knownOf w).code == 5 && l.v && l.tier == 0

/-- The store page of a page of a DURABLE object of this node (19 R457, R464). -/
def State.storePage (s : State) (page : Nat) : Nat := (s.obj (pageSerial page)).pages.getD (pageIndex page) 0

/-- The TIER 2 entry of a page of a DURABLE object (19 R457, R458). -/
def State.storeLeaf (s : State) (page : Nat) : Leaf :=
  let o := s.obj (pageSerial page)
  { Leaf.reset with v := true, tier := 2, isSealed := true, dur := true, job := o.job,
                    keyidx := s.jobKeys.get 0 (256 * o.die + o.job), frame := s.storePage page }

/-- Translation of one page (19 R457, R458): a DURABLE object's page without an entry gets one of TIER 2. -/
def State.transPage (s : State) (page : Nat) (acc : Acc) : Except Flt (State × Trans) :=
  let l := s.leaf page
  if l.v && l.tier == 0 then
    if acc ≠ .load ∧ l.w = false then .error fltProt else .ok (s, .hbm)
  else if l.v && l.tier == 1 then
    if acc = .atomic ∧ l.rap = false then .error fltRemoteAtomic else .ok (s, .remote l.apnode)
  else if l.v && l.tier == 2 then .ok (s, .miss page)
  else if s.ownNode (pageNode page) && ((s.obj (pageSerial page)).st == .durable ||
      ((s.obj (pageSerial page)).st == .deadPending && (s.obj (pageSerial page)).stored)) then
    .ok (s.installLeaf page (s.storeLeaf page), .miss page)
  else .error fltPageMiss

/-- The pages of a byte range. -/
def pagesOf (w len : Nat) : List Nat := (List.range (pageOf (w + len - 1) - pageOf w + 1)).map (pageOf w + ·)

/-- Translation of pages, one after another: a fault of any holds the access, then a miss of any, then a peer (07 R232). -/
def State.transPages (s : State) (acc : Acc) : List Nat → Except Flt (State × Trans)
  | [] => .ok (s, .hbm)
  | g :: gs =>
    match s.transPage g acc with
    | .error f => .error f
    | .ok (s1, t1) =>
      match s1.transPages acc gs with
      | .error f => .error f
      | .ok (s2, t2) =>
        match t1, t2 with
        | .miss g, _ => .ok (s2, .miss g)
        | _, .miss g => .ok (s2, .miss g)
        | .remote n, _ => .ok (s2, .remote n)
        | .hbm, t => .ok (s2, t)

/-- Translation of the bytes from `w` on (07 R210, R218-R220, R229); `flying`: the access passed translation before. -/
def State.translate (s : State) (d : Nat) (job : Option Nat) (w len : Nat) (acc : Acc) (flying : Bool := false) :
    Except Flt (State × Trans) :=
  if wnSerial w < 2 ^ 16 ∧ s.sysGrant d job = false then .error fltProt
  else
    match (if s.ownNode (wnNode w) then s.objectFault (wnSerial w) (wnOff w + len) acc flying
      else s.foreignFault w (wnOff w + len) acc flying) with
    | some f => .error f
    | none => s.transPages acc (pagesOf w len)

/-! ### Prefetch plans (19 R467, R469) -/

/-- First page and number of pages of an entry's range (19 R454, R466). -/
def PlanEntry.pages (e : PlanEntry) : Nat × Nat := (pageOf e.start, pageOf (e.start + e.len - 1) - pageOf e.start + 1)

/-- A page lies in the range of an entry. -/
def PlanEntry.holds (e : PlanEntry) (page : Nat) : Bool := decide (e.pages.1 ≤ page) && decide (page < e.pages.1 + e.pages.2)

/-- A page has become a first victim by a plan: its step has passed and its entry has REL (19 R466). -/
def Plan.releases (x : Plan) (page : Nat) : Bool := x.entries.any fun e => e.rel && decide (e.step < x.step) && e.holds page

/-- A plan's step lies in its window (19 R467). -/
def Plan.inWindow (x : Plan) (t : Nat) : Bool := decide (x.step ≤ t) && decide (t ≤ x.step + x.ahead)

/-- Unloads a plan: the pages in HBM that it has released stay first victims (19 R469 and its example). -/
def State.dropPlan (s : State) (n : Nat) : State :=
  match s.plans.get none n with
  | none => s
  | some x =>
    let gone := s.leaves.filterMap fun e =>
      if e.2.v && e.2.tier == 0 && x.releases e.1 && !s.store.released.contains e.1 then some e.1 else none
    { s with plans := s.plans.set none n none, store := { s.store with released := s.store.released ++ gone } }

/-! ### Lines of HBM -/

/-- Die and line of a byte of a page in HBM: FRAME's stack, and 1,024 lines a page (19 R457, R477). -/
def State.lineOf (s : State) (w : Nat) : Nat × Nat :=
  let f := (s.leaf (pageOf w)).frame
  (f / 2 ^ 21, f % 2 ^ 21 * 1024 + w % 65536 / 64)

/-- The lines of a byte range. -/
def State.linesOf (s : State) (w len : Nat) : List (Nat × Nat) :=
  (List.range ((w + len - 1) / 64 - w / 64 + 1)).map fun i => s.lineOf (w / 64 * 64 + 64 * i)

/-! ### The counter tree (19 R477-R479) -/

/-- Levels of counter blocks above the leaf blocks; the counters of the blocks of the last are held on die
(log entry 37). -/
def counterLevels : Nat := 7

/-- The block above block `blk`: blocks are numbered 2^32 × level + index, eight children each (19 R477). -/
def blockAbove (blk : Nat) : Nat := (blk / 2 ^ 32 + 1) * 2 ^ 32 + blk % 2 ^ 32 / 8

/-- The counter blocks on the path of a line, from its leaf block up (19 R477). -/
def pathOf (line : Nat) : List Nat := (List.range (counterLevels + 1)).map fun k => k * 2 ^ 32 + line / 64 / 8 ^ k

/-- Frames of a stack that hold pages: its 1,310,720 frames without the counter region's 1/56, the highest ones
(19 R457, R477; log entry 37). -/
def dataPages : Nat := 1310720 - 23406

/-- Counter blocks of a level. -/
def blockCount (level : Nat) : Nat := (dataPages * 16 + 8 ^ level - 1) / 8 ^ level

/-- First line of the counter region that holds a level's blocks: they stand level by level (log entry 37). -/
def levelLine (level : Nat) : Nat := dataPages * 1024 + ((List.range level).map blockCount).sum

/-- The line of the stack that holds a counter block. -/
def blockLine (blk : Nat) : Nat := levelLine (blk / 2 ^ 32) + blk % 2 ^ 32

/-- Blocks of the counter cache, 2 MiB of 64 bytes (19 R478). -/
def cacheBlocks : Nat := 32768

/-- The blocks that an access to a line reads into the cache: those below the first one that stands there (19 R478). -/
def Die.loads (D : Die) (line : Nat) : List Nat := (pathOf line).takeWhile fun b => !D.cached.contains b

/-- A block that an access to this line would read in fails verification (19 R478, R479). -/
def Die.badPath (D : Die) (line : Nat) : Option Nat := (D.loads line).find? fun b => D.badBlk.contains b

/-- The blocks above block `blk`, from its parent up. -/
def blocksAbove (blk : Nat) : List Nat :=
  (List.range (counterLevels - blk / 2 ^ 32)).map fun k => (blk / 2 ^ 32 + k + 1) * 2 ^ 32 + blk % 2 ^ 32 / 8 ^ (k + 1)

/-- A dirty block is written back: its counter in the block above increments, which enters the cache with the blocks above it that
do not stand there, each verified (19 R478). When one of them fails verification the counter is not there to increment, and the
block written back cannot be verified from then on (log entry 37). -/
def Die.writeBack (D : Die) (blk : Nat) : Die :=
  let rest := D.dirtyBlk.filter (· != blk)
  let up := blockAbove blk
  let new := (blocksAbove blk).takeWhile fun b => !D.cached.contains b
  if new.any D.badBlk.contains then
    { D with dirtyBlk := rest, badBlk := D.badBlk.filter (· != blk) ++ [blk], cached := D.cached.filter (· != blk) }
  else
    let D1 : Die := { D with parent := D.parent.set 0 blk (D.parent.get 0 blk + 1), badBlk := D.badBlk.filter (· != blk)
                             cached := D.cached ++ new.reverse }
    if blk / 2 ^ 32 < counterLevels then { D1 with dirtyBlk := if rest.contains up then rest else rest ++ [up] }
    else { D1 with dirtyBlk := rest }

/-- A full cache gives up its oldest blocks, the dirty ones written back (19 R478; log entry 37). -/
def Die.trim : Nat → Die → Die
  | 0, D => D
  | n + 1, D =>
    match D.cached with
    | b :: rest =>
      if D.cached.length ≤ cacheBlocks then D
      else
        let D1 : Die := { D with cached := rest }
        (if D1.dirtyBlk.contains b then D1.writeBack b else D1).trim n
    | [] => D

/-- Steps enough for a trim. -/
def trimSteps : Nat := 16 * cacheBlocks

/-- The blocks of a line's path enter the cache, each verified against the one above it (19 R478). -/
def Die.enterPath (D : Die) (line : Nat) : Die :=
  let bs := D.loads line
  if bs.isEmpty then D else { D with cached := D.cached ++ bs.reverse }.trim trimSteps

/-- A line fails verification: its own MAC, or a counter block on its path that it has not met before (19 R479). -/
def Die.lineBad (D : Die) (line : Nat) : Bool :=
  D.poison.any (fun k => k / 8 == line) || ((D.badPath line).isSome && !D.met.contains line)

/-- A line meets a counter block that fails verification: it is poisoned until it is rewritten (19 R479). -/
def Die.meet (D : Die) (line : Nat) : Die :=
  if (D.badPath line).isSome && !D.met.contains line then
    { D with met := D.met ++ [line]
             poison := D.poison.filter (fun k => k / 8 != line) ++ (List.range 8).map (8 * line + ·) }
  else D

/-- A write to a line increments its minor counter; one that would wrap starts a re-encryption (19 R478). A scrub write of the
line is dropped (19 R481). -/
def Die.bumpLine (D : Die) (line : Nat) : Die :=
  let D0 : Die := { D with scrubW := if D.scrubW = some line then none else D.scrubW }
  if (D0.badPath line).isSome then D0
  else
    let D1 := D0.enterPath line
    let blk := line / 64
    let m := D1.minor.get 0 line
    let dirty := if D1.dirtyBlk.contains blk then D1.dirtyBlk else D1.dirtyBlk ++ [blk]
    if m ≥ 127 then
      { D1 with minor := D1.minor.filter (fun e => e.1 / 64 != blk), major := D1.major.set 0 blk (D1.major.get 0 blk + 1),
                dirtyBlk := dirty, wrapped := if D1.wrapped.contains blk then D1.wrapped else D1.wrapped ++ [blk] }
    else { D1 with minor := D1.minor.set 0 line (m + 1), dirtyBlk := dirty }

/-- A line of a frame that is written whole: a re-encryption that it starts is over before the next line of the block is written
(19 R478). -/
def Die.fillLine (D : Die) (line : Nat) : Die :=
  let D1 := D.bumpLine line
  { D1 with wrapped := D1.wrapped.filter (· != line / 64) }

/-- The 1,024 lines of a frame are written whole (07 R239, 19 R461, R478): they verify again. -/
def Die.fillFrame (D : Die) (frame : Nat) : Die :=
  let lines := (List.range 1024).map (frame % 2 ^ 21 * 1024 + ·)
  let D1 := lines.foldl Die.fillLine D
  { D1 with poison := D1.poison.filter fun k => k / 8 / 1024 != frame % 2 ^ 21
            met := D1.met ++ lines.filter fun n => (D1.badPath n).isSome && !D1.met.contains n }

/-- An access to these bytes waits for a re-encryption (19 R478). -/
def State.hbmBusy (s : State) (w len : Nat) : Bool :=
  (s.linesOf w len).any fun x => (s.die x.1).wrapped.contains (x.2 / 64)

/-- A write of a whole frame waits for a re-encryption (19 R478). -/
def State.frameBusy (s : State) (frame : Nat) : Bool :=
  (s.die (frame / 2 ^ 21)).wrapped.any fun b => b / 16 == frame % 2 ^ 21

/-- A line of these bytes fails verification (19 R479). -/
def State.hbmBad (s : State) (w len : Nat) : Bool := (s.linesOf w len).any fun x => (s.die x.1).lineBad x.2

/-- The first of these bytes that lies in a line which fails verification (19 R479). -/
def State.badAt (s : State) (w len : Nat) : Option Nat :=
  ((List.range len).map (w + ·)).find? fun a => (s.die (s.lineOf a).1).lineBad (s.lineOf a).2

/-- Logs a line that fails verification, with class 2 when a counter block does and else with class 0 (19 R479, R483). -/
def State.logLine (s : State) (x : Nat × Nat) (sev : Nat) : State :=
  let D := s.die x.1
  match (if D.met.contains x.2 then none else D.badPath x.2) with
  | some b => s.logError x.1 2 sev (blockLine b)
  | none => s.logError x.1 0 sev x.2

/-- A bad line of a DURABLE page: the HBM copy is discarded, to be promoted again, and the error is logged with severity 2
(19 R479). -/
def State.refetch (s : State) (w : Nat) : State :=
  let pg := pageOf w
  let s1 := s.logLine (s.lineOf w) 2
  s1.setLeaf pg { s1.leaf pg with tier := 2, frame := s1.storePage pg, pin := false, pinJob := none }

/-- A bad line of another page: it is poisoned, and the error is logged with severity 1 (19 R479, R483). -/
def State.poisonLine (s : State) (w : Nat) : State :=
  let x := s.lineOf w
  (s.logLine x 1).modDie x.1 fun D => D.meet x.2

/-- What comes of an access to bytes of HBM of which a line fails verification (19 R479): the page is promoted again (true), or
the access takes INTEGRITY. -/
def State.onBad (s : State) (w len : Nat) : State × Bool :=
  let b := (s.badAt w len).getD w
  if (s.leaf (pageOf b)).dur then (s.refetch b, true) else (s.poisonLine b, false)

/-- An access to bytes of HBM: their pages count as used, and the counter blocks of their lines enter the cache
(19 R463, R478). -/
def State.useHbm (s : State) (w len : Nat) : State :=
  let s1 : State := { s with touched := s.touched ++ (pagesOf w len).filter fun g => !s.touched.contains g }
  (s1.linesOf w len).foldl (fun s x => s.modDie x.1 fun D => D.enterPath x.2) s1

/-- Writes bytes of an object in HBM, with their counters. -/
def State.hwrite (s : State) (w : Nat) (bs : List Byte) : State :=
  if bs.isEmpty then s
  else (s.linesOf w bs.length).foldl (fun s x => s.modDie x.1 fun D => (D.meet x.2).bumpLine x.2) (s.mwrite (wideKey w) bs)

/-- Writes an aligned word of an object as part of a whole line: the line verifies again once all eight are written
(19 R479). -/
def State.hwriteLine (s : State) (w : Nat) (bs : List Byte) : State :=
  let x := s.lineOf w
  (s.hwrite w bs).modDie x.1 fun D => { D with poison := D.poison.filter fun k => k != 8 * x.2 + w % 64 / 8 }

/-! ### Sync words -/

/-- Fabric scratchpad address of sync word `j` of a cluster (09 R251). -/
def syncAddr (cl j : Nat) : Nat := cl * 2 ^ 22 + syncBase + 8 * j

/-- A 64-bit word of memory. -/
def State.mword (s : State) (a : Nat) : Word := wordOf (s.mread a 8)

/-- The condition of a SYNCRD (09 R260): `mode` 0 now, 1 ge, 2 eq. -/
def syncHolds (mode : Nat) (w b : Word) : Bool :=
  match mode with
  | 0 => true
  | 1 => b.sle w
  | _ => w == b

/-- A waiter reads this sync word. -/
def Waiter.on (x : Waiter) (a : Nat) : Bool := x.req.a.toNat == a

/-- The value of a waiter's word satisfies it. -/
def State.satisfied (s : State) (x : Waiter) : Bool := syncHolds x.req.mode (s.mword x.req.a.toNat) x.req.b

/-- Reads held while the table was full take free entries in arrival order, each tested as it does (09 R261). -/
def State.admitWaiters (cl : Nat) : Nat → State → State
  | 0, s => s
  | n + 1, s =>
    let C := s.cluster cl
    match C.waitq with
    | [] => s
    | x :: rest =>
      if C.waiters.length < 64 then
        let s1 := s.modCluster cl fun C => { C with waitq := rest }
        admitWaiters cl n (if s1.satisfied x then s1.respond x.proc x.req [s1.mword x.req.a.toNat]
          else s1.modCluster cl fun C => { C with waiters := C.waiters ++ [x] })
      else s

/-- After a write of the sync word at `a`, its waiters are tested, and the satisfied ones respond (09 R261). -/
def State.syncWritten (s : State) (a : Nat) : State :=
  let cl := a / 2 ^ 22
  let hit := (s.cluster cl).waiters.filter fun x => x.on a && s.satisfied x
  let s1 := hit.foldl (fun s x => s.respond x.proc x.req [s.mword a]) s
  let s2 := s1.modCluster cl fun C => { C with waiters := C.waiters.filter fun x => !hit.contains x }
  s2.admitWaiters cl ((s2.cluster cl).waitq.length)

/-- Writes a sync word: one step of its write order (09 R253). -/
def State.syncWrite (s : State) (a : Nat) (w : Word) : State := (s.swrite a (bytesOf 8 w)).syncWritten a

/-! ### Atomics -/

/-- Bytes an atomic operation touches (07 R237). -/
def atomLen (op : Nat) : Nat := if op = 1 then 4 else 8

/-- The sum of two FP32 values as fadd32 forms it (07 R237). -/
def fadd32 (x y : Nat) : Nat := (fp32.round 0 false (sumF 0 [fp32.value x, fp32.value y])).1

/-- The new value of an atomic (07 R237, codes of 02 R62). -/
def atomNew (op : Nat) (old b : Word) : Word :=
  match op with
  | 0 => old + b
  | 1 => BitVec.ofNat 64 (fadd32 (fldN old 0 32) (fldN b 0 32))
  | 2 => if old.sle b then old else b
  | 3 => if b.sle old then old else b
  | 4 => if old.ule b then old else b
  | 5 => if b.ule old then old else b
  | 6 => old &&& b
  | 7 => old ||| b
  | 8 => old ^^^ b
  | _ => b

/-- Writes the bytes of a location in scratchpad or HBM; a write to a sync word tests its waiters. `k` is the memory key. -/
def State.writeKey (s : State) (k : Nat) (bs : List Byte) : State :=
  if k < 2 ^ 30 then
    let s1 := s.swrite k bs
    if k % 2 ^ 22 ≥ syncBase then s1.syncWritten (k / 8 * 8) else s1
  else if k < 2 ^ 40 then s.mwrite k bs
  else s.hwrite (k - 2 ^ 40) bs

/-- One atomic at a memory key: the old value, and the state after it. -/
def State.atomAt (s : State) (k op : Nat) (b : Word) : Word × State :=
  let old := wordOf (s.mread k (atomLen op))
  (old, s.writeKey k (bytesOf (atomLen op) (atomNew op old b)))

end Sys2Proof.Machine
end

