-- ==== Sys2Proof/Machine/Window.lean ====
section
/-! DEFINITION. The windows of the sparse-update units (10 R291-R295): what they hold, how they merge, and the closing that
every access not merged brings about. -/

namespace Sys2Proof.Machine

/-- A sparse-update unit. -/
def State.suu (s : State) : SuuId → Suu
  | .cluster cl j => (s.cluster cl).suu.get Suu.reset j
  | .edge d j => (s.die d).edgeSuu.get Suu.reset j

/-- Writes a sparse-update unit. -/
def State.setSuu (s : State) (u : SuuId) (x : Suu) : State :=
  match u with
  | .cluster cl j => s.modCluster cl fun C => { C with suu := C.suu.set Suu.reset j x }
  | .edge d j => s.modDie d fun D => { D with edgeSuu := D.edgeSuu.set Suu.reset j x }

/-- EN of a sparse-update unit (10 R291). -/
def Suu.en (x : Suu) : Bool := bitOf x.ctrl 0
/-- Its updates of one location merge: MERGE 1 and ORDERED 0 (10 R293, R294). -/
def Suu.merges (x : Suu) : Bool := bitOf x.ctrl 2 && !bitOf x.ctrl 1

/-- The unit whose banks or HBM channel hold a memory key (10 R278, R291). -/
def State.suuOf (s : State) (k : Nat) : SuuId :=
  if k < 2 ^ 30 then .cluster (k / 2 ^ 22) (k / 2048 % 2)
  else
    let x := s.lineOf (k - 2 ^ 40)
    .edge x.1 (Config.hbmChannel (2 ^ 31 * x.1 + x.2) % 32)

/-- An update touches some of the aligned words of a range. -/
def Upd.touches (u : Upd) (k len : Nat) : Bool := decide (k / 8 ≤ u.loc / 8) && decide (u.loc / 8 ≤ (k + len - 1) / 8)

/-- Puts an update after the others: it joins the last one of its location, when both came while the unit merged (10 R293, R310). -/
def mergeUpd : List Upd → Upd → List Upd
  | [], u => [u]
  | x :: xs, u =>
    if x.merge = true ∧ u.merge = true ∧ x.loc = u.loc ∧ x.op = u.op ∧ xs.all (fun y => y.loc != u.loc) = true then
      { x with val := atomNew u.op x.val u.val } :: xs
    else x :: mergeUpd xs u

/-- What a window applies, in order (10 R293, R294): location, operation and operand. -/
def Suu.applied (x : Suu) : List (Nat × Nat × Word) := (x.win.foldl mergeUpd []).map fun u => (u.loc, u.op, u.val)

/-- A merged atomic is acknowledged (10 R295). -/
def State.ackMerged (s : State) (src : Nat × Nat) : State :=
  match (s.proc src.1).parked.find? fun r => r.rid == src.2 with
  | none => s
  | some r => (s.modProc src.1 fun P => { P with parked := P.parked.erase r }).respond src.1 r [0]

/-- The count of STATUS, two saturating halves (10 R291). -/
def suuCount (st : Word) (removed : Nat) : Word :=
  put (min (fldN st 32 32 + removed) (2 ^ 32 - 1)) 32 ||| put (satInc 32 (fldN st 0 32)) 0

/-- Operator number of sparse-update unit `j` of a cluster (10 R301). -/
def suuOp (j : Nat) : Nat := 16 + j

/-- The output of a unit has room for its count token; an edge unit has no routed output (log entry 21). -/
def State.suuRoom (s : State) : SuuId → Bool
  | .cluster cl j => decide ((s.opOut cl (suuOp j) 0).length < outDepth)
  | .edge _ _ => true

/-- A window is applied and its atomics are acknowledged (10 R292, R293, R295): in one step, in the order of arrival (log entry
125). -/
def State.applyWindow (s : State) (u : SuuId) : State :=
  let x := s.suu u
  let ap := x.applied
  let s1 := ap.foldl (fun s y => (s.atomAt y.1 y.2.1 y.2.2).2) s
  let s2 := s1.setSuu u { x with win := [], status := suuCount x.status (x.win.length - ap.length) }
  (x.win.filterMap Upd.src).foldl State.ackMerged s2

/-- Closes a window: it is applied, and its count token sent (10 R292, R293, R295). It counts the stream updates that entered, merged
or not (log entry 117). -/
def State.closeWindow (s : State) (u : SuuId) : Option State :=
  let x := s.suu u
  if x.win.isEmpty then some s
  else if s.suuRoom u = false then none
  else
    let s3 := s.applyWindow u
    let n := (x.win.filter fun w => w.src.isNone).length
    match u with
    | .cluster cl j => some (s3.modOpOut cl (suuOp j) 0 fun q => q ++ [.tok (dataTok 0 (BitVec.ofNat 64 n))])
    | .edge _ _ => some s3

/-- The units with an update pending in a range. -/
def State.pendingUnits (s : State) (k len : Nat) : List SuuId :=
  (s.clusters.flatMap fun c => c.2.suu.filterMap fun x =>
    if x.2.win.any (·.touches k len) then some (SuuId.cluster c.1 x.1) else none) ++
  (s.dies.flatMap fun d => d.2.edgeSuu.filterMap fun x =>
    if x.2.win.any (·.touches k len) then some (SuuId.edge d.1 x.1) else none)

/-- Closes every window with an update pending in a range, before an access that is not merged (10 R292). -/
def State.closeFor (s : State) (k len : Nat) : Option State :=
  (s.pendingUnits k len).foldl (fun o u => match o with | none => none | some s => s.closeWindow u) (some s)

/-- An update can enter a window: there is room, and no pending entry of its word has another operation (10 R292). -/
def Suu.takes (x : Suu) (loc op : Nat) : Bool :=
  decide (x.win.length < 64) && !(x.win.any fun u => u.loc / 8 == loc / 8 && u.op != op)

/-- Cycles of the clock of a sparse-update unit: its cluster's island's, or the 1.5 GHz clock at the edge (00 R3). -/
def State.suuCycle (s : State) : SuuId → Nat
  | .cluster cl _ => s.islandCycle cl
  | .edge _ _ => s.cycle

/-- Enters an update into a window, under the values of MERGE and ORDERED now in force (10 R310). -/
def State.enterUpd (s : State) (u : SuuId) (x : Upd) : State :=
  let y := s.suu u
  s.setSuu u { y with win := y.win ++ [{ x with merge := y.merges }], lastAt := s.suuCycle u }

end Sys2Proof.Machine
end

