-- ==== Sys2Proof/Machine/Path.lean ====
section
/-! DEFINITION. The path of a request (07 R221-R228): how a served request ends, path faults and holding, requests to a peer
(22 R515, R516), completion at a scope (07 R226, R234, R235; 15 R546), and the access to a location. -/

namespace Sys2Proof.Machine

/-- How serving a request ends: answered and gone, waiting as it stands, waiting with a changed record, or held by a path
fault. -/
inductive Served where
  | done (s : State) (ws : List Word) (tag : BitVec 3)
  | wait (s : State)
  | park (s : State) (r : Req)
  | fail (s : State) (f : Flt) (r : Req)

/-- What serves a request of unit `p`. -/
abbrev Server := Nat → Req → State → Served

/-! ### Requests by number -/

/-- The requests of a unit that can be served: those in its queue, then those that wait where they are served. -/
def Proc.pending (P : Proc) : List Req := P.reqs ++ P.parked

/-- Takes a request from wherever it stands. -/
def State.dropReq (s : State) (p rid : Nat) : State :=
  s.modProc p fun P =>
    { P with reqs := P.reqs.filter (fun r => r.rid != rid), parked := P.parked.filter (fun r => r.rid != rid),
             held := P.held.filter fun r => r.rid != rid }

/-- Puts a request where it waits: in its place when it waited already. -/
def State.parkReq (s : State) (p : Nat) (r : Req) : State :=
  s.modProc p fun P =>
    if P.parked.any fun x => x.rid == r.rid then
      { P with parked := P.parked.map fun x => if x.rid = r.rid then r else x }
    else { P with reqs := P.reqs.filter (fun x => x.rid != r.rid), held := P.held.filter (fun x => x.rid != r.rid),
                  parked := P.parked ++ [r] }

/-- A path fault: the request is held, the context enters FAULT, one record is posted (07 R228, 16 R422). -/
def State.holdReq (s : State) (p : Nat) (r : Req) (f : Flt) : State :=
  let g : Flt :=
    { f with op0 := some (f.op0.getD r.a), op1 := some (f.op1.getD r.b),
             op2 := if f.op2 = 0 then wnLo r.wide else f.op2 }
  let s1 := (s.dropReq p r.rid).modProc p fun P => { P with held := P.held ++ [{ r with code := f.code }] }
  s1.takeFault (.path r.rid) p r.ctx r.slot r.word g true r.resp

/-- The end of serving a request. -/
def finishServed (p : Nat) (r : Req) : Served → State
  | .done s ws tag => (s.dropReq p r.rid).respond p r ws tag
  | .wait s => s
  | .park s r' => s.parkReq p r'
  | .fail s f r' => s.holdReq p r' f

/-- A request answered with one word, tagged RAW64 (07 R224). -/
def Served.word (s : State) (w : Word) : Served := .done s [w] 0
/-- A request acknowledged (07 R224). -/
def Served.ack (s : State) : Served := .done s [0] 0

/-! ### Completion at a scope -/

/-- Kinds that access memory and that a fence awaits (07 R226, R235; log entry 22). -/
def ReqKind.accesses : ReqKind → Bool
  | .ld | .st | .stp | .ldacq | .strel | .ldw | .stw | .atom | .cas | .syncadd | .syncrd | .syncset => true
  | _ => false

/-- Kinds that read or write handle slots, which are locations (07 R215, 20 R498). -/
def ReqKind.slots : ReqKind → Bool
  | .alloc | .free | .hbind | .hexp | .hdrop => true
  | _ => false

/-- Bytes that an access of a kind reads or writes (07 R231-R238). -/
def Req.bytes (r : Req) : Nat :=
  match r.kind with
  | .ld | .st | .stp | .ldw | .stw => 2 ^ (r.mode % 4)
  | .atom => if r.mode % 16 = 1 then 4 else 8
  | _ => 8

/-- The location of byte `i` of an access, as far as it resolves. -/
def State.reqLoc (s : State) (p : Nat) (r : Req) (i : Nat) : Option Loc :=
  if r.wide ≠ 0 then some (.wide (r.wide + i))
  else match r.kind with
    | .ldw | .stw => some (.wide (pairWide r.a r.a2 + i))
    | _ => (s.resolve p r.job (r.a + BitVec.ofNat 64 i) 1).toOption

/-- A location lies in the extent of a scope for unit `p` (07 R226, 15 R546). What does not resolve lies in every extent
beyond the cluster's, and so does a page in the store or of no tier (log entry 22). -/
def State.inExtent (s : State) (p scope : Nat) : Option Loc → Bool
  | none => decide (2 ≤ scope)
  | some (.loc _) => true
  | some (.ctl _) => decide (2 ≤ scope)
  | some (.scratch a) =>
    decide (3 ≤ scope) || (scope == 2 && a / 2 ^ 22 / 32 == dieOf p) ||
      (decide (scope < 2) && !isCore p && a / 2 ^ 22 == p / 16)
  | some (.wide w) =>
    let l := s.leaf (pageOf w)
    if l.v && l.tier == 0 then decide (3 ≤ scope) || (scope == 2 && l.frame / 2 ^ 21 == dieOf p)
    else if l.v && l.tier == 1 then decide (4 ≤ scope)
    else decide (2 ≤ scope)

/-- The handle table of a request's job lies in the extent of a scope for unit `p`: it is homed in HBM of the die that ran the job's
first region (07 R226; 20 R498); before any has run, it counts in every extent from .D on (log entry 22). -/
def State.tableIn (s : State) (p scope : Nat) (r : Req) : Bool :=
  let h := s.tableHome.get 0 (r.job.getD 0)
  decide (3 ≤ scope) || (scope == 2 && (h == 0 || h == dieOf p + 1))

/-- Some access of context `c` issued before request `before` is not complete at a scope (07 R226, R234, R235): one of its bytes
lies in the extent, or it accesses a handle slot that does (20 R493, R495, R498). -/
def State.awaits (s : State) (p c before scope : Nat) (postedOnly : Bool) : Bool :=
  let P := s.proc p
  (P.reqs ++ P.parked ++ P.held).any fun r =>
    r.ctx == c && decide (r.rid < before) &&
      ((r.kind.accesses && (!postedOnly || r.kind == .stp) &&
          (s.inExtent p scope (s.reqLoc p r 0) || s.inExtent p scope (s.reqLoc p r (r.bytes - 1)))) ||
        (r.kind.slots && !postedOnly && s.tableIn p scope r))

/-! ### Requests to a peer -/

/-- DOMAIN (22 R516). -/
def fltDomain : Flt := { code := 23 }

/-- Sends a request to a node and keeps it until its answer (22 R512, R515, R516). -/
def State.toPeer (s : State) (p : Nat) (r : Req) (node ty op len : Nat) (payload : List Word) : Served :=
  let d := dieOf p
  if s.domainOk d r.job node = false then .fail s fltDomain r
  else if s.mayPacket node = false then .park s r
  else
    let x := s.sendRequest node ty op (if ty = 4 then 16 else len) (r.wide % 2 ^ 120) (s.dtag d (r.job.getD 0)) payload
    let s1 : State := { x.2 with fabric := { x.2.fabric with remote := x.2.fabric.remote ++ [(x.1, node, p, r.rid)] } }
    .park s1 { r with stage := 1, resent := false }

/-- Asks the home of an object of another node for its state, before an access to a page of it held here (22 R547; log
entry 90). -/
def State.askHome (s : State) (p : Nat) (r : Req) : Served :=
  match s.toPeer p r (wnNode r.wide) 10 0 0 [] with
  | .park s1 q => .park s1 (if q.stage = 1 then { q with stage := 4 } else q)
  | x => x

/-! ### Access to a location -/

/-- What an access does to the bytes at a memory key, once it reaches them. -/
abbrev AtKey := Nat → State → Served

/-- The windows are closed before an access that is not merged (10 R292). -/
def State.closeIf (s : State) (merged : Bool) (k len : Nat) : Option State := if merged then some s else s.closeFor k len

/-- An access by wide address that reaches HBM, misses, or goes to a peer as packet `ty` (19 R461, R478, R479; 22 R515). An
access that may merge closes no window here. A store of a unit is one of fewer than 64 bytes, so a line that fails verification
stops it as it stops a load. -/
def State.viaHbm (s : State) (p : Nat) (r : Req) (w len : Nat) (acc : Acc) (merged : Bool) (ty op : Nat)
    (payload : List Word) (f : AtKey) : Served :=
  let r : Req := { r with wide := w }
  if s.mustAsk w then s.askHome p r
  else match s.translate (dieOf p) r.job w len acc r.flying with
  | .error x => .fail s x r
  | .ok (s1, .miss g) => .park (s1.missAt g (dieOf p) (some (r.job.getD 0))) { r with miss := some g, flying := true }
  | .ok (s1, .remote n) => s1.toPeer p { r with flying := true } n ty op len payload
  | .ok (s1, .hbm) =>
    let r : Req := { r with flying := true }
    if s1.hbmBusy w len then .park s1 r
    else if s1.hbmBad w len then
      let x := s1.onBad w len
      if x.2 then .park x.1 r else .fail x.1 fltIntegrity r
    else match s1.closeIf merged (wideKey w) len with
      | none => .park s1 r
      | some s2 => f (wideKey w) (s2.useHbm w len)

/-- An access by short address (07 R214, R228, R250). `ctl` is what it does at the control page. -/
def State.viaShort (s : State) (p : Nat) (r : Req) (len : Nat) (acc : Acc) (merged : Bool) (ty op : Nat)
    (payload : List Word) (ctl : Nat → Served) (f : AtKey) : Served :=
  match (if r.wide ≠ 0 then .ok (.wide r.wide) else s.resolve p r.job r.a len) with
  | .error x => .fail s x r
  | .ok (.ctl n) => ctl n
  | .ok (.loc k) => f k s
  | .ok (.wide w) => s.viaHbm p r w len acc merged ty op payload f
  | .ok (.scratch a) =>
    if acc ≠ .store ∧ s.sbad a len = true then .fail s fltIntegrity r
    else match s.closeIf merged a len with
      | none => .wait s
      | some s1 => f a s1

/-! ### Stores to the control page -/

/-- The register a request writes, when it is a store to the control page that may be performed now: a STREL waits for the
earlier accesses of its context (07 R234, 15 R395, R546). -/
def State.ctlStore (s : State) (p k : Nat) : Option (Req × Nat) :=
  match (s.proc p).pending[k]? with
  | none => none
  | some r =>
    let isStore := r.kind == .st || r.kind == .stp || r.kind == .strel
    if isStore = false ∨ isCore p = false ∨ aSlot r.a ≠ 0 ∨ aOff r.a / 2 ^ 30 ≠ 2 then none
    else if r.kind = .strel ∧ s.awaits p r.ctx r.rid r.mode false = true then none
    else some (r, aOff r.a % 2 ^ 16 / 8)

/-- The store of request `r` is performed and acknowledged. -/
def State.ctlDone (s : State) (p : Nat) (r : Req) : State := finishServed p r (.ack s)

/-- The registers that every die's control page shows alike (19 R485, 22 R532, 24 R540-R544). -/
def isPkgReg (n : Nat) : Bool :=
  (1080 ≤ n && n ≤ 1083) || n == 1091 || (1104 ≤ n && n ≤ 1131) || (1136 ≤ n && n ≤ 1327) || (2304 ≤ n && n ≤ 2559)

/-- A read of a control-page register (15 R395): reserved registers were never written and read their reset. -/
def State.ctlRead (s : State) (d n : Nat) : Word := if isPkgReg n then s.pkgReg n else s.ctlReg d n

/-- DBGDATA (16 R448). -/
def regDbgData : Nat := 2049

/-! ### Descriptors and images -/

/-- The size that an OBJQ word gives (07 R242). -/
def objSizeOf (w : Word) : Nat := if bitOf w 15 then 2 ^ 48 else fldN w 16 48

/-- Asks a peer for the next line of words of a descriptor or image (22 R509, R515). -/
def State.moreFrom (s : State) (p : Nat) (r : Req) (w node words skip : Nat) : Served :=
  let got := r.data.length - skip
  let n := min 8 (words - got)
  let q : Req := { r with wide := w + 8 * got }
  match s.toPeer p q node 0 0 (8 * n) [] with
  | .park s1 r1 => .park s1 { r1 with wide := r.wide }
  | .fail s1 f r1 => .fail s1 { f with op2 := wnLo q.wide } { r1 with wide := r.wide }
  | x => x

/-- Word `i` of the `words` words at wide address `w` that request `r` reads: one performance (20 R490), or the next line of a
peer's words. The range as a whole is judged at its first word. -/
def State.readWord (s : State) (p : Nat) (r : Req) (w words skip : Nat) : Served :=
  let i := r.data.length - skip
  let a := w + 8 * i
  match (if i = 0 then (s.translate (dieOf p) r.job w (8 * words) .load r.flying).map fun _ => () else .ok ()) with
  | .error x => .fail s { x with op2 := wnLo w } r
  | .ok _ =>
    match s.translate (dieOf p) r.job a 8 .load (r.flying || i != 0) with
    | .error x => .fail s { x with op2 := wnLo a } r
    | .ok (s1, .miss g) => .park (s1.missAt g (dieOf p) (some (r.job.getD 0))) { r with miss := some g, flying := true }
    | .ok (s1, .remote n) => s1.moreFrom p { r with flying := true } w n words skip
    | .ok (s1, .hbm) =>
      let r : Req := { r with flying := true }
      if s1.hbmBusy a 8 then .park s1 r
      else if s1.hbmBad a 8 then
        let x := s1.onBad a 8
        if x.2 then .park x.1 r else .fail x.1 { fltIntegrity with op2 := wnLo a } r
      else match s1.closeFor (wideKey a) 8 with
        | none => .park s1 r
        | some s2 => .park (s2.useHbm a 8) { r with data := r.data ++ [s2.mword (wideKey a)] }

/-- The first `words` words at wide address `w`, read word by word where they lie, or line by line of a peer (20 R490). `skip`
counts the words in hand that belong to an earlier read. -/
def State.readWords (s : State) (p : Nat) (r : Req) (w words skip : Nat) (f : List Word → State → Served) : Served :=
  if words ≤ r.data.length - skip then f ((r.data.drop skip).take words) s else s.readWord p r w words skip

/-- Word `i` of those that request `r` reads at memory key `k` of scratchpad or of a core's local memory (20 R490). -/
def State.readKey (s : State) (r : Req) (k skip : Nat) : Served :=
  let a := k + 8 * (r.data.length - skip)
  let take (s : State) : Served := .park s { r with data := r.data ++ [s.mword a] }
  if 2 ^ 30 ≤ k then take s
  else if s.sbad a 8 then .fail s fltIntegrity r
  else match s.closeFor a 8 with
    | none => .wait s
    | some s1 => take s1

/-- A descriptor of `words` words at a short address of a request (09 R266, 11 R333, 13 R383, 19 R469, 22 R530), once they are
all in hand; `skip` counts the words in hand that belong to an earlier read. -/
def State.viaDesc (s : State) (p : Nat) (r : Req) (a : Word) (words : Nat) (f : List Word → Req → State → Served)
    (skip : Nat := 0) : Served :=
  let have' := decide (words ≤ r.data.length - skip)
  let at' (k : Nat) : Served := if have' then f ((r.data.drop skip).take words) r s else s.readKey r k skip
  match (if r.wide ≠ 0 then .ok (.wide r.wide) else s.resolve p r.job a (8 * words)) with
  | .error x => .fail s x r
  | .ok (.ctl _) => .fail s fltBounds r
  | .ok (.loc k) => at' k
  | .ok (.wide w) => let q : Req := { r with wide := w }
    s.readWords p q w words skip fun ws s1 => f ws q s1
  | .ok (.scratch k) => at' k

end Sys2Proof.Machine
end

