-- ==== Sys2Proof/Machine/Memory.lean ====
section
/-! DEFINITION. Loads, stores, ordering, atomics, objects and handles (07): the instructions at issue, what serves their
requests, and the events that end them. -/

namespace Sys2Proof.Machine

/-! ### At issue -/

/-- Size in bytes of a load or store (07 R231). -/
def accSize (m : Nat) : Nat := 2 ^ (m % 4)

/-- The issue faults of an access by short address. -/
def accFaults (len : Env → Nat) (acc : Acc) (e : Env) (s : State) : Option Flt :=
  s.shortFault e.p (s.jobOf e.p e.c) e.a (len e) acc

/-- No issue fault. -/
def noFaults (_ : Env) (_ : State) : Option Flt := none

/-- A control core that acts for no job may not issue it (15 R397). -/
def jobFaults (e : Env) (s : State) : Option Flt := if (s.jobOf e.p e.c).isNone then some fltProt else none

/-- An object instruction by short address: SLOT 0 names no object (07 R239), and another slot needs a job (15 R397). -/
def objFaults (e : Env) (s : State) : Option Flt := if aSlot e.a = 0 then some fltProt else jobFaults e s

/-- HDROP: SLOT 0 is a path fault (07 R239), and another slot needs a job (15 R397). -/
def dropFaults (e : Env) (s : State) : Option Flt := if aSlot e.a = 0 then none else jobFaults e s

/-- ALLOC's issue faults (07 R239, 15 R397). -/
def allocFaults (e : Env) (s : State) : Option Flt :=
  match jobFaults e s with
  | some f => some f
  | none => if e.a = 0 ∨ e.a.toNat > 2 ^ 48 then some fltBounds else none

/-- ATOM's mode: the operation, and RET at 16 (07 R231). -/
def atomMode (e : Env) : Nat := e.v.mod.toNat + (if e.v.pidx.getLsbD 0 then 16 else 0)

/-- LD (07 R232). -/
def execLd (f : RForm) (s : State) : Out :=
  issue (viewR 0xB0 f) (portEffect .ld modOf (accFaults (fun e => accSize (modOf e)) .load)) s
/-- ST (07 R232). -/
def execSt (f : RForm) (s : State) : Out :=
  issue (viewR 0xB1 f) (portEffect .st modOf (accFaults (fun e => accSize (modOf e)) .store)) s
/-- STP (07 R232). -/
def execStp (f : RForm) (s : State) : Out :=
  issue (viewR 0xB2 f) (portEffect .stp modOf (accFaults (fun e => accSize (modOf e)) .store)) s
/-- LDACQ (07 R233). -/
def execLdacq (f : RForm) (s : State) : Out :=
  issue (viewR 0xB3 f) (portEffect .ldacq modOf (accFaults (fun _ => 8) .load)) s
/-- STREL (07 R234). -/
def execStrel (f : RForm) (s : State) : Out :=
  issue (viewR 0xB4 f) (portEffect .strel modOf (accFaults (fun _ => 8) .store)) s
/-- FENCE (07 R235). -/
def execFence (f : RForm) (s : State) : Out := issue (viewR 0xB5 f) (portEffect .fence modOf noFaults) s
/-- FLUSH (07 R235). -/
def execFlush (f : RForm) (s : State) : Out := issue (viewR 0xB6 f) (portEffect .flush modOf noFaults) s
/-- LDW (07 R232). -/
def execLdw (f : RForm) (s : State) : Out := issue (viewR 0xB7 f) (portEffect .ldw modOf noFaults) s
/-- STW (07 R232). -/
def execStw (f : RForm) (s : State) : Out := issue (viewR 0xB8 f) (portEffect .stw modOf noFaults) s
/-- PREF (07 R236): never faults. -/
def execPref (f : RForm) (s : State) : Out := issue (viewR 0xB9 f) (portEffect .pref modOf noFaults) s
/-- ATOM (07 R237). -/
def execAtom (f : RForm) (s : State) : Out :=
  issue (viewR 0xC0 f) (portEffect .atom atomMode (accFaults (fun e => atomLen (modOf e)) .atomic)) s
/-- CAS (07 R238). -/
def execCas (f : RForm) (s : State) : Out :=
  issue (viewR 0xC1 f) (portEffect .cas modOf (accFaults (fun _ => 8) .atomic)) s
/-- ALLOC (07 R239). -/
def execAlloc (f : RForm) (s : State) : Out := issue (viewR 0xD0 f) (portEffect .alloc modOf allocFaults) s
/-- FREE (07 R239). -/
def execFree (f : RForm) (s : State) : Out := issue (viewR 0xD1 f) (portEffect .free modOf objFaults) s
/-- SEAL (07 R239). -/
def execSeal (f : RForm) (s : State) : Out := issue (viewR 0xD2 f) (portEffect .seal modOf objFaults) s
/-- PERSIST (07 R239). -/
def execPersist (f : RForm) (s : State) : Out := issue (viewR 0xD3 f) (portEffect .persist modOf objFaults) s
/-- HBIND (07 R239). -/
def execHbind (f : RForm) (s : State) : Out := issue (viewR 0xD4 f) (portEffect .hbind modOf jobFaults) s
/-- HEXP (07 R239). -/
def execHexp (f : RForm) (s : State) : Out := issue (viewR 0xD5 f) (portEffect .hexp modOf objFaults) s
/-- HSHORT (07 R239). -/
def execHshort (f : RForm) (s : State) : Out := issue (viewR 0xD6 f) (portEffect .hshort modOf jobFaults) s
/-- HDROP (07 R239). -/
def execHdrop (f : RForm) (s : State) : Out := issue (viewR 0xD7 f) (portEffect .hdrop modOf dropFaults) s
/-- OBJQ (07 R242). -/
def execObjq (f : RForm) (s : State) : Out := issue (viewR 0xD8 f) (portEffect .objq modOf noFaults) s

/-! ### Serving loads, stores and atomics -/

/-- The value a load responds with (07 R232). -/
def loadVal (r : Req) (w : Word) : Word := if r.kind = .ldacq then w else extendTo (accSize r.mode) (r.mode / 4 % 2 == 1) w

/-- Bytes of a load or store request. -/
def reqLen (r : Req) : Nat :=
  match r.kind with
  | .ldacq | .strel | .cas => 8
  | .atom => atomLen (r.mode % 16)
  | _ => accSize r.mode

/-- A request whose access has reached memory key `k`: it goes on at its wide address. -/
def Req.reached (r : Req) (k : Nat) : Req := if k < 2 ^ 40 then r else { r with wide := k - 2 ^ 40, flying := true }

/-- The value of some bytes, one in each word. -/
def byteVal (ws : List Word) : Word := wordOf (ws.map (·.setWidth 8))

/-- The read of a load: one performance when it is aligned, else one for each byte (07 R232, 20 R490). -/
def loadAt (r : Req) : AtKey := fun k s =>
  let n := reqLen r
  if k % n = 0 then .word s (loadVal r (wordOf (s.mread k n)))
  else
    let ws := r.data ++ [(s.mget (k + r.data.length)).setWidth 64]
    if n ≤ ws.length then .word s (loadVal r (byteVal ws)) else .park s { r.reached k with data := ws }

/-- The write of a store: one performance when it is aligned, else one for each byte (07 R232, 20 R490). -/
def storeAt (r : Req) : AtKey := fun k s =>
  let n := reqLen r
  let bs := bytesOf n r.b
  if k % n = 0 then .ack (s.writeKey k bs)
  else
    let i := r.data.length
    let s1 := s.writeKey (k + i) [bs.getD i 0]
    if n ≤ i + 1 then .ack s1 else .park s1 { r.reached k with data := r.data ++ [0] }

/-- LD and LDACQ (07 R232, R233). DBGDATA has a row of its own. -/
def serveLd : Server := fun p r s =>
  s.viaShort p r (reqLen r) .load false 0 0 []
    (fun n => if n = regDbgData then .wait s else .word s (s.ctlRead (dieOf p) n)) (loadAt r)

/-- ST, STP and the write of STREL (07 R232, R234). The control page has rows of its own. -/
def serveSt : Server := fun p r s =>
  s.viaShort p r (reqLen r) .store false (if r.kind = .stp then 2 else 1) 0 [r.b] (fun _ => .wait s) (storeAt r)

/-- LDW (07 R232). -/
def serveLdw : Server := fun p r s =>
  s.viaHbm p r (pairWide r.a r.a2) (reqLen r) .load false 0 0 [] (loadAt r)

/-- STW (07 R232). -/
def serveStw : Server := fun p r s =>
  s.viaHbm p r (pairWide r.a r.a2) (reqLen r) .store false 1 0 [r.b] (storeAt r)

/-- A misaligned atomic through a handle is a path fault (07 R237). -/
def atomAligned (k : Nat) (r : Req) : Bool := k % reqLen r == 0

/-- An atomic performed by itself (07 R237). -/
def atomAlone (r : Req) : AtKey := fun k s =>
  if atomAligned k r = false then .fail s fltProt (r.reached k)
  else
    let x := s.atomAt k (r.mode % 16) r.b
    .word x.2 (if r.mode ≥ 16 then x.1 else 0)

/-- An atomic with RET 0 enters the window of its unit, once what it conflicts with is closed (10 R291-R293). -/
def atomMerged (p : Nat) (r : Req) (u : SuuId) : AtKey := fun k s =>
  let q := r.reached k
  if atomAligned k r = false then .fail s fltProt q
  else
    match (if (s.suu u).takes k (r.mode % 16) then some s else s.closeWindow u) with
    | none => .park s q
    | some s1 => .park (s1.enterUpd u { loc := k, op := r.mode % 16, val := r.b, src := some (p, r.rid) }) { q with stage := 2 }

/-- ATOM (07 R237): one with RET 0 may merge in the sparse-update unit of its bank or channel when that is enabled. -/
def serveAtom : Server := fun p r s =>
  s.viaShort p r (reqLen r) .atomic (r.mode < 16) 3 (r.mode % 16) [r.b] (fun _ => .wait s) fun k s1 =>
    let u := s1.suuOf k
    if r.mode < 16 ∧ (s1.suu u).en = true then atomMerged p r u k s1
    else match s1.closeFor k (reqLen r) with
      | none => .park s1 r
      | some s2 => atomAlone r k s2

/-- CAS (07 R238). -/
def serveCas : Server := fun p r s =>
  s.viaShort p r 8 .atomic false 4 0 [r.b, r.b2] (fun _ => .wait s) fun k s1 =>
    if atomAligned k r = false then .fail s1 fltProt (r.reached k)
    else
      let old := s1.mword k
      .word (if old = r.b then s1.writeKey k (bytesOf 8 r.b2) else s1) old

/-- A request for promotion: PIN marks the page (07 R236, 19 R461). -/
def State.askPage (s : State) (w : Nat) (d : Nat) (job : Option Nat) : State :=
  match s.translate d job w 1 .load with
  | .ok (s1, .miss g) => s1.missAt g d none
  | _ => s

/-- PREF (07 R236). -/
def servePref : Server := fun p r s =>
  .ack (match s.resolve p r.job r.a 1 with
    | .ok (.wide w) => s.askPage w (dieOf p) r.job
    | _ => s)

/-- FENCE and FLUSH wait for their accesses (07 R235). -/
def serveFence : Server := fun _ r s => .park s { r with stage := 3 }

/-! ### Serving objects and handles -/

/-- The code of an object's state (07 R216). -/
def objCode : ObjSt → Nat
  | .opened => 0
  | .sealed => 1
  | .durable => 2
  | .deadPending => 3
  | .reclaimed => 4
  | .unissued => 5

/-- The OBJQ word of an object (07 R242, 08 R245). -/
def objWord (o : Obj) : Word :=
  put (o.size % 2 ^ 48) 16 ||| put (if o.size = 2 ^ 48 then 1 else 0) 15 ||| put (objCode o.st) 0

/-- Pages of a size (19 R454). -/
def pagesIn (size : Nat) : Nat := (size + 65535) / 65536

/-- Pages that count against the quota of a job on a die (19 R455), with those that have migrated here (22 R518). -/
def State.quotaUsed (s : State) (d job : Nat) : Nat :=
  s.objs.foldl (fun n o =>
    if o.2.die = d ∧ o.2.job = job ∧ (o.2.st = .opened ∨ o.2.st = .sealed) then n + pagesIn o.2.size else n) 0 +
  s.leaves.countP fun e => e.2.v && e.2.tier == 0 && e.2.w && !s.ownNode (pageNode e.1) && e.2.frame / 2 ^ 21 == d &&
    e.2.job == job

/-- The lowest `n` free frames of the stack of die `d`, searched from `k` on `fuel` places (log entry 23). -/
def findFrames (used : List Nat) (d : Nat) : Nat → Nat → Nat → List Nat
  | 0, _, _ => []
  | fuel + 1, n, k =>
    if n = 0 ∨ dataPages ≤ k then []
    else if used.contains (d * 2 ^ 21 + k) then findFrames used d fuel n (k + 1)
    else (d * 2 ^ 21 + k) :: findFrames used d fuel (n - 1) (k + 1)

/-- Free frames of a stack. -/
def State.freeFrames (s : State) (d n : Nat) : List Nat :=
  let used := s.leaves.filterMap fun e => if e.2.v && e.2.tier == 0 then some e.2.frame else none
  findFrames used d (n + used.length) n 0

/-- Issues the next serial: the high-water mark moves in blocks of 2^20 before it (19 R473), and the node is fixed with its
first serial (22 R513). -/
def State.issueSerial (s : State) : Nat × State :=
  let n := s.nextSerial
  (n, { s with nextSerial := n + 1
               highWater := if n < s.highWater then s.highWater else (n / 2 ^ 20 + 1) * 2 ^ 20
               store := { s.store with node := some (s.store.node.getD s.nodeId) } })

/-- The leaf entry of a fresh page (19 R455, R457). -/
def freshLeaf (job keyidx frame : Nat) : Leaf :=
  { Leaf.reset with v := true, tier := 0, w := true, keyidx := keyidx, job := job, frame := frame }

/-- ALLOC as one step (07 R239): the frames are zeroed, every line of them written (19 R478). -/
def serveAlloc : Server := fun p r s =>
  let d := dieOf p
  let j := r.job.getD 0
  let n := pagesIn r.a.toNat
  if s.quotaUsed d j + n > (s.ctlReg d (4 * j + 2)).toNat then .done s [0xFFFF000000000000] 7
  else match s.bind j s.nodeId s.nextSerial 0 with
    | none => .fail s fltExhausted r
    | some (a, s1) =>
      let fs := s.freeFrames d n
      if fs.length < n ∨ fs.any s.frameBusy = true then .wait s
      else
        let x := s1.issueSerial
        let s2 := x.2.setObj x.1 { st := .opened, size := r.a.toNat, die := d, job := j, pages := [], stored := false }
        let base := pageOf (wideNum s.nodeId x.1 0)
        let s3 := fs.zipIdx.foldl (fun s f =>
          s.installLeaf (base + f.2) (freshLeaf j (s.jobKeys.get 0 (256 * d + j)) f.1)) s2
        .done ((s3.clearBytes (wideKey (wideNum s.nodeId x.1 0)) (65536 * n)).modDie d fun D => fs.foldl Die.fillFrame D) [a] 7

/-- An object operation at another node (22 R547): 0 query, 1 seal, 2 persist, 3 free. -/
def State.objectAtHome (s : State) (p : Nat) (r : Req) (w op : Nat) : Served :=
  s.toPeer p { r with wide := w } (wnNode w) 10 op 0 []

/-- An object operation by short address: it resolves, and acts here or at the object's home. -/
def State.viaObject (s : State) (p : Nat) (r : Req) (op : Nat) (f : Nat → Served) : Served :=
  match (if r.wide ≠ 0 then .ok r.wide else s.resolveHandle (r.job.getD 0) r.a 1) with
  | .error x => .fail s x r
  | .ok w => if s.ownNode (wnNode w) then f w else s.objectAtHome p r w op

/-- FREE here (07 R239): the object dies and its handles on this package with it. -/
def State.freeObject (s : State) (job serial : Nat) : State :=
  (s.setObj serial { s.obj serial with st := .deadPending }).dropBound job s.nodeId serial

/-- FREE (07 R239, R243). -/
def serveFree : Server := fun p r s =>
  s.viaObject p r 3 fun w =>
    let o := s.obj (wnSerial w)
    if wnSerial w < 2 ^ 16 ∨ o.st = .deadPending ∨ o.st = .reclaimed then .fail s fltProt { r with wide := w }
    else .ack (s.freeObject (r.job.getD 0) (wnSerial w))

/-- SEAL (07 R239, R240): an object that is not OPEN answers at once. -/
def serveSeal : Server := fun p r s =>
  s.viaObject p r 1 fun w =>
    let o := s.obj (wnSerial w)
    if o.st = .opened then .park s { r with wide := w, stage := 3 } else .word s (put (objCode o.st) 0)

/-- PERSIST (07 R239-R241). -/
def servePersist : Server := fun p r s =>
  s.viaObject p r 2 fun w =>
    let o := s.obj (wnSerial w)
    if o.st = .sealed then .park s { r with wide := w, stage := 3 } else .word s (put (objCode o.st) 0)

/-- HBIND's binding, once the object is known (07 R239). -/
def State.bindWide (s : State) (r : Req) (w : Nat) : Served :=
  match s.bind (r.job.getD 0) (wnNode w) (wnSerial w) (wnOff w) with
  | none => .fail s fltExhausted { r with wide := w }
  | some (a, s1) => .done s1 [a] 7

/-- HBIND (07 R239, 22 R547). -/
def serveHbind : Server := fun p r s =>
  let w := pairWide r.a r.a2
  if wnSerial w < 2 ^ 16 ∧ s.sysGrant (dieOf p) r.job = false then .fail s fltProt { r with wide := w }
  else if s.ownNode (wnNode w) = false then s.objectAtHome p r w 0
  else
    let o := s.obj (wnSerial w)
    if o.st ≠ .opened ∧ o.st ≠ .sealed ∧ o.st ≠ .durable then .fail s fltProt { r with wide := w }
    else if wnOff w ≥ o.size then .fail s fltBounds { r with wide := w }
    else s.bindWide r w

/-- HEXP (07 R239). -/
def serveHexp : Server := fun _ r s =>
  match s.resolveHandle (r.job.getD 0) r.a 1 with
  | .error x => .fail s x r
  | .ok w => .done s [wnLo w, wnHi w] 0

/-- The lowest BOUND slot of a job with a wide address at its BASE (07 R239). -/
def State.shortOf (s : State) (job w : Nat) : Option Word :=
  (s.handles.find? fun e => e.1 / 65536 == job && e.2.st == .bound && e.2.node == wnNode w && e.2.serial == wnSerial w &&
    e.2.base == wnOff w).map fun e => put (e.1 % 65536) 48 ||| put e.2.count.toNat 32

/-- HSHORT (07 R239). -/
def serveHshort : Server := fun _ r s =>
  .done s [(s.shortOf (r.job.getD 0) (pairWide r.a r.a2)).getD 0xFFFF000000000000] 7

/-- HDROP (07 R239). Operand 1 of its HANDLE_STALE is that of a short address that does not resolve (08 R246; log entry 123). -/
def serveHdrop : Server := fun _ r s =>
  let j := r.job.getD 0
  let h := s.handle j (aSlot r.a)
  if aSlot r.a = 0 ∨ h.st ≠ .bound ∨ h.count.toNat ≠ aCheck r.a then .fail s (staleFault r.a h) r
  else .ack (s.setHandle j (aSlot r.a) (dropHandle h))

/-- OBJQ (07 R242, 22 R547): never faults. -/
def serveObjq : Server := fun p r s =>
  let w := pairWide r.a r.a2
  if s.ownNode (wnNode w) then .word s (objWord (s.obj (wnSerial w)))
  else if s.domainOk (dieOf p) r.job (wnNode w) then s.objectAtHome p r w 0
  else .word s 5

/-! ### Events -/

/-- ML_RESPONSE (07 R223): response `k` of unit `p` fills its entries. -/
def execMlResponse (p k : Nat) (s : State) : Out :=
  match (s.proc p).resps[k]? with
  | none => .next s
  | some x => .next (s.modProc p fun P =>
      { P with resps := P.resps.eraseIdx k, ml := mlFill P.ml x.rid x.words x.tag })

/-- STREL_WRITE (07 R234): a release store whose earlier accesses are complete at its scope writes. -/
def execStrelWrite (p k : Nat) (s : State) : Out :=
  match (s.proc p).pending[k]? with
  | none => .next s
  | some r =>
    if r.kind = .strel ∧ r.stage = 0 ∧ s.awaits p r.ctx r.rid r.mode false = false then
      .next (finishServed p r (serveSt p r s))
    else .next s

/-- FENCE_RESPONSE (07 R235): a fence or flush at which nothing it awaits is left responds 0. -/
def execFenceResponse (p k : Nat) (s : State) : Out :=
  match (s.proc p).pending[k]? with
  | none => .next s
  | some r =>
    if (r.kind = .fence ∨ r.kind = .flush) ∧ r.stage = 3 ∧ s.awaits p r.ctx r.rid r.mode (r.kind == .flush) = false then
      .next (finishServed p r (.ack s))
    else .next s

/-- Kinds that write where they access (07 R220). -/
def ReqKind.writes : ReqKind → Bool
  | .st | .stp | .strel | .stw | .atom | .cas => true
  | _ => false

/-- An update of an object waits in a window (10 R293). -/
def State.windowHolds (s : State) (w : Nat) : Bool :=
  let hit (x : Suu) : Bool := x.win.any fun u => decide (2 ^ 40 ≤ u.loc) && (u.loc - 2 ^ 40) / 2 ^ 56 == w / 2 ^ 56
  (s.clusters.any fun c => c.2.suu.any fun x => hit x.2) || (s.dies.any fun d => d.2.edgeSuu.any fun x => hit x.2)

/-- A write translated to an object is still to be performed: a request of a unit or of a peer, one forwarded to the holder of a
page that has moved, a store copy's words on their way there, or an update in a window (07 R240, 10 R293, 22 R515). -/
def State.writesInFlight (s : State) (w : Nat) : Bool :=
  s.windowHolds w ||
    (s.procs.any fun e => e.2.pending.any fun r => r.kind.writes && r.flying && r.wide / 2 ^ 56 == w / 2 ^ 56) ||
    s.fabric.homeq.any (fun h => 1 ≤ h.pkt.ptype && h.pkt.ptype ≤ 4 && h.flying && h.page / 2 ^ 40 == w / 2 ^ 56) ||
    s.fabric.forwards.any (fun x => 1 ≤ x.2.2.2.ptype && x.2.2.2.ptype ≤ 4 && s.ownNode (wnNode w) &&
      x.2.2.2.addr / 2 ^ 56 == w % 2 ^ 120 / 2 ^ 56) ||
    s.dies.any fun d => d.2.copies.any fun e => match e.2 with
      | some c => bitOf (c.desc.getD 1 0) 63 && !c.farScratch && c.far / 2 ^ 56 == w / 2 ^ 56 &&
          c.reqs.any fun q => match q.phase with | .sent _ => true | _ => false
      | none => false

/-- Marks every leaf entry of an object (19 R460). -/
def State.markLeaves (s : State) (w : Nat) (f : Leaf → Leaf) : State :=
  { s with leaves := s.leaves.map fun e => if e.1 / 2 ^ 40 = w / 2 ^ 56 then (e.1, f e.2) else e }

/-- What is known of an object of another node changes: its pages held here follow (07 R217, 19 R460, 22 R518; log entry 90). -/
def State.setKnown (s : State) (w : Nat) (x : Known) : State :=
  let s1 : State := { s with known := s.known.set Known.reset (w / 2 ^ 56) x }
  if x.code = 4 then { s1 with leaves := s1.leaves.filter fun e => e.1 / 2 ^ 40 != w / 2 ^ 56 || e.2.tier != 0 }
  else if x.code = 1 ∨ x.code = 2 then s1.markLeaves w fun l => { l with isSealed := true, w := false }
  else s1

/-- The state of an object at its home, another node, changes: the home tells the holders of the object's pages (log entry 90). -/
def State.objectAt (s : State) (node serial code size : Nat) : State :=
  if s.ownNode (node % 256) || decide (4 < code) then s
  else s.setKnown (wideNum (node % 256) serial 0) { code := code, size := size }

/-- The map change that seals an object: its place in the seal-completion order is taken (07 R240, 19 R460, R471). -/
def State.sealObject (s : State) (w : Nat) : State :=
  let n := wnSerial w
  let s1 := s.setObj n { s.obj n with st := .sealed }
  let s2 : State := { s1 with store := { s1.store with waiting := s1.store.waiting ++ [n] } }
  s2.markLeaves w fun l => { l with isSealed := true, w := false }

/-- SEAL_COMPLETE (07 R240, 19 R460). -/
def execSealComplete (p k : Nat) (s : State) : Out :=
  match (s.proc p).pending[k]? with
  | none => .next s
  | some r =>
    if r.kind = .seal ∧ r.stage = 3 then
      let o := s.obj (wnSerial r.wide)
      if o.st = .opened then
        if s.writesInFlight r.wide then .next s
        else .next (finishServed p r (.word (s.sealObject r.wide) (put 1 0)))
      else .next (finishServed p r (.word s (put (objCode o.st) 0)))
    else .next s

/-- STORE_FULL (07 R241). -/
def fltStoreFull : Flt := { code := 24 }

/-- PERSIST_COMPLETE (07 R239, R241): the object is DURABLE, or freed, or cannot be appended. -/
def execPersistComplete (p k : Nat) (s : State) : Out :=
  match (s.proc p).pending[k]? with
  | none => .next s
  | some r =>
    if r.kind = .persist ∧ r.stage = 3 then
      let o := s.obj (wnSerial r.wide)
      if o.st ≠ .sealed then .next (finishServed p r (.word s (put (objCode o.st) 0)))
      else if s.store.stopped then .next (finishServed p r (.fail s fltStoreFull { r with stage := 0 }))
      else .next s
    else .next s

/-- Requests, copies, updates and the requests of peers in flight to an object, those forwarded to a page's holder among them
(07 R218, 09 R267, 10 R293, 22 R515). -/
def State.inFlight (s : State) (serial : Nat) : Bool :=
  (s.procs.any fun e => (e.2.reqs ++ e.2.parked ++ e.2.held).any fun r => r.flying && wnSerial r.wide == serial &&
    s.ownNode (wnNode r.wide)) ||
  (s.dies.any fun d => d.2.copies.any fun e => match e.2 with
    | some c => (c.status == 0 || c.reqs != []) && !c.farScratch && wnSerial c.far == serial && s.ownNode (wnNode c.far)
    | none => false) ||
  s.windowHolds (wideNum s.nodeId serial 0) ||
  s.fabric.homeq.any (fun h => h.pkt.addr / 2 ^ 56 == serial) ||
  s.fabric.forwards.any fun x => x.2.2.2.addr / 2 ^ 56 == serial

/-- An Espalier graph of the object is loaded (12 R359). -/
def State.graphUses (s : State) (serial : Nat) : Bool :=
  s.clusters.any fun c => c.2.esp.any fun x => x.2.st != .free && x.2.serial == serial

/-- OBJECT_RECLAIM (07 R217, R218, 19 R474): frames and leaf entries are given back, and the object's store pages are dead. -/
def execObjectReclaim (serial : Nat) (s : State) : Out :=
  let o := s.obj serial
  if o.st = .deadPending ∧ s.inFlight serial = false ∧ s.graphUses serial = false then
    let w := wideNum s.nodeId serial 0
    let s1 := s.setObj serial { o with st := .reclaimed, pages := [] }
    .next { s1 with leaves := s1.leaves.filter (fun e => e.1 / 2 ^ 40 != w / 2 ^ 56)
                    store := { s1.store with waiting := s1.store.waiting.erase serial, dead := s1.store.dead ++ o.pages } }
  else .next s

end Sys2Proof.Machine
end

