-- ==== Sys2Proof/Machine/Check.lean ====
section
/-! DEFINITION. The decode check of 02 R67 and its reason codes (02 R68), in the order of that rule, with the readings of a
control core (15 R394) and the special-register numbers of 06 R192. -/

namespace Sys2Proof.Machine

/-- A source code that names a channel (02 R57). -/
def srcIsChannel (c : BitVec 5) : Bool := 16 ≤ c.toNat && c.toNat ≤ 23

/-- A source code whose channel a control core lacks (15 R394). -/
def srcAbsentOnCore (c : BitVec 5) : Bool := srcIsChannel c && c != 22

/-- An even register x0-x14. -/
def isPairCode (c : BitVec 5) : Bool := c.toNat < 16 && c.toNat % 2 == 0

/-- DST holds a code its opcode does not accept (02 R55, R56). Unused is another matter: see `dstNonzero`. -/
def dstBad (u : DstUse) (c : BitVec 5) : Bool :=
  let n := c.toNat
  n == 22 || n == 23 ||
  match u with
  | .value => n == 20
  | .reg | .regRead => n ≥ 16
  | .out => n < 16 || n > 19
  | .mem => n != 20
  | .pred => n < 24
  | .pair => !isPairCode c
  | .four => n > 12 || n % 4 != 0
  | .eight => n != 0 && n != 8
  | .none => n == 20

/-- SA or SB holds a code its opcode does not accept (02 R57, and the numbers of 05 R157, 06 R194, 09 R259). -/
def srcBad (u : SrcUse) (c : BitVec 5) : Bool :=
  match u with
  | .src => c.toNat > 25
  | .pair => !isPairCode c
  | .input => c.toNat < 16 || c.toNat > 19
  | .num limit => c.toNat ≥ limit
  | .pred => c.toNat > 7
  | .none => c.toNat > 25

/-- CHA and TGA form no legal pair, or CHA and CHB name one channel (02 R50; on a core 15 R394). -/
def chanBad (core : Bool) (t : Trigger) : Bool :=
  let a := t.cha.toNat
  let g := t.tga.toNat
  (a == 7 && g != 0) ||
  (4 ≤ a && a ≤ 6 && !(g ≤ 8 || g == 15)) ||
  (core && (a == 4 || a == 6) && !(g == 8 || g == 15)) ||
  (t.cha == t.chb && a != 7)

/-- The special registers that SPW may write in a place (06 R192, 15 R397). -/
def sprWritable (core : Bool) (n : Nat) : Bool :=
  n == 0 || n == 1 || n == 2 || n == 20 || (core && n == 21)

/-- An SPR or SPW names a number that is unassigned, or SPW one that is read-only there (02 R53, 06 R192). -/
def sprBad (core : Bool) (v : View) : Bool :=
  (v.opc == 0x47 && v.imm.toNat > 21) || (v.opc == 0x48 && !sprWritable core v.imm.toNat)

/-- A DQ bit whose field names no channel is 1 (02 R61), or the opcode takes no dequeue (06 R194). -/
def dqBad (s : Shape) (v : View) : Bool :=
  let saChan := match s.sa with
    | .src | .input => srcIsChannel v.sa
    | _ => false
  let sbChan := s.sb == .src && srcIsChannel v.sb
  (v.dq.getLsbD 3 && v.trig.cha == 7) || (v.dq.getLsbD 2 && v.trig.chb == 7) ||
  (v.dq.getLsbD 1 && !saChan) || (v.dq.getLsbD 0 && !(sbChan && s.form == .r)) ||
  (!s.dq && v.dq != 0)

/-- A field that must be 0 is not (02 R58, R62, R51, R59, R63). ATOM's PIDX field is RET and two zeros. -/
def fieldBad (s : Shape) (w : Word) (v : View) : Bool :=
  (s.dst == .none && v.dst != 0 && s.form != .b) ||
  (s.sa == .none && v.sa != 0) || (s.sb == .none && v.sb != 0) ||
  (v.opc == 0x3C && v.sa != 0) || !s.modOk ||
  (v.trig.pval &&& ~~~v.trig.pcare) != 0 ||
  (if v.opc == 0xC0 then v.pact != 0 || v.pidx.toNat > 1 else (v.pact == 0 && v.pidx != 0) || (!s.pact && v.pact != 0)) ||
  (s.form == .w && fld w 3 4 != 0) ||
  (s.form != .w && dqBad s v)

/-- The operands name a channel that a control core lacks, or the opcode acts on one (15 R394). -/
def absentOnCore (s : Shape) (v : View) : Bool :=
  v.trig.cha.toNat < 4 || v.trig.chb.toNat < 4 ||
  ((s.sa == .src || s.sa == .input) && srcAbsentOnCore v.sa) ||
  (s.sb == .src && s.form == .r && srcAbsentOnCore v.sb) ||
  ((s.dst == .value || s.dst == .out) && 16 ≤ v.dst.toNat && v.dst.toNat ≤ 19) ||
  s.place == .elementOnly

/-- The operand problems of reason code 2. -/
def operandBad (core : Bool) (s : Shape) (v : View) : Bool :=
  dstBad s.dst v.dst || srcBad s.sa v.sa || srcBad s.sb v.sb || chanBad core v.trig || sprBad core v ||
  (s.chaIn && v.trig.cha.toNat > 3)

/-- The decode check of 02 R67: `core` is the place CONTROL. Its answer is the reason code of 02 R68. -/
def check (core : Bool) (w : Word) : Nat :=
  let v := viewOf w
  match shapeOf v with
  | none => 1
  | some s =>
    if core && v.trig.ctx != 0 then 3
    else if operandBad core s v then 2
    else if fieldBad s w v then 3
    else if !core && s.place == .coreOnly then 4
    else if core && absentOnCore s v then 4
    else 0

end Sys2Proof.Machine
end

