-- ==== Sys2Proof/Machine/Image.lean ====
section
/-! DEFINITION. Launch images (15 R404, R405): their records, what makes one malformed, and the state that an ELEMENT, CONTEXT
or SELECTOR record describes. -/

namespace Sys2Proof.Machine

/-- A record: the word index of its header, the header, its body, and the region it follows (none before the first REGION
record). -/
structure ImgRec where
  at_ : Nat
  head : Word
  body : List Word
  region : Option Nat
  deriving DecidableEq, Repr

/-- TYPE of a record (15 R404). -/
def ImgRec.typ (x : ImgRec) : Nat := fldN x.head 56 8
/-- Region-relative cluster (15 R405). -/
def ImgRec.cl (x : ImgRec) : Nat := fldN x.head 48 8
/-- Element or router (15 R405). -/
def ImgRec.el (x : ImgRec) : Nat := fldN x.head 44 4
/-- Context (15 R405). -/
def ImgRec.ctx (x : ImgRec) : Nat := fldN x.head 42 2

/-- The records that stand back to back from a word on (15 R404); none where a LEN runs past the image. -/
def recsFrom (ws : List Word) : Nat → Nat → Option Nat → Option (List ImgRec × Nat)
  | 0, i, _ => some ([], i)
  | n + 1, i, reg =>
    match ws[i]? with
    | none => none
    | some h =>
      let len := fldN h 0 32
      if i + 1 + len > ws.length then none
      else
        let g := if fldN h 56 8 = 1 then some (match reg with | some g => g + 1 | none => 0) else reg
        match recsFrom ws n (i + 1 + len) g with
        | none => none
        | some r => some ({ at_ := i, head := h, body := (ws.drop (i + 1)).take len, region := g } :: r.1, r.2)

/-- Reserved header bits of a record are nonzero, or its type is another (15 R404, R405). -/
def ImgRec.headBad (x : ImgRec) : Bool :=
  match x.typ with
  | 1 => fldN x.head 33 23 != 0
  | 2 | 4 | 5 => fldN x.head 32 12 != 0
  | 3 => fldN x.head 32 10 != 0
  | 6 => fldN x.head 32 16 != 0
  | 7 | 8 | 9 | 10 => fldN x.head 32 24 != 0
  | _ => true

/-- Slots in the mask of an ELEMENT record (15 R405). -/
def maskSlots (w : Word) : List Nat := (List.range 32).filter fun i => bitOf w i

/-- A body is malformed (15 R405; 06 R173, R181). -/
def ImgRec.bodyBad (x : ImgRec) : Bool :=
  let b := x.body
  let n := b.length
  match x.typ with
  | 1 => n != 1
  | 2 => decide (n < 5) || fldN (b.getD 0 0) 32 32 != 0 || n != 5 + (maskSlots (b.getD 0 0)).length ||
      (List.range 4).any fun i => let w := b.getD (1 + i) 0; fldN w 19 45 != 0 || fldN w 10 6 != 0
  | 3 => n != 17 || fldN (b.getD 0 0) 19 45 != 0
  | 4 => n != 16 || b.any fun w => (w &&& 0x1818181818181818) != 0
  | 5 => b.any fun w => fldN w 48 16 != 0 || fldN w 32 4 != 0
  | 6 => b.any fun w => (w &&& ~~~0x3FF0003#64) != 0 || fldN w 16 10 == 1023
  | 8 => b.isEmpty || fldN (b.getD 0 0) 0 3 != 0 || decide ((b.getD 0 0).toNat + 8 * (n - 1) > 2 ^ 18)
  | _ => false

/-- A record of a region stands before the first REGION record (15 R405). -/
def ImgRec.stray (x : ImgRec) : Bool := 2 ≤ x.typ && x.typ ≤ 7 && x.region.isNone

/-- Two records give one element or context twice (15 R405). -/
def ImgRec.same (x y : ImgRec) : Bool :=
  x.typ == y.typ && x.region == y.region &&
  (x.typ == 2 || x.typ == 3 || x.typ == 4) && x.cl == y.cl && x.el == y.el && (x.typ != 3 || x.ctx == y.ctx)

/-- Some record has a second one. -/
def hasTwins : List ImgRec → Bool
  | [] => false
  | x :: xs => xs.any x.same || hasTwins xs

/-- The register words x0-x15 of a CONTEXT record, by word index in the image. -/
def ImgRec.regWords (x : ImgRec) : List Nat := (List.range 16).map fun i => x.at_ + 2 + i

/-- A RELOC record names another word than a register of its region (15 R405). -/
def relocBad (rs : List ImgRec) (x : ImgRec) : Bool :=
  x.typ == 7 && x.body.any fun w =>
    !(rs.any fun y => y.typ == 3 && y.region == x.region && y.regWords.contains w.toNat)

/-- The records of an image, none when it is malformed (15 R404, R405). -/
def parseImage (ws : List Word) : Option (List ImgRec) :=
  let h := ws.headD 0
  match recsFrom ws (fldN h 32 16) 1 none with
  | none => none
  | some (rs, n) =>
    if fldN h 48 16 = 1 ∧ n = fldN h 0 32 ∧ n = ws.length ∧
        (rs.any fun x => x.headBad || x.bodyBad || x.stray || relocBad rs x) = false ∧ hasTwins rs = false then some rs
    else none

/-- The records of region `r` of an image. -/
def regionRecs (rs : List ImgRec) (r : Nat) : List ImgRec :=
  rs.filter fun x => x.region == some r && decide (x.typ ≤ 7)

/-- The image has a region `r`. -/
def hasRegion (rs : List ImgRec) (r : Nat) : Bool := rs.any fun x => x.typ == 1 && x.region == some r

/-- The words that RELOC records name, by index in the image. -/
def relocWords (rs : List ImgRec) : List Nat := (rs.filter fun x => x.typ == 7).flatMap fun x => x.body.map (·.toNat)

/-! ### The first word that fails the decode check -/

/-- The loaded slots of an ELEMENT record: slot, word, and the word's index in the image (15 R405). -/
def ImgRec.slotWords (x : ImgRec) : List (Nat × Word × Nat) :=
  (maskSlots (x.body.getD 0 0)).zipIdx.map fun y => (y.1, x.body.getD (5 + y.2) 0, x.at_ + 6 + y.2)

/-- Of two offending words, the one of the lowest element, then slot (02 R69). -/
def firstBad (a b : Nat × Nat × Word × Nat) : Nat × Nat × Word × Nat :=
  if b.1 < a.1 ∨ (b.1 = a.1 ∧ b.2.1 < a.2.1) then b else a

/-- The first slot word among an image's records that fails Check: element (region-relative), slot, word, index (02 R69). -/
def badSlot (rs : List ImgRec) : Option (Nat × Nat × Word × Nat) :=
  let all := (rs.filter fun x => x.typ == 2).flatMap fun x => x.slotWords.map fun y => (16 * x.cl + x.el, y)
  match all.filter fun y => check false y.2.2.1 != 0 with
  | [] => none
  | y :: ys => some (ys.foldl firstBad y)

/-- The first word of a CTL record that fails Check: word and index (15 R415). -/
def badCtl (rs : List ImgRec) : Option (Word × Nat) :=
  let all := (rs.filter fun x => x.typ == 8).flatMap fun x => (x.body.drop 1).zipIdx.map fun y => (y.1, x.at_ + 2 + y.2)
  all.find? fun y => check true y.1 != 0

/-! ### What a region's records load -/

/-- The record of a type for an element. -/
def recOf (rs : List ImgRec) (typ cl el : Nat) : Option ImgRec := rs.find? fun x => x.typ == typ && x.cl == cl && x.el == el

/-- The CONTEXT record of a context. -/
def ctxRec (rs : List ImgRec) (cl el k : Nat) : Option ImgRec :=
  rs.find? fun x => x.typ == 3 && x.cl == cl && x.el == el && x.ctx == k

/-- The registers of a CONTEXT record, its relocated ones moved by `shift` (03 R86, 15 R415). -/
def ImgRec.regs (x : ImgRec) (reloc : List Nat) (shift : Word) : Vector Word 16 :=
  Vector.ofFn fun i => x.body.getD (1 + i.val) 0 + (if reloc.contains (x.at_ + 2 + i.val) then shift else 0)

/-- The context of a CONTEXT record, or the resets of 04 R94 (15 R405, R415). -/
def loadCtx (x : Option ImgRec) (reloc : List Nat) (shift : Word) : Ctx :=
  match x with
  | none => Ctx.reset
  | some x =>
    let w := x.body.getD 0 0
    { Ctx.reset with x := x.regs reloc shift, p := fld w 0 8, patience := fld w 8 8, fpmode := fld w 16 3 }

/-- The selector table of a SELECTOR record: byte j of word i is entry 8i + j (15 R405, 06 R181). -/
def loadSels (x : Option ImgRec) : KMap Sel :=
  match x with
  | none => []
  | some x => (List.range 128).foldl (fun m n =>
      let b : BitVec 8 := fld (x.body.getD (n / 8) 0) (8 * (n % 8)) 8
      m.set Sel.reset n { v := b.getLsbD 7, ctx := b.extractLsb' 5 2, handler := b.extractLsb' 0 3 }) []

/-- The owner of each handler: the context of a valid entry that names it (06 R182), of the lowest selector where they disagree
(log entry 121). -/
def ownersOf (sels : KMap Sel) : Vector (BitVec 2) 8 :=
  Vector.ofFn fun h => match sels.find? fun e => e.2.v && e.2.handler.toNat == h.val with | some e => e.2.ctx | none => 0

/-- Element `el` of cluster `cl` as the records of a region load it, over the unit as it stands (15 R415); DRANK, which R415 does
not name, stays (log entry 102). -/
def loadElement (rs : List ImgRec) (reloc : List Nat) (shift : Word) (cl el g : Nat) (P : Proc) : Proc :=
  let slots := match recOf rs 2 cl el with | some x => x.slotWords | none => []
  let conf (i : Nat) : Word := match recOf rs 2 cl el with | some x => x.body.getD (1 + i) 0 | none => 0xFF
  let sels := loadSels (recOf rs 4 cl el)
  { P with
    slots := slots.foldl (fun m y => m.set Slot.reset y.1 { word := some y.2.1, w := 0, brk := false, bad := false }) []
    ctxs := Vector.ofFn fun k => loadCtx (ctxRec rs cl el k.val) reloc shift
    ins := Vector.ofFn fun i => { vget P.ins i.val with conf := (conf i.val).setWidth 19 }
    sels := sels, owners := ownersOf sels, last := 3, ptr := 0, head := none, openTasks := [], hold := []
    trace := { lost := 0, core := 0, drop := false, en := false }, region := some g
    dirtySlots := false, dirtyCtx := 0, badRegs := [] }

end Sys2Proof.Machine
end

