-- ==== Sys2Proof/Machine/Float.lean ====
section
/-! DEFINITION. FP32 and BF16x4 instructions (05 R142-R151), over the common procedure of 05 R140. -/

namespace Sys2Proof.Machine

/-- The effective rounding mode of an issue (01 R20, 05 R135). -/
def Env.rm (e : Env) : Nat := if e.v.mod.toNat % 8 = 4 then e.C.fpmode.toNat % 4 else e.v.mod.toNat % 8
/-- FTZ as read at issue (05 R135). -/
def Env.ftz (e : Env) : Bool := e.C.fpmode.getLsbD 2

/-- The low half of a word read as FP32 (05 R140, R142). -/
def Env.f32 (e : Env) (w : Word) : FVal := fp32.read e.ftz (fldN w 0 32)

/-- An FP32 result: rounded once, tagged FP32 (05 R138, R140). -/
def Env.out32 (e : Env) (v : FVal) (fl : BitVec 5 := 0) : Res :=
  let r := fp32.round e.rm e.ftz v
  .val (BitVec.ofNat 64 r.1) 1 (fl ||| r.2)

/-- An FP32 result that is an operand or a sign change of one: no rounding (05 R144). -/
def exact32 (v : FVal) (fl : BitVec 5 := 0) : Res :=
  let r := fp32.round 0 false v
  .val (BitVec.ofNat 64 r.1) 1 (fl ||| r.2)

/-- The four BF16 lanes of a word, read as 05 R140 states. -/
def Env.bf (e : Env) (w : Word) : List FVal := (List.range 4).map fun i => bf16.read e.ftz (lane 16 w i).toNat

/-- Packs four BF16 patterns with the flags of their lanes ORed (05 R149). -/
def packBf (rs : List (Nat × BitVec 5)) : Res :=
  .val (ofLanes 16 (rs.map fun r => BitVec.ofNat 16 r.1)) 2 (rs.foldl (fun f r => f ||| r.2) 0)

/-- A BF16x4 result, each lane rounded once. -/
def Env.outBf (e : Env) (vs : List FVal) : Res := packBf (vs.map fun v => bf16.round e.rm e.ftz v)

/-- A BF16x4 result whose lanes are operands or sign changes of them. -/
def exactBf (vs : List FVal) : Res := packBf (vs.map fun v => bf16.round 0 false v)

/-- FADD (05 R142). -/
def execFadd (f : RForm) (s : State) : Out :=
  issue (viewR 0x50 f) (pureRes fun e => e.out32 (sumF e.rm [e.f32 e.a, e.f32 e.b])) s

/-- FSUB (05 R142). -/
def execFsub (f : RForm) (s : State) : Out :=
  issue (viewR 0x51 f) (pureRes fun e => e.out32 (sumF e.rm [e.f32 e.a, negF (e.f32 e.b)])) s

/-- FMUL (05 R142). -/
def execFmul (f : RForm) (s : State) : Out :=
  issue (viewR 0x52 f) (pureRes fun e => e.out32 (mulF (e.f32 e.a) (e.f32 e.b))) s

/-- FFMA (05 R142-R143): a × b + d, rounded once. -/
def execFfma (f : RForm) (s : State) : Out :=
  issue (viewR 0x53 f) (pureRes fun e => e.out32 (sumF e.rm [mulF (e.f32 e.a) (e.f32 e.b), e.f32 e.d])) s

/-- FFMS (05 R142-R143): d - a × b, rounded once. -/
def execFfms (f : RForm) (s : State) : Out :=
  issue (viewR 0x54 f) (pureRes fun e => e.out32 (sumF e.rm [negF (mulF (e.f32 e.a) (e.f32 e.b)), e.f32 e.d])) s

/-- FDIV (05 R142-R143). -/
def execFdiv (f : RForm) (s : State) : Out :=
  issue (viewR 0x55 f) (pureRes fun e => let q := divF (e.f32 e.a) (e.f32 e.b)
    e.out32 q.1 q.2) s

/-- FSQRT (05 R142-R143). -/
def execFsqrt (f : RForm) (s : State) : Out :=
  issue (viewR 0x56 f) (pureRes fun e => e.out32 (sqrtF (e.f32 e.a))) s

/-- FMIN (05 R144). -/
def execFmin (f : RForm) (s : State) : Out :=
  issue (viewR 0x57 f) (pureRes fun e => exact32 (minmaxF false (e.f32 e.a) (e.f32 e.b))) s

/-- FMAX (05 R144). -/
def execFmax (f : RForm) (s : State) : Out :=
  issue (viewR 0x58 f) (pureRes fun e => exact32 (minmaxF true (e.f32 e.a) (e.f32 e.b))) s

/-- FABS (05 R144). -/
def execFabs (f : RForm) (s : State) : Out :=
  issue (viewR 0x59 f) (pureRes fun e => exact32 ((e.f32 e.a).withSign false)) s

/-- FNEG (05 R144). -/
def execFneg (f : RForm) (s : State) : Out :=
  issue (viewR 0x5A f) (pureRes fun e => exact32 (negF (e.f32 e.a))) s

/-- FCMP (05 R145). -/
def execFcmp (f : RForm) (s : State) : Out :=
  issue (viewR 0x5B f) (pureRes fun e => let r := fcmpHolds e.v.mod.toNat (e.f32 e.a) (e.f32 e.b)
    .val (boolWord r.1) 0 (flagIf r.2 flIV)) s

/-- FCLASS (05 R146). -/
def execFclass (f : RForm) (s : State) : Out :=
  issue (viewR 0x5C f) (pureRes fun e => .val (fclassBits (fldN e.a 0 32))) s

/-- FRINT (05 R147). -/
def execFrint (f : RForm) (s : State) : Out :=
  issue (viewR 0x5D f) (pureRes fun e => let r := frintF e.rm (e.f32 e.a)
    exact32 r.1 r.2) s

/-- FSCALE (05 R147). -/
def execFscale (f : RForm) (s : State) : Out :=
  issue (viewR 0x5E f) (pureRes fun e => e.out32 (fscaleF (e.f32 e.a) e.b.toInt)) s

/-- FRCPA (05 R148). -/
def execFrcpa (f : RForm) (s : State) : Out :=
  issue (viewR 0x5F f) (pureRes fun e => let r := frcpa e.ftz (fldN e.a 0 32)
    .val (BitVec.ofNat 64 r.1) 1 r.2) s

/-- BADD (05 R149). -/
def execBadd (f : RForm) (s : State) : Out :=
  issue (viewR 0x60 f) (pureRes fun e => e.outBf (List.zipWith (fun x y => sumF e.rm [x, y]) (e.bf e.a) (e.bf e.b))) s

/-- BSUB (05 R149). -/
def execBsub (f : RForm) (s : State) : Out :=
  issue (viewR 0x61 f) (pureRes fun e => e.outBf (List.zipWith (fun x y => sumF e.rm [x, negF y]) (e.bf e.a) (e.bf e.b))) s

/-- BMUL (05 R149). -/
def execBmul (f : RForm) (s : State) : Out :=
  issue (viewR 0x62 f) (pureRes fun e => e.outBf (List.zipWith mulF (e.bf e.a) (e.bf e.b))) s

/-- BFMA (05 R149-R150). -/
def execBfma (f : RForm) (s : State) : Out :=
  issue (viewR 0x63 f) (pureRes fun e => e.outBf (List.zipWith (fun p z => sumF e.rm [p, z]) (List.zipWith mulF (e.bf e.a) (e.bf e.b)) (e.bf e.d))) s

/-- BMIN (05 R149). -/
def execBmin (f : RForm) (s : State) : Out :=
  issue (viewR 0x64 f) (pureRes fun e => exactBf (List.zipWith (minmaxF false) (e.bf e.a) (e.bf e.b))) s

/-- BMAX (05 R149). -/
def execBmax (f : RForm) (s : State) : Out :=
  issue (viewR 0x65 f) (pureRes fun e => exactBf (List.zipWith (minmaxF true) (e.bf e.a) (e.bf e.b))) s

/-- BCMP (05 R149, R151): lane masks; the condition is some lane's, or with MOD[3] all lanes'. -/
def execBcmp (f : RForm) (s : State) : Out :=
  issue (viewR 0x66 f) (pureRes fun e =>
    let rs := List.zipWith (fcmpHolds (e.v.mod.toNat % 8)) (e.bf e.a) (e.bf e.b)
    { vals := [ofLanes 16 (rs.map fun r => if r.1 then 0xFFFF else 0)], tag := 0,
      cond := if e.v.mod.getLsbD 3 then rs.all (·.1) else rs.any (·.1),
      flags := flagIf (rs.any (·.2)) flIV }) s

/-- BDOT (05 R149-R150): one rounding to FP32. -/
def execBdot (f : RForm) (s : State) : Out :=
  issue (viewR 0x67 f) (pureRes fun e => e.out32 (sumF e.rm (List.zipWith mulF (e.bf e.a) (e.bf e.b) ++ [e.f32 e.d]))) s

/-- The sign BSGN gives a lane (05 R149): that of b_i, its inverse, or the XOR of both signs. -/
def bsgnSign (mode : Nat) (na nb : Bool) : Bool :=
  match mode % 4 with
  | 0 => nb
  | 1 => !nb
  | _ => na != nb

/-- BSGN (05 R149, R151): b_i is read for its sign bit only. -/
def execBsgn (f : RForm) (s : State) : Out :=
  issue (viewR 0x68 f) (pureRes fun e =>
    exactBf (List.zipWith
      (fun x i => x.withSign (bsgnSign e.v.mod.toNat (lane 16 e.a i).msb (lane 16 e.b i).msb)) (e.bf e.a) (List.range 4))) s

/-- BSUM (05 R149-R150): one rounding to FP32. -/
def execBsum (f : RForm) (s : State) : Out :=
  issue (viewR 0x69 f) (pureRes fun e => e.out32 (sumF e.rm (e.bf e.a))) s

end Sys2Proof.Machine
end

