-- ==== Sys2Proof/Machine/Convert.lean ====
section
/-! DEFINITION. Conversions, codebooks, tags and carry-save words (05 R157-R166). -/

namespace Sys2Proof.Machine

/-- FCVT (05 R157): the formats of a conversion code, to and from. -/
def fcvtFmts (code : Nat) : Fmt × Fmt :=
  match code with
  | 0 => (fp32, bf16)
  | 1 => (fp32, fp16)
  | 2 => (bf16, fp32)
  | 3 => (fp16, fp32)
  | 4 => (fp16, bf16)
  | _ => (bf16, fp16)

/-- FCVT (05 R157): one rounding; a result in FP32 is tagged FP32 (05 R138). -/
def execFcvt (f : RForm) (s : State) : Out :=
  issue (viewR 0x80 f) (pureRes fun e =>
    let k := fcvtFmts e.v.sb.toNat
    let r := k.1.round e.rm e.ftz (k.2.read e.ftz (fldN e.a 0 (k.2.top + 1)))
    .val (BitVec.ofNat 64 r.1) (if k.1 = fp32 then 1 else 0) r.2) s

/-- FTOI (01 R27, 05 R158). -/
def execFtoi (f : RForm) (s : State) : Out :=
  issue (viewR 0x81 f) (pureRes fun e =>
    let r := ftoi e.rm e.v.sb.toNat (e.f32 e.a)
    .val (intWord r.1) 0 r.2) s

/-- The integer ITOF reads (05 R158). -/
def itofInt (code : Nat) (a : Word) : Int :=
  let w := match code / 2 with
    | 0 => 64
    | 1 => 32
    | 2 => 16
    | _ => 8
  if code % 2 = 0 then (a.setWidth w).toInt else (a.setWidth w).toNat

/-- ITOF (01 R27, 05 R158). -/
def execItof (f : RForm) (s : State) : Out :=
  issue (viewR 0x82 f) (pureRes fun e => e.out32 (ofInt (itofInt e.v.sb.toNat e.a))) s

/-- BCVT pack (05 R159): four FP32 values, each rounded to BF16. -/
def execBcvtPack (f : RForm) (s : State) : Out :=
  issue (viewR 0x83 f) (pureRes fun e =>
    e.outBf ([fldN e.a 0 32, fldN e.a 32 32, fldN e.b 0 32, fldN e.b 32 32].map fun x => fp32.read e.ftz x)) s

/-- BCVT unpack (05 R159): two BF16 lanes as FP32 values; exact. -/
def execBcvtUnpack (f : RForm) (s : State) : Out :=
  issue (viewR 0x83 f) (pureRes fun e =>
    let k := if e.v.mod.getLsbD 0 then 2 else 0
    let one (i : Nat) := fp32.round 0 e.ftz (bf16.read e.ftz (lane 16 e.a i).toNat)
    let x := one k
    let y := one (k + 1)
    .val (BitVec.ofNat 32 y.1 ++ BitVec.ofNat 32 x.1) 0 (x.2 ||| y.2)) s

/-- A codebook register of a context (05 R134). -/
def Ctx.codebook (C : Ctx) (m : Bool) : Vector (BitVec 16) 16 := if m then C.cb1 else C.cb0

/-- CBLD's write: entries 4q to 4q + 3 from the lanes of `a` (05 R160). -/
def cbWrite (t : Vector (BitVec 16) 16) (q : Nat) (a : Word) : Vector (BitVec 16) 16 :=
  (List.range 4).foldl (fun t i => vset t (4 * q + i) (lane 16 a i)) t

/-- CBLD (05 R160). -/
def execCbld (f : RForm) (s : State) : Out :=
  issue (viewR 0x86 f) (fun e s =>
    let q := e.v.mod.toNat / 2 % 4
    .ok ((s.mendSite e.p e.c (cbSite (e.v.mod.getLsbD 0) q)).modCtx e.p e.c fun C =>
      if e.v.mod.getLsbD 0 then { C with cb1 := cbWrite C.cb1 q e.a } else { C with cb0 := cbWrite C.cb0 q e.a },
      .none)) s

/-- An entry as decoded: a NaN entry yields the canonical NaN (05 R161). -/
def cbEntry (t : Vector (BitVec 16) 16) (c : Nat) : BitVec 16 :=
  let x := vget t c
  if (bf16.value x.toNat).isNan then BitVec.ofNat 16 bf16.nanBits else x

/-- CBDEC (05 R161). -/
def execCbdec (f : RForm) (s : State) : Out :=
  issue (viewR 0x84 f) (pureRes fun e =>
    let t := e.C.codebook (e.v.mod.getLsbD 0)
    let g := e.v.mod.toNat / 2 % 4
    .val (ofLanes 16 ((List.range 4).map fun i => cbEntry t (fldN e.a (4 * (4 * g + i)) 4))) 2) s

/-- The exact distance of two finite values, as a value to order by; an infinite entry lies infinitely far (05 R162). -/
def cbDistance (x y : FVal) : FVal :=
  match y with
  | .inf _ => .inf false
  | _ => (sumF 0 [x, negF y]).withSign false

/-- The lowest code of a list at the least distance from `x` (05 R162). -/
def cbNearest (t : Vector (BitVec 16) 16) (x : FVal) : List Nat → Nat
  | [] => 0
  | [c] => c
  | c :: cs =>
    let b := cbNearest t x cs
    if ordF (cbDistance x (bf16.value (vget t c).toNat)) (cbDistance x (bf16.value (vget t b).toNat)) = .gt then b else c

/-- CBENC's code for one lane, and its flags (05 R162). -/
def cbCode (t : Vector (BitVec 16) 16) (x : FVal) : Nat × BitVec 5 :=
  let val (c : Nat) := bf16.value (vget t c).toNat
  let ok := (List.range 16).filter fun c => !(val c).isNan
  let nanCode := (List.range 16).find? fun c => (val c).isNan
  let differs (c : Nat) : Bool := (val c).isNan || ordF (val c) x != .eq
  match x with
  | .nan iv => (match nanCode with | some c => (c, flagIf iv flIV) | none => (0, flIV))
  | _ =>
    if ok.isEmpty then (0, flIV ||| flagIf (differs 0) flNX)
    else
      let c := match x with
        | .inf n =>
          (match ok.find? fun c => val c == .inf n with
            | some c => c
            | none => cbNearest t (bf16.value ((if n then 0x8000 else 0) + bf16.maxBits)) ok)
        | _ => cbNearest t x ok
      (c, flagIf (differs c) flNX)

/-- CBENC (05 R162). -/
def execCbenc (f : RForm) (s : State) : Out :=
  issue (viewR 0x85 f) (pureRes fun e =>
    let t := e.C.codebook (e.v.mod.getLsbD 0)
    let g := e.v.mod.toNat / 2 % 4
    let cs := (e.bf e.a).map (cbCode t)
    let codes : Word := ofLanes 4 (cs.map fun c => BitVec.ofNat 4 c.1)
    .val ((e.b &&& ~~~(0xFFFF#64 <<< (16 * g))) ||| (codes <<< (16 * g))) 5 (cs.foldl (fun fl c => fl ||| c.2) 0)) s

/-- TAGSET (05 R163). -/
def execTagset (f : RForm) (s : State) : Out :=
  issue (viewR 0x87 f) (pureRes fun e => .val e.a (e.v.mod.setWidth 3)) s

/-- TAGOF (05 R164): the tag of the head of the input that SA names. -/
def execTagof (f : RForm) (s : State) : Out :=
  issue (viewR 0x88 f) (pureRes fun e =>
    .val (match e.pre.headOf e.p e.c (e.v.sa.toNat - 16) with
      | some t => t.tag.zeroExtend 64
      | none => 0)) s

/-- The exact value of a carry-save pair for CSARES, with the sign of an exact zero (05 R141, R165). -/
def csaresVal (rm : Nat) (w0 w1 : Word) : FVal :=
  match partOf w0 w1 with
  | .num v e =>
    if v = 0 then sumF rm [ofInt (w0.extractLsb' 12 52).toInt, ofInt (w1.extractLsb' 12 52).toInt]
    else partVal (.num v e)
  | p => partVal p

/-- CSARES (05 R165). -/
def execCsares (f : RForm) (s : State) : Out :=
  issue (viewR 0x89 f) (pureRes fun e => e.out32 (csaresVal e.rm e.a e.b)) s

/-- CSAADD (05 R166): Combine of two pairs, the canonical words to d and d + 1. -/
def execCsaadd (f : RForm) (s : State) : Out :=
  issue (viewR 0x8A f) (pureRes fun e =>
    let r := combine (partOf (vget e.C.x e.v.sa.toNat) e.a2) (partOf (vget e.C.x e.v.sb.toNat) e.b2)
    let w := partWords r.1
    { vals := [w.1, w.2], cond := w.1 != 0, flags := flagIf r.2 flIV }) s

end Sys2Proof.Machine
end

