-- ==== Sys2Proof/Machine/Sync.lean ====
section
/-! DEFINITION. Sync words, the tag table and the tile tags (09 R251-R262). -/

namespace Sys2Proof.Machine

/-! ### Sync words -/

/-- SyncWord's checks (09 R260). -/
def syncFaults (e : Env) (s : State) : Option Flt :=
  if fldN e.a 30 34 ≠ 0 ∨ fldN e.a 0 22 < syncBase ∨ fldN e.a 0 3 ≠ 0 ∨
      s.clusterOk e.p (s.jobOf e.p e.c) (fldN e.a 22 8) = false then some fltProt
  else none

/-- SYNCADD (09 R260). -/
def execSyncadd (f : RForm) (s : State) : Out := issue (viewR 0xC2 f) (portEffect .syncadd modOf syncFaults) s
/-- SYNCRD (09 R260). -/
def execSyncrd (f : RForm) (s : State) : Out := issue (viewR 0xC3 f) (portEffect .syncrd modOf syncFaults) s
/-- SYNCSET (09 R260). -/
def execSyncset (f : RForm) (s : State) : Out := issue (viewR 0xC4 f) (portEffect .syncset modOf syncFaults) s

/-- An access to the sync word of a request, once no window holds an update of it. -/
def State.viaSync (s : State) (r : Req) (f : Nat → State → Served) : Served :=
  let a := r.a.toNat
  if s.sbad a 8 then .fail s fltIntegrity r
  else match s.closeFor a 8 with
    | none => .wait s
    | some s1 => f a s1

/-- SYNCADD: one step of the write order (09 R260). -/
def serveSyncadd : Server := fun _ r s => s.viaSync r fun a s1 =>
  .word (s1.syncWrite a (s1.mword a + r.b)) (s1.mword a)

/-- SYNCSET (09 R260). -/
def serveSyncset : Server := fun _ r s => s.viaSync r fun a s1 => .word (s1.syncWrite a r.b) (s1.mword a)

/-- A read that must wait takes an entry of the waiter table, or is held in arrival order (09 R261). -/
def State.addWaiter (s : State) (cl : Nat) (x : Waiter) : State :=
  s.modCluster cl fun C =>
    if C.waiters.length < 64 ∧ C.waitq = [] then { C with waiters := C.waiters ++ [x] } else { C with waitq := C.waitq ++ [x] }

/-- SYNCRD (09 R260, R261). -/
def serveSyncrd : Server := fun p r s => s.viaSync r fun a s1 =>
  if syncHolds r.mode (s1.mword a) r.b then .word s1 (s1.mword a)
  else .wait ((s1.dropReq p r.rid).addWaiter (a / 2 ^ 22) { proc := p, req := r })

/-! ### Tag table -/

/-- The set of a key (09 R255). -/
def tagSet (k : BitVec 52) : Nat :=
  ((List.range 8).foldl (fun (x : BitVec 7) i => x ^^^ k.extractLsb' (7 * i) 7) 0).toNat

/-- The cluster a tag or tile instruction acts on (09 R262). -/
def tagCluster (e : Env) : Nat := if isCore e.p then 32 * dieOf e.p + fldN e.a 56 5 else e.p / 16

/-- The entry of a frame (09 R254). -/
def Cluster.tag (C : Cluster) (f : Nat) : Option (BitVec 52) := C.tags.get none f

/-- The frame of a key's set that holds it (09 R255). -/
def Cluster.lookTag (C : Cluster) (k : BitVec 52) : Option Nat :=
  ((List.range 8).map fun w => 8 * tagSet k + w).find? fun f => C.tag f == some k

/-- TLOOK (09 R262). -/
def execTlook (f : RForm) (s : State) : Out :=
  issue (viewR 0xC5 f) (fun e s =>
    .ok (s, .val (match (s.cluster (tagCluster e)).lookTag (e.a.setWidth 52) with
      | some f => put f 0
      | none => 0xFFFFFFFF))) s

/-- TSET's code and write (09 R262). -/
def tagWrite (C : Cluster) (k : BitVec 52) (f : Nat) : Nat × Cluster :=
  if f = 1023 then (3, C)
  else if f / 8 ≠ tagSet k then (1, C)
  else if (match C.lookTag k with | some g => g != f | none => false) then (2, C)
  else (0, { C with tags := C.tags.set none f (some k) })

/-- TSET (09 R262). -/
def execTset (f : RForm) (s : State) : Out :=
  issue (viewR 0xC6 f) (fun e s =>
    let n := tagCluster e
    let x := tagWrite (s.cluster n) (e.a.setWidth 52) (fldN e.b 0 10)
    .ok (s.modCluster n fun _ => x.2, .val (put x.1 0))) s

/-- TCLR (09 R262). -/
def execTclr (f : RForm) (s : State) : Out :=
  issue (viewR 0xC7 f) (fun e s =>
    let n := tagCluster e
    let f := fldN e.a 0 10
    let v : Word := match (s.cluster n).tag f with
      | some k => (1#64 <<< 63) ||| k.zeroExtend 64
      | none => 0
    .ok (s.modCluster n fun C => { C with tags := C.tags.set none f none }, .val v)) s

/-! ### Tile tags -/

/-- The tile tag of a frame; the sync frame's reads FULL (09 R256). -/
def Cluster.tile (C : Cluster) (f : Nat) : BitVec 2 := if f = 1023 then 2 else C.tiles.get 0 f

/-- A cluster with a tile tag written; the sync frame's never is (09 R256). -/
def Cluster.setTile (C : Cluster) (f : Nat) (t : BitVec 2) : Cluster :=
  if f = 1023 then C else { C with tiles := C.tiles.set 0 f t }

/-- TILETAG when it may write (09 R262): `ok` of the old tag. The predicate is v[2]. -/
def tiletag (ok : Env → BitVec 2 → Bool) : Effect := fun e s =>
  let n := tagCluster e
  let f := fldN e.a 0 10
  let old := (s.cluster n).tile f
  let write := f != 1023 && ok e old
  let v : Word := put (old.toNat + (if write then 4 else 0)) 0
  .ok (if write then s.modCluster n fun C => C.setTile f (e.v.mod.setWidth 2) else s,
    { vals := [v], cond := write, pv := some write })

/-- TILETAG.cas (09 R262). -/
def execTiletagCas (f : RForm) (s : State) : Out :=
  issue (viewR 0xC8 f) (tiletag fun e old => old == e.v.mod.extractLsb' 2 2) s
/-- TILETAG.set (09 R262). -/
def execTiletagSet (f : RForm) (s : State) : Out := issue (viewR 0xC8 f) (tiletag fun _ _ => true) s
/-- TILETAG.rd (09 R262). -/
def execTiletagRd (f : RForm) (s : State) : Out :=
  issue (viewR 0xC8 f) (fun e s => .ok (s, .val (put ((s.cluster (tagCluster e)).tile (fldN e.a 0 10)).toNat 0))) s

end Sys2Proof.Machine
end

