-- ==== Sys2Proof/Machine/Copies.lean ====
section
/-! DEFINITION. Stream copies (09 R263-R277), the counters that a copy drives (10 R298-R299) and the coalescers (10 R300). -/

namespace Sys2Proof.Machine

/-! ### Descriptor fields (09 R263) -/

/-- Word `i` of a copy descriptor. -/
def Copy.dw (c : Copy) (i : Nat) : Word := c.desc.getD i 0
/-- DIR: 1 for a store copy. -/
def Copy.isStore (c : Copy) : Bool := bitOf (c.dw 1) 63
/-- TILE. -/
def Copy.tile (c : Copy) : Bool := bitOf (c.dw 1) 62
/-- IDX. -/
def Copy.indexed (c : Copy) : Bool := bitOf (c.dw 1) 61
/-- COMP. -/
def Copy.comp (c : Copy) : Nat := fldN (c.dw 1) 59 2
/-- CORE: a control core, or a context. -/
def Copy.core (c : Copy) : Nat := fldN (c.dw 1) 57 2
/-- Element size in bytes. -/
def Copy.esize (c : Copy) : Nat := 2 ^ fldN (c.dw 1) 55 2
/-- CNT. -/
def Copy.cnt (c : Copy) : Nat := fldN (c.dw 1) 52 3
/-- CNTV. -/
def Copy.cntv (c : Copy) : Nat := fldN (c.dw 1) 49 3
/-- AGT. -/
def Copy.agt (c : Copy) : Nat := fldN (c.dw 1) 42 4
/-- VIA. -/
def Copy.via (c : Copy) : BitVec 8 := fld (c.dw 1) 32 8
/-- RIN, 1 without a subgraph. -/
def Copy.rin (c : Copy) : Nat := if c.via = 0 then 1 else fldN (c.dw 1) 24 8
/-- ROUT, 1 without a subgraph. -/
def Copy.rout (c : Copy) : Nat := if c.via = 0 then 1 else fldN (c.dw 1) 16 8
/-- Slot size S in bytes. -/
def Copy.size (c : Copy) : Nat := 64 * fldN (c.dw 2) 48 16
/-- Slots N. -/
def Copy.slots (c : Copy) : Nat := fldN (c.dw 2) 40 8 + 1
/-- Fabric address of slot 0. -/
def Copy.ring (c : Copy) : Nat := fldN (c.dw 2) 0 30
/-- COUNT of a dimension. -/
def Copy.count (c : Copy) (i : Nat) : Nat := fldN (c.dw (3 + i)) 48 16
/-- STRIDE of a dimension. -/
def Copy.stride (c : Copy) (i : Nat) : Int := ((c.dw (3 + i)).setWidth 48).toInt
/-- Words of a position. -/
def Copy.words (c : Copy) : Nat := c.size / 8
/-- Elements of the pattern. -/
def Copy.elems (c : Copy) : Nat := c.count 0 * c.count 1 * c.count 2 * c.count 3

/-- Whole words of the far stream; a last part of a word counts as one (log entry 84). -/
def Copy.farWords (c : Copy) : Nat := (c.elems * c.esize + 7) / 8
/-- SCOPE of the VISIBLE points. -/
def Copy.scope (c : Copy) : Nat := fldN (c.dw 1) 46 3
/-- Far words that the ring words of the first `k` positions are made of or make: RIN for every ROUT begun (09 R265). -/
def Copy.due (c : Copy) (k : Nat) : Nat := min c.farWords ((k * c.words + c.rout - 1) / c.rout * c.rin)
/-- The first far word that a ring word of position `p` is made of or makes. -/
def Copy.farLow (c : Copy) (p : Nat) : Nat := p * c.words / c.rout * c.rin

/-- Displacement of element `n` from the far side's first byte (09 R264); none while its index token is awaited. -/
def Copy.delta (c : Copy) (n : Nat) : Option Int :=
  let i0 := n % c.count 0
  let i1 := n / c.count 0 % c.count 1
  let i2 := n / (c.count 0 * c.count 1) % c.count 2
  let i3 := n / (c.count 0 * c.count 1 * c.count 2)
  let x : Option Nat := if c.indexed then c.idx[i3]? else some i3
  x.map fun x => i0 * c.stride 0 + i1 * c.stride 1 + i2 * c.stride 2 + x * c.stride 3

/-- Displacement of byte `b` of the far stream. -/
def Copy.farByteAt (c : Copy) (b : Nat) : Option Int := (c.delta (b / c.esize)).map (· + (b % c.esize : Nat))
/-- The index tokens that far word `n` needs have come (09 R264). -/
def Copy.known (c : Copy) (n : Nat) : Bool :=
  (List.range (min 8 (c.elems * c.esize - 8 * n))).all fun j => (c.farByteAt (8 * n + j)).isSome
/-- OFFSET of the far side's first byte. -/
def Copy.farOff (c : Copy) : Int := if c.farScratch then ((c.far % 2 ^ 22 : Nat) : Int) else (wnOff c.far : Int)
/-- Bytes of the far stream from `b` on, at displacement `d`, `lim` at most, that lie one after another in one aligned word of
the far side: one performance (20 R490). -/
def Copy.run (c : Copy) (b lim : Nat) (d : Int) : Nat :=
  ((List.range lim).takeWhile fun (k : Nat) =>
    k == 0 || (decide ((c.farOff + d + (k : Int)) % 8 ≠ 0) && c.farByteAt (b + k) == some (d + (k : Int)))).length

/-- The first byte of far word `n` goes on in the aligned word of the far side that holds the last byte of the word before. -/
def Copy.joins (c : Copy) (n : Nat) : Bool :=
  decide (8 * n < c.elems * c.esize) &&
  match (if n = 0 then none else c.farByteAt (8 * n - 1)), c.farByteAt (8 * n) with
  | some d, some e => decide (e = d + 1) && decide ((c.farOff + e) % 8 ≠ 0)
  | _, _ => false

/-- The least and the greatest displacement of the pattern, the latter with its element's bytes (09 R266). -/
def Copy.span (c : Copy) : Int × Int :=
  (List.range 4).foldl (fun b i =>
    let d := ((c.count i : Int) - 1) * c.stride i
    if d < 0 then (b.1 + d, b.2) else (b.1, b.2 + d)) (0, c.esize)

/-! ### Binding -/

/-- SBIND's issue faults (09 R266): the descriptor lies in scratchpad, 64-byte aligned. -/
def sbindFaults (e : Env) (s : State) : Option Flt :=
  if fldN e.a 30 34 ≠ 0 ∨ fldN e.a 0 6 ≠ 0 then some fltProt else s.shortFault e.p (s.jobOf e.p e.c) e.a 64 .load

/-- SBIND (09 R266). -/
def execSbind (f : RForm) (s : State) : Out := issue (viewR 0xE0 f) (portEffect .sbind modOf sbindFaults) s
/-- SFREE (09 R269): never faults. -/
def execSfree (f : RForm) (s : State) : Out := issue (viewR 0xC9 f) (portEffect .sfree modOf noFault) s
where noFault (_ : Env) (_ : State) : Option Flt := none
/-- SCANCEL (09 R277): never faults. -/
def execScancel (f : RForm) (s : State) : Out := issue (viewR 0xE1 f) (portEffect .scancel modOf noFault) s
where noFault (_ : Env) (_ : State) : Option Flt := none

/-- The copy that a descriptor describes, before it is bound. -/
def copyOf (desc : List Word) (p : Nat) (job : Option Nat) : Copy :=
  { desc := desc, job := job, proc := p, farScratch := false, far := 0, notices := 0, next := 0, total := 0, active := [],
    fired := 0, firedV := 0, idx := [], issued := 0, reqs := [], sent := 0, placed := 0, whole := 0, stopping := none, broken := false, status := 0 }

/-- Bytes of the ring stream, when it is whole: T of 09 R266, times RIN. -/
def Copy.streamBytes (c : Copy) : Nat := c.elems * c.esize * c.rout

/-- A descriptor that 09 R266 refuses with BOUNDS. -/
def Copy.malformed (c : Copy) : Bool :=
  fldN (c.dw 1) 40 2 != 0 || fldN (c.dw 1) 0 16 != 0 || fldN (c.dw 2) 30 10 != 0 || c.comp == 3 ||
  decide (fldN (c.dw 1) 46 3 > 4) || (!c.isStore && (fldN (c.dw 1) 46 3 != 0 || c.cntv != 0)) || c.size == 0 ||
  (List.range 4).any (fun i => c.count i == 0) || c.ring % 64 != 0 ||
  decide (c.ring % 2 ^ 22 + c.slots * c.size > 2 ^ 22) ||
  (if c.via = 0 then fldN (c.dw 1) 16 16 != 0 else fldN (c.dw 1) 24 8 == 0 || fldN (c.dw 1) 16 8 == 0) ||
  c.streamBytes % (c.rin * c.size) != 0 || c.streamBytes % (8 * c.rin) != 0 ||
  (c.comp != 0 && decide (c.streamBytes / c.rin > c.slots * c.size)) ||
  (c.tile && (c.ring % 4096 != 0 || c.size % 4096 != 0))

/-- A counter of a cluster. -/
def State.cnt (s : State) (cl j : Nat) : Cnt := (s.cluster cl).cnt.get Cnt.reset j
/-- Writes a counter of a cluster. -/
def State.setCnt (s : State) (cl j : Nat) (x : Cnt) : State :=
  s.modCluster cl fun C => { C with cnt := C.cnt.set Cnt.reset j x }

/-- The far side of SBIND: scratchpad of a cluster, or an object (09 R266; 07 R214). -/
def State.sbindFar (s : State) (p : Nat) (job : Option Nat) (a : Word) : Except Flt Loc :=
  if aSlot a ≠ 0 then s.resolve p job a 1
  else if aCheck a ≠ 0 ∨ aOff a / 2 ^ 30 ≠ 0 then .error fltBounds
  else match s.scratchFault p job (aOff a) 1 .atomic with
    | some f => .error f
    | none => .ok (.scratch (aOff a))

/-- SBIND's checks of a descriptor, in its order, with the far side resolved (09 R266). `o` is the object that the far side
lies in: its size, and whether it is OPEN. -/
def State.sbindCheck (s : State) (p : Nat) (job : Option Nat) (c : Copy) (l : Loc) (o : Nat × Bool) : Except Flt Copy :=
  let scratch := match l with | .scratch _ => true | _ => false
  let far := match l with | .scratch a => a | .wide w => w | _ => 0
  let off : Int := if scratch then ((far % 2 ^ 22 : Nat) : Int) else (wnOff far : Int)
  let size := if scratch then 2 ^ 22 else o.1
  let lo := off + c.span.1
  let hi := off + c.span.2
  if c.indexed = false ∧ (lo < 0 ∨ hi > size) then .error fltBounds
  else if c.indexed = false ∧ scratch = true ∧ hi > syncBase then
    .error (if c.isStore then fltSyncWrite else fltProt)
  else if c.isStore && !scratch && !o.2 then .error fltProt
  else if s.clusterOk p job (c.ring / 2 ^ 22) = false then .error fltProt
  else if c.comp = 0 ∧ ((s.cnt (c.ring / 2 ^ 22) c.cnt).copy.isSome ∨
      (c.isStore = true ∧ (s.cnt (c.ring / 2 ^ 22) c.cntv).copy.isSome)) then .error fltProt
  else .ok { c with farScratch := scratch, far := far, total := c.streamBytes / c.rin / c.size }

/-- A live copy. -/
def Copy.live (c : Copy) : Bool := c.status == 0
/-- A record of a copy is still held by it (15 R399). -/
def State.copyStalled (s : State) (id : Nat) : Bool :=
  (List.range 3).any fun st => s.eventHeld (id / 128) (put 0x10 56 ||| put st 48 ||| put id 32) 32
/-- An entry that can take a new copy: its copy has ended, and neither a request nor a record of it is left. -/
def State.entryFree (s : State) (id : Nat) (c : Option Copy) : Bool :=
  match c with | some c => !c.live && c.reqs.isEmpty && !s.copyStalled id | none => true

/-- Binds a counter to copy `id` (09 R266, 10 R298). A store copy whose CNT and CNTV name one counter has it for VISIBLE alone
(log entry 84). -/
def State.bindCnt (s : State) (cl j id words : Nat) (visible : Bool) : State :=
  s.setCnt cl j { s.cnt cl j with words := put words 0, count := 0, next := 0, copy := some id, visible := visible }

/-- The copy `c` takes the lowest free entry of its tile (log entry 84); a full tile makes SBIND wait (09 R266). -/
def State.sbindEnter (s : State) (d : Nat) (c : Copy) : Served :=
  match ((List.range 8).map (8 * c.agt + ·)).find? fun k => s.entryFree (128 * d + k) ((s.die d).copies.get none k) with
  | none => .wait s
  | some k =>
    let id := 128 * d + k
    let c := { c with notices := if c.isStore then 0 else BitVec.ofNat 256 (2 ^ c.slots - 1) }
    let cl := c.ring / 2 ^ 22
    let s1 := s.modDie d fun D => { D with copies := D.copies.set none k (some c) }
    let s2 := if c.comp = 0 then
        (let t := s1.bindCnt cl c.cnt id c.words false
         if c.isStore then t.bindCnt cl c.cntv id c.words true else t)
      else s1
    .word s2 (put id 0)

/-- The home of another node's object is asked for its size and state: the query's word comes with the request's data, one past
whole lines of a descriptor (22 R547). -/
def State.sbindAsk (s : State) (p : Nat) (r : Req) (w : Nat) : Served :=
  match s.toPeer p { r with wide := w } (wnNode w) 10 0 0 [] with
  | .park s1 q => .park s1 { q with wide := r.wide }
  | .fail s1 f q => .fail s1 { f with op2 := wnLo w } { q with wide := r.wide }
  | x => x

/-- SBIND (09 R266). -/
def serveSbind : Server := fun p r s => s.viaDesc p r r.a 8 fun desc r s =>
  let c := copyOf desc p r.job
  let go (l : Loc) (o : Nat × Bool) : Served :=
    match s.sbindCheck p r.job c l o with
    | .error f => .fail s f r
    | .ok c => s.sbindEnter (dieOf p) c
  if c.malformed then .fail s fltBounds r
  else if c.ring % 2 ^ 22 + c.slots * c.size > syncBase then .fail s (if c.isStore then fltProt else fltSyncWrite) r
  else match s.sbindFar p r.job (c.dw 0) with
    | .error f => .fail s f r
    | .ok (.wide w) =>
      let o := s.obj (wnSerial w)
      if s.ownNode (wnNode w) then go (.wide w) (o.size, o.st == .opened)
      else if r.data.length % 8 = 1 then
        let x := r.data.getD (r.data.length - 1) 0
        go (.wide w) (objSizeOf x, fldN x 0 3 == 0)
      else s.sbindAsk p r w
    | .ok l => go l (0, true)

/-- The copy of an identifier. -/
def State.copy (s : State) (id : Nat) : Option Copy := (s.die (id / 128)).copies.get none (id % 128)
/-- Changes the copy of an identifier. -/
def State.modCopy (s : State) (id : Nat) (f : Copy → Copy) : State :=
  s.modDie (id / 128) fun D => { D with copies := D.copies.set none (id % 128) ((D.copies.get none (id % 128)).map f) }

/-- An earlier notice of the context to the same copy still waits (09 R269). -/
def earlierNotice (P : Proc) (r : Req) : Bool :=
  P.reqs.any fun x => x.kind == .sfree && x.ctx == r.ctx && decide (x.rid < r.rid) && fldN x.a 0 10 == fldN r.a 0 10

/-- SFREE (09 R269). -/
def serveSfree : Server := fun p r s =>
  let id := fldN r.a 0 10
  let b := fldN r.b 0 8
  if earlierNotice (s.proc p) r then .wait s
  else match s.copy id with
    | none => .ack s
    | some c =>
      if c.live = false ∨ c.job ≠ r.job ∨ c.tile = true ∨ c.slots ≤ b then .ack s
      else .ack (s.modCopy id fun c => { c with notices := c.notices ||| (1#256 <<< b) })

/-! ### Positions -/

/-- The frames of a slot of a TILE-mode ring (09 R271). -/
def Copy.slotFrames (c : Copy) (p : Nat) : List Nat :=
  (List.range (c.size / 4096)).map fun i => (c.ring % 2 ^ 22 + p % c.slots * c.size) / 4096 + i

/-- Sets the tile tags of a slot. -/
def State.tagSlot (s : State) (c : Copy) (p : Nat) (t : BitVec 2) : State :=
  s.modCluster (c.ring / 2 ^ 22) fun C => (c.slotFrames p).foldl (fun C f => C.setTile f t) C

/-- The region whose context bound a copy. -/
def State.copyRegion (s : State) (c : Copy) : Option Region := s.regionOf c.proc

/-- No cut is in progress in the region of a copy, which may then issue requests, take what a subgraph returns, and end
(16 R432). -/
def State.copyFlows (s : State) (c : Copy) : Bool := match s.copyRegion c with | none => true | some R => R.cut.isNone

/-- A copy may begin a position: its region is not frozen and records no cut (15 R418, 16 R432). -/
def State.copyMoves (s : State) (c : Copy) : Bool :=
  match s.copyRegion c with
  | none => true
  | some R => R.st != .frozen && R.cut.isNone

/-- COPY_POSITION_BEGIN (09 R268, R271): with its notice or tags. The line requests of the position need the leave of the tile's
throttle as they are made. -/
def execCopyPositionBegin (d k : Nat) (s : State) : Out :=
  let id := 128 * d + k
  match s.copy id with
  | none => .next s
  | some c =>
    let p := c.next
    let C := s.cluster (c.ring / 2 ^ 22)
    let need : BitVec 2 := if c.isStore then 2 else 0
    let ready := if c.tile then (c.slotFrames p).all fun f => C.tile f == need
      else c.notices.getLsbD (p % c.slots) &&
        !(c.active.any fun x => x.p % c.slots == p % c.slots && x.done.length != c.words)
    if c.live && c.stopping.isNone && c.heldReqs.isEmpty && decide (p < c.total) && ready && s.copyMoves c &&
        !s.copyStalled id then
      let s1 := if c.tile then s.tagSlot c p (if c.isStore then 3 else 1) else s
      .next (s1.modCopy id fun c =>
        { c with next := p + 1
                 active := c.active ++ [{ p := p, done := [], vis := [], fired := false, firedV := false }] })
    else .next s

/-- A position all of whose ring words are written or read: its notice is consumed, its tags move on, and a load copy has
completed it (09 R268, R271, R272). -/
def State.posDone (s : State) (id : Nat) (c : Copy) (p : Nat) : State :=
  let s1 := if c.tile then s.tagSlot c p (if c.isStore then 0 else 2) else s
  s1.modCopy id fun c => { c with notices := c.notices &&& ~~~(1#256 <<< (p % c.slots))
                                  whole := if c.isStore then c.whole else c.whole + 1 }

/-- Counts ring word `w` of position `p`: the word is written, or read (09 R272, R273). -/
def State.ringDone (s : State) (id p w : Nat) : State :=
  let s1 := s.modCopy id fun c =>
    { c with active := c.active.map fun x => if x.p = p then { x with done := x.done ++ [w] } else x }
  match s1.copy id with
  | none => s1
  | some c => if c.active.any fun x => x.p == p && x.done.length == c.words then s1.posDone id c p else s1

/-- Far word `n` comes from the ring words of position `p`. -/
def Copy.needs (c : Copy) (p n : Nat) : Bool := decide (c.farLow p ≤ n) && decide (n < c.due (p + 1))
/-- A position of a store copy has reached its VISIBLE point: every far word of it is complete at SCOPE (09 R272). -/
def Copy.shown (c : Copy) (x : CopyPos) : Bool := x.vis.length == c.due (x.p + 1) - c.farLow x.p

/-- Counts far word `n` of a store copy as complete at SCOPE (09 R272, R273). -/
def State.farDone (s : State) (id n : Nat) : State :=
  s.modCopy id fun c =>
    let act := c.active.map fun x => if c.needs x.p n && !x.vis.contains n then { x with vis := x.vis ++ [n] } else x
    { c with active := act, whole := c.whole + ((c.active.zip act).countP fun y => !c.shown y.1 && c.shown y.2) }

/-! ### Requests -/

/-- Index tokens at a tile's index port enter the list of the copy that is served (log entry 84); markers and CTRL tokens are
discarded (09 R264, 10 R280). -/
def State.takeIndex (s : State) (id : Nat) : State :=
  let port := InPort.tile (id / 128) (id % 128 / 8) 0
  match frontOf (s.inAt port).q with
  | none => s
  | some t =>
    if t.kind = .permit then s
    else
      let s1 := s.modInAt port fun c => { c with q := c.q.tail }
      if t.kind = .data then s1.modCopy id fun c => { c with idx := c.idx ++ [fldN t.payload 0 32] } else s1

/-- Fabric address of word `w` of position `p` of the ring. -/
def Copy.ringAddr (c : Copy) (p w : Nat) : Nat := c.ring + p % c.slots * c.size + 8 * w

/-- The first byte of `len` bytes of the far side from displacement `d` on, by fabric or wide address, or a fault
(09 R275). -/
def Copy.farByte (c : Copy) (d : Int) (len : Nat) : Except Flt Nat :=
  let off := c.farOff + d
  if off < 0 then .error fltBounds
  else if c.farScratch then
    (if off + len > 2 ^ 22 then .error fltBounds
     else if off + len > syncBase then .error (if c.isStore then fltSyncWrite else fltProt)
     else .ok (c.far / 2 ^ 22 * 2 ^ 22 + off.toNat))
  else .ok (c.far / 2 ^ 56 * 2 ^ 56 + off.toNat % 2 ^ 56)

/-- How one performance of a request goes: bytes read or written, waiting, asked of a peer, waiting for a promotion, a fault, or
an uncorrectable error of scratchpad at a fabric address. -/
inductive ElemStep where
  | got (s : State) (bs : List Byte)
  | wait (s : State)
  | sent (s : State)
  | miss (s : State) (page : Nat)
  | bad (s : State) (f : Flt)
  | ecc (a : Nat)

/-- A request of a store copy writes all 64 bytes of a line of the far side (19 R479). -/
def Copy.wholeLine (c : Copy) (q : CopyReq) : Bool :=
  c.isStore && q.len == 8 && match c.farByteAt (8 * q.n) with
    | some d => decide ((c.farOff + d) % 64 = 0) && (List.range 64).all fun i => c.farByteAt (8 * q.n + i) == some (d + (i : Int))
    | none => false

/-- `len` bytes at far byte `a` are read, or written with `bs`, `whole` when the request writes the whole line, which then verifies
again (09 R264, R275; 19 R479; 22 R515). The copy was in flight to its object
since its bind (09 R267). Request `n` of copy `id` is request 2 × `n` of requester 8,192 + `id` for a peer's answer. -/
def State.copyElem (s : State) (id : Nat) (c : Copy) (n a len : Nat) (bs : List Byte) (whole : Bool) : ElemStep :=
  let acc : Acc := if c.isStore then .store else .load
  if c.farScratch then
    if c.isStore = false ∧ s.sbad a len = true then .ecc a
    else match s.closeFor a len with
      | none => .wait s
      | some s1 => if c.isStore then .got (s1.swrite a bs) bs else .got s1 (s1.mread a len)
  else
    let d := id / 128
    match s.translate d c.job a len acc true with
    | .error f => .bad s { f with op2 := wnLo a }
    | .ok (s1, .miss g) => .miss (s1.missAt g d (some (c.job.getD 0))) g
    | .ok (s1, .remote m) =>
      if s1.domainOk d c.job m = false then .bad s1 { fltDomain with op2 := wnLo a }
      else if s1.mayPacket m = false then .wait s1
      else
        let x := s1.sendRequest m (if c.isStore then 1 else 0) 0 len (a % 2 ^ 120) (s1.dtag d (c.job.getD 0))
          (if c.isStore then [wordOf bs] else [])
        .sent { x.2 with fabric := { x.2.fabric with remote := x.2.fabric.remote ++ [(x.1, m, 8192 + id, 2 * n)] } }
    | .ok (s1, .hbm) =>
      if s1.hbmBusy a len then .wait s1
      else if whole = false ∧ s1.hbmBad a len = true then
        let x := s1.onBad a len
        if x.2 then .wait x.1 else .bad x.1 { fltIntegrity with op2 := wnLo a }
      else match s1.closeFor (wideKey a) len with
        | none => .wait s1
        | some s2 =>
          if c.isStore then .got (if whole = true ∧ len = 8 ∧ a % 8 = 0 then s2.hwriteLine a bs else s2.hwrite a bs) bs
          else .got (s2.useHbm a len) (s2.mread (wideKey a) len)

/-- The far address of a displacement, as a short address (09 R275). -/
def Copy.farShort (c : Copy) (d : Int) : Word :=
  (c.dw 0 &&& 0xFFFFFFFF00000000) ||| put (((aOff (c.dw 0) : Int) + d).toNat % 2 ^ 32) 0

/-- The target word of a copy (16 R423). -/
def State.copyTarget (s : State) (id : Nat) (c : Copy) : Word :=
  put 2 61 ||| put (id / 128) 58 ||| put (((s.proc c.proc).region.getD 0) % 64) 52 ||| put id 0

/-- The completion of a copy with COMP 1 or 2 (09 R274): status 0 done, 1 cancelled, 2 fault held. -/
def State.copyReport (s : State) (id : Nat) (c : Copy) (status : Nat) : State :=
  if c.comp = 1 then
    s.postEvent (id / 128) c.core (put 0x10 56 ||| put status 48 ||| put id 32 ||| put (min c.whole (2 ^ 32 - 1)) 0) (c.dw 7) 0
  else if c.comp = 2 then s.postEl c.proc 0 status c.core (id * 2 ^ 32 + fldN (c.dw 7) 0 32)
  else s

/-- Changes request `n` of a copy. -/
def State.modReq (s : State) (id n : Nat) (f : CopyReq → CopyReq) : State :=
  s.modCopy id fun c => { c with reqs := c.reqs.map fun q => if q.n = n then f q else q }

/-- Words of a position counted so far, and its slot, as operand 1 of a copy's fault gives them: the count's low 16 bits
(09 R275; log entry 84). `n` is a far word of the position. -/
def Copy.posWord (c : Copy) (n : Nat) : Word :=
  match c.active.find? fun x => c.needs x.p n with
  | some x => put ((if c.isStore && c.via != 0 then x.vis.length else x.done.length) % 2 ^ 16) 16 ||| put (x.p % c.slots) 0
  | none => 0

/-- A request of a copy is held by a fault (09 R275). The first request held posts the copy's one record, which freezes nothing by
itself (16 R424), and its report. A copy that SCANCEL stops discards the request instead (09 R277). -/
def State.holdCopy (s : State) (id : Nat) (c : Copy) (q : CopyReq) (f : Flt) : State :=
  if c.stopping.isSome then s.modCopy id fun c => { c with reqs := c.reqs.filter fun x => x.n != q.n }
  else
    let s1 := s.modReq id q.n fun q => { q with phase := .held f.code }
    if c.heldReqs.isEmpty then
      (s1.raiseOther (id / 128) f (c.job.getD 0) false (s.copyTarget id c) true 0).copyReport id c 2
    else s1

/-- A path fault of a copy (09 R275): the far address of the request held, and the position. -/
def State.copyFault (s : State) (id : Nat) (c : Copy) (q : CopyReq) (d : Int) (f : Flt) : State :=
  s.holdCopy id c q { f with op0 := some (c.farShort d), op1 := some (c.posWord q.n) }

/-- An uncorrectable error of scratchpad that a copy meets (09 R250): its request is held as by any fault, the record names the
cluster and the offset, and the region is frozen by R250 itself (DESIGN CHOICE, log entry 110: 16 R424 has a copy's fault freeze
nothing). -/
def State.copyEcc (s : State) (id : Nat) (c : Copy) (q : CopyReq) (a : Nat) : State :=
  let s1 := s.holdCopy id c q { fltIntegrity with op0 := some (put a 0), op1 := some (c.posWord q.n) }
  match (s.proc c.proc).region with
  | none => s1
  | some g => if isCore c.proc then s1 else s1.modRegion (dieOf c.proc) g fun R => { R with st := if R.st = .running then .frozen else R.st }

/-- The coalescer of tile `g` of die `d`. -/
def State.coalAt (s : State) (d g : Nat) : Coal := (s.die d).coal.get { ctrl := 0, status := 0, line := none } g
/-- Writes a coalescer. -/
def State.setCoal (s : State) (d g : Nat) (x : Coal) : State :=
  s.modDie d fun D => { D with coal := D.coal.set { ctrl := 0, status := 0, line := none } g x }

/-- A coalescer takes note of a line request (10 R300): one that differs from the line in hand issues that line. -/
def State.coalesce (s : State) (d g line : Nat) : State :=
  let x := s.coalAt d g
  if bitOf x.ctrl 0 = false then s
  else
    let st := match x.line with
      | some l => if l.1 = line then x.status else put (satInc 32 (fldN x.status 0 32)) 0
      | none => x.status
    s.setCoal d g { x with status := st, line := some (line, s.cycle) }

/-- Asks for a line of the far side: a line that differs from the one the request asked for last is an item of the tile's
throttle, unless the coalescer has it in hand (10 R300, 15 R412). None: not admitted. -/
def State.askLine (s : State) (id : Nat) (q : CopyReq) (line : Nat) : Option State :=
  let d := id / 128
  let g := id % 128 / 8
  if q.line = some line then some s
  else
    let x := s.coalAt d g
    let merged := bitOf x.ctrl 0 && (match x.line with | some l => l.1 == line | none => false)
    (if merged then some s else s.throttle d g (1056 + g)).map fun s1 =>
      (s1.coalesce d g line).modReq id q.n fun q => { q with line := some line }

/-- Bytes read or written for request `q`: it goes on, and the words of a store copy written whole are complete at every
scope (09 R272). -/
def State.farGot (s : State) (id : Nat) (c : Copy) (q : CopyReq) (bs : List Byte) : State :=
  let m := q.got.length
  let s1 := s.modReq id q.n fun q => { q with got := q.got ++ bs, phase := .going }
  if c.isStore then
    ((List.range q.len).filter fun i => decide (m < 8 * (i + 1)) && decide (8 * (i + 1) ≤ m + bs.length)).foldl
      (fun s i => s.farDone id (q.n + i)) s1
  else s1

/-- Bytes of the next request that one performance of request `q`, up to its last byte, takes along, since they lie in the same
aligned word of the far side: none waits for that request to have read them (20 R490). -/
def Copy.joined (c : Copy) (q : CopyReq) (mayIssue : Bool) : Option (Option (CopyReq × Nat)) :=
  let m := q.n + q.len
  if c.isStore = false ∨ c.via ≠ 0 ∨ c.joins m = false then some none
  else match c.reqs.find? fun x => x.n == m with
    | none => if mayIssue ∧ m < c.due c.next then none else some none
    | some x =>
      if x.isHeld ∨ x.got ≠ [] then some none
      else if x.out.length < 8 * x.len then none
      else match c.farByteAt (8 * m) with
        | none => some none
        | some d => some (some (x, c.run (8 * m) (min x.out.length (c.elems * c.esize - 8 * m)) d))

/-- One performance of request `q` at the far side, of `lim` bytes at most (09 R275, 20 R490). What a far stream lacks of its
last word is a free value for a load copy (log entry 84). -/
def State.farStep (s : State) (id : Nat) (c : Copy) (q : CopyReq) (lim : Nat) (mayIssue : Bool) : State :=
  let b := 8 * q.n + q.got.length
  let left := c.elems * c.esize - b
  if left = 0 then
    let x := s.choose
    x.2.farGot id c q ((List.range lim).map fun i => Config.freeByte (8 * x.1 + i))
  else match c.farByteAt b with
    | none => s
    | some d =>
      let n := c.run b (min lim left) d
      match c.farByte d n with
      | .error f => s.copyFault id c q d f
      | .ok a =>
        match (if n = lim then c.joined q mayIssue else some none), s.askLine id q ((if c.farScratch then a else wideKey a) / 64) with
        | none, _ => s
        | _, none => s
        | some j, some s1 =>
          let bs := (q.out.drop q.got.length).take n
          let alone := s1.copyElem id c q.n a n bs (c.wholeLine q)
          match (match j, alone with
            | some x, .got _ _ => (match s1.copyElem id c q.n a (n + x.2) (bs ++ x.1.out.take x.2) false with
              | .got s2 cs => .got ((s2.farGot id c q (cs.take n)).farGot id c x.1 (cs.drop n)) []
              | _ => alone)
            | _, .got s2 cs => .got (s2.farGot id c q cs) []
            | _, y => y : ElemStep) with
          | .got s2 _ => s2
          | .wait s2 => s2
          | .miss s2 g => s2.modReq id q.n fun q => { q with phase := .missing g }
          | .sent s2 => s2.modReq id q.n fun q => { q with phase := .sent (pageOf a) }
          | .bad s1 f => s1.copyFault id c q d f
          | .ecc a => s1.copyEcc id c q a

/-- The first fault that the bytes of far word `n` meet, with its displacement. -/
def State.wordFault (s : State) (id : Nat) (c : Copy) (n : Nat) : Option (Int × Flt) :=
  (List.range (min 8 (c.elems * c.esize - 8 * n))).foldl (fun o j => match o with
    | some x => some x
    | none => match c.farByteAt (8 * n + j) with
      | none => none
      | some d => match c.farByte d 1 with
        | .error f => some (d, f)
        | .ok a =>
          if c.farScratch then none
          else match s.translate (id / 128) c.job a 1 .store true with
            | .error f => some (d, { f with op2 := wnLo a })
            | .ok _ => none) none

/-- Every byte of far word `n` lies outside the extent of SCOPE, so that the word is complete there at once (07 R226). -/
def State.outside (s : State) (c : Copy) (n : Nat) : Bool :=
  (List.range (min 8 (c.elems * c.esize - 8 * n))).all fun j => match c.farByteAt (8 * n + j) with
    | none => false
    | some d => match c.farByte d 1 with
      | .error _ => false
      | .ok a => !s.inExtent c.proc c.scope (some (if c.farScratch then .scratch a else .wide a))

/-- The bytes of a ring word, or the address of an uncorrectable error among them (09 R250). -/
def State.ringWord (s : State) (c : Copy) (p w : Nat) : Except Nat (List Byte) :=
  let a := c.ringAddr p w
  if s.sbad a 8 then .error a else .ok (s.mread a 8)

/-- The words of request `q` that are still to be read from the ring: all of them before the first. -/
def CopyReq.unread (q : CopyReq) : List Nat := (List.range q.len).drop (q.out.length / 8)

/-- The first uncorrectable error among the ring words that request `q` is still to read (09 R250). -/
def State.ringFault (s : State) (c : Copy) (q : CopyReq) : Option Nat :=
  q.unread.findSome? fun i => match s.ringWord c ((q.n + i) / c.words) ((q.n + i) % c.words) with | .error a => some a | .ok _ => none

/-- A store copy reads the next ring word of request `q`, once none of the words still to be read meets a fault on either side: the
words of a held request are not counted (09 R275; log entry 84). -/
def State.readRing (s : State) (id : Nat) (c : Copy) (q : CopyReq) : State :=
  let n := q.n + q.out.length / 8
  match q.unread.findSome? (fun i => s.wordFault id c (q.n + i)), s.ringFault c q with
  | some x, _ => s.copyFault id c q x.1 x.2
  | none, some a => s.copyEcc id c q a
  | none, none => match s.ringWord c (n / c.words) (n % c.words) with
    | .error _ => s
    | .ok bs =>
      let s1 := (s.modReq id q.n fun q => { q with out := q.out ++ bs }).ringDone id (n / c.words) (n % c.words)
      if s.outside c n then s1.farDone id n else s1

/-! ### Subgraphs -/

/-- The cluster, router and mesh port of outer port `n` of a die (14 R389). -/
def outerPort (d n : Nat) : Nat × Nat × Nat :=
  let at' (row col port : Nat) : Nat × Nat × Nat := (32 * d + row / 4 * 8 + col / 4, row % 4 * 4 + col % 4, port)
  if n < 16 then at' n 0 0 else if n < 32 then at' (n - 16) 31 2 else if n < 64 then at' 0 (n - 32) 3 else at' 15 (n - 64) 1

/-- The router input where a tile's output enters the mesh (09 R265; log entry 10). -/
def tileEntry (d g : Nat) : Nat × Nat × Nat := outerPort d ((tilePorts d).getD g 0)

/-- Sends a word into a copy's subgraph under its route tag, as a token that enters the router there (09 R265, 10 R304): none
while the mesh input is full. -/
def State.sendVia (s : State) (id : Nat) (c : Copy) (w : Word) : Option State :=
  let t := tileEntry (id / 128) (id % 128 / 8)
  if (vget (s.router t.1 t.2.1).inq t.2.2).length < 2 then
    some ((s.enterRouter t.1 t.2.1 t.2.2 { route := c.via, tok := dataTok 0 w, sender := none, ent := none, saved := [] }).modCopy id
      fun c => { c with sent := c.sent + 1 })
  else none

/-- A tile's output port takes its head token: a DATA token is a word that a subgraph has returned (09 R265). -/
def State.popVia (s : State) (id : Nat) : State :=
  s.modInAt (.tile (id / 128) (id % 128 / 8) 1) fun c => { c with q := c.q.tail }

/-- The word that a subgraph has returned to a tile, to whichever copy is served (log entry 84), or the state without a marker
or CTRL token there, which is discarded (10 R280). -/
def State.viaHead (s : State) (id : Nat) : Option Word × State :=
  match frontOf (s.inAt (.tile (id / 128) (id % 128 / 8) 1)).q with
  | none => (none, s)
  | some t => if t.kind = .data then (some t.payload, s) else if t.kind = .permit then (none, s) else (none, s.popVia id)

/-- Writes a word of a load copy into the ring, once no window holds an update of it. -/
def State.ringWrite (s : State) (id : Nat) (c : Copy) (p w : Nat) (bs : List Byte) : Option State :=
  (s.closeFor (c.ringAddr p w) 8).map fun s1 => (s1.swrite (c.ringAddr p w) bs).ringDone id p w

/-- Words that a subgraph may have returned by now: one side's share of every group that the other has begun (09 R265). -/
def Copy.mayReturn (c : Copy) : Nat :=
  let i := if c.isStore then c.rout else c.rin
  let o := if c.isStore then c.rin else c.rout
  (c.sent + i - 1) / i * o
/-- A word more than the declared ratio has come back: it belongs to no place, and the copy stays incomplete (09 R265, log entry
24). -/
def State.breakRatio (s : State) (id : Nat) : State := (s.popVia id).modCopy id fun c => { c with broken := true }

/-- A load copy places the word that its subgraph returned, in stream order, in a position it has begun (09 R265). -/
def State.placeReturned (s : State) (id : Nat) (c : Copy) : State :=
  let p := c.placed / c.words
  let y := s.viaHead id
  match y.1 with
  | none => y.2
  | some v =>
    if c.broken ∨ c.mayReturn ≤ c.placed then s.breakRatio id
    else if c.active.any (fun x => x.p == p) then
      match s.ringWrite id c p (c.placed % c.words) (bytesOf 8 v) with
      | none => s
      | some s1 => (s1.popVia id).modCopy id fun c => { c with placed := c.placed + 1 }
    else s

/-- A store copy makes a request of the word that its subgraph returned, for the next word of the far stream; else its next ring
word enters the subgraph (09 R265, log entry 24). -/
def State.stepViaStore (s : State) (id : Nat) (c : Copy) : State :=
  let y := s.viaHead id
  match y.1 with
  | some v =>
    let n := c.placed
    if c.broken ∨ c.mayReturn ≤ n then s.breakRatio id
    else if c.known n = false then s.takeIndex id
    else if n < c.farWords then
      let q : CopyReq := { n := n, len := 1, got := [], out := bytesOf 8 v, put := 0, line := none, phase := .going }
      let s1 := (s.popVia id).modCopy id fun c => { c with placed := n + 1, issued := n + 1, reqs := c.reqs ++ [q] }
      if s.outside c n then s1.farDone id n else s1
    else s
  | none =>
    let p := c.sent / c.words
    if c.active.any (fun x => x.p == p) then
      match s.ringWord c p (c.sent % c.words) with
      | .error a =>
        let q : CopyReq := { n := c.issued, len := 0, got := [], out := [], put := 0, line := none, phase := .going }
        (y.2.modCopy id fun c => { c with reqs := c.reqs ++ [q] }).copyEcc id c q a
      | .ok bs => match y.2.sendVia id c (wordOf bs) with
        | none => y.2
        | some s1 => s1.ringDone id p (c.sent % c.words)
    else y.2

/-- No earlier request is left, so the words of `q` are next in stream order; SCANCEL may have discarded some before
(09 R265, R277). -/
def Copy.inOrder (c : Copy) (q : CopyReq) : Bool := c.reqs.all fun x => decide (q.n ≤ x.n)

/-- A load copy places the next word that request `q` has read: in the ring, or in its subgraph in stream order. -/
def State.placeRing (s : State) (id : Nat) (c : Copy) (q : CopyReq) : State :=
  let n := q.n + q.put
  let bs := (q.got.drop (8 * q.put)).take 8
  let o := if c.via = 0 then s.ringWrite id c (n / c.words) (n % c.words) bs
    else if c.inOrder q then s.sendVia id c (wordOf bs) else none
  match o with
  | none => s
  | some s1 => s1.modReq id q.n fun q => { q with put := q.put + 1 }

/-! ### Serving -/

/-- Nothing of a request is left to do. -/
def CopyReq.ended (store : Bool) (q : CopyReq) : Bool :=
  if store then decide (8 * q.len ≤ q.got.length) else decide (q.len ≤ q.put)

/-- A copy may issue requests and take what a subgraph returns: it is live, not stopped, holds no request, and its region is neither
frozen nor in a cut (09 R275, R277; 15 R418; 16 R432; 21 R507). -/
def State.mayIssue (s : State) (c : Copy) : Bool := c.live && c.stopping.isNone && c.heldReqs.isEmpty && s.copyMoves c

/-- The first bytes of request `q` go with the last of the one before, which has still to be performed (20 R490). -/
def Copy.follows (c : Copy) (q : CopyReq) : Bool :=
  c.isStore && c.via == 0 && q.got.isEmpty && c.joins q.n && c.reqs.any fun x => x.n + x.len == q.n && !x.isHeld && x.phase == .going

/-- One performance of request `q` of a copy (09 R275, 20 R490). A held request's words are neither written nor counted, so all of
them are in hand before the first is written. -/
def State.stepReq (s : State) (id : Nat) (c : Copy) (q : CopyReq) : State :=
  if c.isStore then
    if q.out.length < 8 * q.len then s.readRing id c q
    else if c.follows q then s
    else if q.got.length < q.out.length then s.farStep id c q (q.out.length - q.got.length) (s.mayIssue c)
    else s
  else if q.got.length < 8 * q.len then s.farStep id c q (8 * q.len - q.got.length) false
  else s.placeRing id c q

/-- Serves request `q`, unless it is held or a peer has still to answer it; an ended one leaves. -/
def State.serveReq (s : State) (id : Nat) (c : Copy) (q : CopyReq) : State :=
  match q.phase with
  | .held _ => s
  | .sent _ => s
  | _ => (s.stepReq id c q).modCopy id fun c =>
      { c with reqs := c.reqs.filter fun x => !(x.n == q.n && x.ended c.isStore && x.phase == .going) }

/-- Issues the next request of a copy: the words of its begun positions from the first not yet asked for, to the end of its line
of the far stream at most, as far as their index tokens have come; while the first's has not, it is taken (09 R264, R268). -/
def State.issueReq (s : State) (id : Nat) (c : Copy) : State :=
  let n := c.issued
  let len := ((List.range (min (8 - n % 8) (c.due c.next - n))).takeWhile fun i => c.known (n + i)).length
  let q : CopyReq := { n := n, len := len, got := [], out := [], put := 0, line := none, phase := .going }
  if len = 0 then s.takeIndex id
  else s.modCopy id fun c => { c with issued := n + len, reqs := c.reqs ++ [q] }

/-- Serves a copy at word `w` of position `p`, as words of the far stream are numbered (09 R265, R268-R275): a request that holds
the word goes on; else the next request is issued, or a word comes from or enters the subgraph. A copy that still holds a record
stalls (15 R399). -/
def State.serveCopy (s : State) (d k p w : Nat) : State :=
  let id := 128 * d + k
  match s.copy id with
  | none => s
  | some c =>
    let n := p * c.words + w
    if s.copyStalled id then s
    else match c.reqs.find? fun q => decide (q.n ≤ n) && decide (n < q.n + max 1 q.len) with
      | some q => s.serveReq id c q
      | none =>
        if s.mayIssue c = false then s
        else if c.isStore && c.via != 0 then s.stepViaStore id c
        else if n = c.issued ∧ n < c.due c.next then s.issueReq id c
        else if c.via = 0 then s
        else s.placeReturned id c

/-- COALESCE_ISSUE (10 R300): a partly gathered line is issued after WAIT cycles without a new request. -/
def execCoalesceIssue (d g : Nat) (s : State) : Out :=
  let x := s.coalAt d g
  match x.line with
  | none => .next s
  | some l =>
    if l.2 + fldN x.ctrl 8 8 ≤ s.cycle then
      .next (s.setCoal d g { x with status := put (satInc 32 (fldN x.status 0 32)) 0, line := none })
    else .next s

/-! ### Counters -/

/-- Operator number of counter `j` of a cluster (10 R301). -/
def cntOp (j : Nat) : Nat := 18 + j

/-- The token of a counter's firing (09 R273). -/
def fireTok (unb : Bool) (id pos : Nat) (last : Bool) (slot : Nat) : Token :=
  dataTok 0 (put (if unb then 1 else 0) 58 ||| put (id % 1024) 48 ||| put (pos % 2 ^ 32) 16 ||| put (if last then 1 else 0) 8 |||
    put (slot % 256) 0)

/-- The region of an operator is frozen. -/
def State.opFrozen (s : State) (cl k : Nat) : Bool :=
  match s.regionOfOp cl k with
  | none => false
  | some g => (s.region (cl / 32) g).st == .frozen

/-- A counter fires as `f` says, and with SYNCEN adds 1 to a sync word of the cluster (10 R299): it waits for a window that holds
the word, and an uncorrectable error of the word freezes its region instead (09 R250). -/
def State.cntFire (s : State) (cl j : Nat) (x : Cnt) (f : State → State) : State :=
  if bitOf x.ctrl 2 = false then f s
  else
    let a := syncAddr cl (fldN x.ctrl 4 9)
    if s.sbad a 8 then (if s.opFrozen cl (cntOp j) then s else s.operEcc cl (cntOp j) a)
    else match s.closeFor a 8 with
      | none => s
      | some s1 => f (s1.syncWrite a (s1.mword a + 1))

/-- Releases a counter from its copy. -/
def State.freeCnt (s : State) (cl j : Nat) : State :=
  s.setCnt cl j { s.cnt cl j with copy := none, visible := false, count := 0 }

/-- The position that a bound counter fires next is whole: CNT counts ring words, CNTV far words complete at SCOPE
(09 R273). -/
def Cnt.whole (x : Cnt) (c : Copy) : Bool :=
  let n := if x.visible then c.firedV else c.fired
  c.active.any fun y => y.p == n && (if x.visible then c.shown y else y.done.length == c.words)

/-- A bound counter fires the oldest position counted, or ends its route with a marker and is released: at the end of the copy,
or once a stopped copy has no request in flight (09 R273, R277; 10 R299). -/
def State.fireBound (s : State) (cl j id : Nat) (x : Cnt) (c : Copy) : State :=
  let n := if x.visible then c.firedV else c.fired
  if x.whole c then
    s.cntFire cl j x fun s =>
      let t := fireTok false id n (n + 1 == c.total) (n % c.slots)
      let s1 := (s.modOpOut cl (cntOp j) 0 fun q => q ++ [.tok t]).setCnt cl j { x with next := n + 1 }
      s1.modCopy id fun c =>
        let act := c.active.map fun y => if y.p = n then
          (if x.visible then { y with firedV := true } else { y with fired := true }) else y
        { c with firedV := if x.visible then n + 1 else c.firedV
                 fired := if x.visible then c.fired else n + 1
                 active := act.filter fun y => !(y.fired && (y.firedV || !c.isStore)) }
  else if n = c.total ∨ (c.stopping.isSome = true ∧ c.reqs.isEmpty = true) then
    (s.modOpOut cl (cntOp j) 0 fun q => enqueue q (endTok (if n = c.total then 3 else 7))).freeCnt cl j
  else s

/-- An unbound counter counts a DATA token of its in0, passes an end marker on, or fires (10 R298, R299). COUNT is no partly formed
result, so an abort marker leaves it (10 R280; log entry 126). -/
def State.stepUnbound (s : State) (cl j : Nat) (x : Cnt) : State :=
  let words := Nat.max 1 x.words.toNat
  let port := InPort.oper cl (cntOp j) 0
  let room := decide ((s.opOut cl (cntOp j) 0).length < outDepth)
  if words ≤ x.count then
    if room then
      s.cntFire cl j x fun s =>
        (s.modOpOut cl (cntOp j) 0 fun q => q ++ [.tok (fireTok true 0 x.next false (x.next % 256))]).setCnt cl j
          { x with count := 0, next := (x.next + 1) % 2 ^ 32 }
    else s
  else match frontOf (s.inAt port).q with
    | none => s
    | some t =>
      let s1 := s.modInAt port fun c => { c with q := c.q.tail }
      if t.kind = .data then s1.setCnt cl j { x with count := x.count + 1 }
      else if t.kind = .ctrl then s1
      else if t.isEnd then
        (if room || mergeable (s.opOut cl (cntOp j) 0) t then s1.modOpOut cl (cntOp j) 0 fun q => enqueue q t else s)
      else s

/-- An operator's region lets it take tokens (15 R418, 16 R430). -/
def State.opLive (s : State) (cl k : Nat) : Bool :=
  match s.regionOfOp cl k with
  | none => true
  | some g =>
    let R := s.region (cl / 32) g
    R.st != .frozen && (match R.cut with | none => true | some c => !c.recorded.contains (opUnit cl k))

/-- A cut of its region has recorded an operator, which then stands still (16 R430). -/
def State.opRecorded (s : State) (cl k : Nat) : Bool :=
  match s.regionOfOp cl k with
  | none => false
  | some g => match (s.region (cl / 32) g).cut with | none => false | some c => c.recorded.contains (opUnit cl k)

/-- COUNTER_FIRE (09 R273, 10 R299). A counter that a cut has recorded stands still, unless its copy ends by a SCANCEL whose response
the cut awaits (16 R432). -/
def execCounterFire (cl j : Nat) (s : State) : Out :=
  let x := s.cnt cl j
  match x.copy with
  | some id =>
    match s.copy id with
    | none => .next s
    | some c =>
      if (s.opOut cl (cntOp j) 0).length < outDepth ∧ (s.opRecorded cl (cntOp j) = false ∨ c.stopping.isSome = true) then
        .next (s.fireBound cl j id x c)
      else .next s
  | none => .next (if bitOf x.ctrl 0 && s.opLive cl (cntOp j) then s.stepUnbound cl j x else s)

/-! ### The end of a copy -/

/-- Counters still bound to a copy. -/
def State.boundCnts (s : State) (id : Nat) : Bool :=
  s.clusters.any fun e => e.2.cnt.any fun x => x.2.copy == some id

/-- A request for SCANCEL of this copy is answered (09 R277). -/
def State.answerStop (s : State) (c : Copy) : State :=
  match c.stopping with
  | none => s
  | some (p, rid) =>
    match (s.proc p).parked.find? fun r => r.rid == rid with
    | none => s
    | some r => finishServed p r (.word s (put c.whole 16))

/-- COPY_END (09 R274, R277): every position is complete, or the copy was stopped and has no request in flight, and its counters
are released. While a cut of its region is in progress only a stopped copy ends, whose response the cut awaits (16 R432). The entry
remembers the copy until it is used again (log entry 84). -/
def execCopyEnd (d k : Nat) (s : State) : Out :=
  let id := 128 * d + k
  match s.copy id with
  | none => .next s
  | some c =>
    let stopped := c.stopping.isSome && c.reqs.isEmpty
    if c.live = false ∨ s.boundCnts id = true ∨ ((c.whole ≠ c.total ∨ c.broken) ∧ stopped = false) ∨ (s.copyFlows c = false ∧ stopped = false) ∨
        s.copyStalled id = true then .next s
    else
      let s1 := (s.copyReport id c (if c.stopping.isSome then 1 else 0)).answerStop c
      .next (s1.modCopy id fun c => { c with status := if c.stopping.isSome then 2 else 1, active := [] })

/-- A copy stops for a unit's request: no new request is issued, and the held ones are discarded (09 R277). -/
def Copy.stop (c : Copy) (p rid : Nat) : Copy :=
  { c with stopping := some (p, rid), reqs := c.reqs.filter fun q => !q.isHeld }

/-- SCANCEL (09 R277): a live copy stops; the answer comes when it has ended. -/
def serveScancel : Server := fun p r s =>
  let id := fldN r.a 0 10
  match s.copy id with
  | none => .word s (put 2 0)
  | some c =>
    if c.job ≠ r.job then .word s (put 2 0)
    else if c.live = false then .word s (put c.whole 16 ||| put 1 0)
    else if c.stopping.isSome then .wait s
    else .park (s.modCopy id fun c => c.stop p r.rid) { r with stage := 3 }

end Sys2Proof.Machine
end

