-- ==== Sys2Proof/Machine/Element.lean ====
section
/-! DEFINITION. The element's own instructions and events (06): time and sleep, special registers, traps and traces, channel
moves, permits, the task lane, and arrivals. -/

namespace Sys2Proof.Machine

/-! ### Special registers -/

/-- TLHEAD (06 R187). -/
def tlheadWord (P : Proc) (c : Nat) : Word :=
  match P.tlHead c with
  | none => 0
  | some k => put k.2.task.toNat 48 ||| put k.2.taint.toNat 44 ||| put k.2.sel.toNat 29 ||| put k.1 26 |||
      put (if k.2.len2 then 1 else 0) 25 ||| put 1 24

/-- A handler is ready: its lane holds a packet and its owner runs (06 R185). -/
def laneReady (P : Proc) (h : Nat) : Bool :=
  !(vget P.lanes h).isEmpty && (P.ctx (vget P.owners h).toNat).rstate == .run

/-- TLREADY (06 R192). -/
def tlreadyWord (P : Proc) : Word :=
  (List.range 8).foldl
    (fun w h => w ||| put (if laneReady P h then 1 else 0) h ||| put (vget P.lanes h).length (4 * h + 11))
    (put P.ptr.toNat 8)

/-- PERMITS (06 R192). -/
def permitsWord (P : Proc) : Word :=
  (P.hold.zipIdx).foldl
    (fun w e => w ||| put (2 ^ 15 + (if e.1.taint then 2 ^ 12 else 0) + e.1.key.toNat) (16 * e.2)) 0

/-- The code of a token kind (06 R171). -/
def kindCode : Kind → Nat
  | .data => 0
  | .mark => 1
  | .permit => 2
  | .ctrl => 3

/-- CHSTAT of an input channel (06 R193). -/
def chstatWord (c : InChan) : Word :=
  put c.drank.toNat 10 ||| put c.q.length 0 |||
  (match c.head with
    | none => 0
    | some t => put 1 9 ||| put t.tag.toNat 6 ||| put (kindCode t.kind) 4)

/-- TRACECTL (06 R193). -/
def tracectlWord (t : TraceCtl) : Word :=
  put t.lost.toNat 32 ||| put t.core.toNat 2 ||| put (if t.drop then 1 else 0) 1 ||| put (if t.en then 1 else 0) 0

/-- IDENT (06 R193; on a control core 15 R394). -/
def identWord (P : Proc) (p c : Nat) : Word :=
  if isCore p then put 1 14 ||| put c 12 ||| put (p - 4096) 0
  else put ((P.region.getD 0) % 64) 18 ||| put c 12 ||| put p 0

/-- SpecialRead (06 R192; on a control core 15 R394, R397). -/
def State.specialRead (s : State) (p c n : Nat) : Word :=
  let P := s.proc p
  let C := P.ctx c
  let core := isCore p
  if n = 0 then C.fpmode.zeroExtend 64
  else if n = 1 then C.fpflags.zeroExtend 64
  else if n = 2 then C.patience.zeroExtend 64
  else if n = 3 then C.deadline
  else if n = 4 then identWord P p c
  else if n = 5 then (if core then 0 else tlheadWord P c)
  else if n = 6 then (if core then 0 else tlreadyWord P)
  else if n = 7 then (if core then 0 else permitsWord P)
  else if n < 12 then (if core then 0 else chstatWord (vget P.ins (n - 8)))
  else if n < 16 then (if core then 0 else (vget P.ins (n - 12)).conf.zeroExtend 64)
  else if n < 20 then (if core then 0 else put ((vget P.outs (n - 16)).length % 4) 0)
  else if n = 20 then tracectlWord P.trace
  else if n = 21 then
    (if core then C.ctxjob.zeroExtend 64
     else put 1 8 ||| put ((s.jobOf p c).getD 0) 0)
  else 0

/-- SpecialWrite (06 R192; writable fields only). -/
def State.specialWrite (s0 : State) (p c n : Nat) (a : Word) : State :=
  let s := s0.mendSite p c (sprSite n)
  if n = 0 then s.modCtx p c fun C => { C with fpmode := a.setWidth 3 }
  else if n = 1 then s.modCtx p c fun C => { C with fpflags := a.setWidth 5 }
  else if n = 2 then s.modCtx p c fun C => { C with patience := a.setWidth 8 }
  else if n = 20 then s.modProc p fun P =>
    { P with trace := { lost := fld a 32 32, core := fld a 2 2, drop := bitOf a 1, en := bitOf a 0 } }
  else if n = 21 ∧ isCore p = true then s.modCtx p c fun C => { C with ctxjob := a.setWidth 9 }
  else s

/-! ### Instructions -/

/-- The deadline of SLEEPU (06 R197): relative to `now`, saturating, or absolute. -/
def sleepDeadline (rel : Bool) (now a : Word) : Word :=
  if rel then BitVec.ofNat 64 (min (now.toNat + a.toNat) (2 ^ 64 - 1)) else a

/-- SLEEPU (06 R197-R198). -/
def execSleepu (f : RForm) (s : State) : Out :=
  issue (viewR 0x45 f) (fun e s =>
    let v := s.view e.p
    let d := sleepDeadline (e.v.mod.getLsbD 0) v.1 e.a
    .ok ((v.2.mendSite e.p e.c (sprSite 3)).modCtx e.p e.c fun C =>
      { C with deadline := d, rstate := if v.1.ult d then .sleep else C.rstate }, .none)) s

/-- TIME (06 R197). -/
def execTime (f : RForm) (s : State) : Out :=
  issue (viewR 0x46 f) (fun e s => let v := s.view e.p; .ok (v.2, .val v.1)) s

/-- SPR (06 R197). -/
def execSpr (f : IForm) (s : State) : Out :=
  issue (viewI 0x47 f) (pureRes fun e => .val (e.pre.specialRead e.p e.c e.v.imm.toNat)) s

/-- SPW (06 R197). -/
def execSpw (f : IForm) (s : State) : Out :=
  issue (viewI 0x48 f) (fun e s => .ok (s.specialWrite e.p e.c e.v.imm.toNat e.a, .none)) s

/-- TRAP (06 R197): takes SW_TRAP, with Src(SA) in OP0 and the sign-extended code in OP1. -/
def execTrap (f : IForm) (s : State) : Out :=
  issue (viewI 0x49 f) (fun _ _ => .error { code := 19 }) s

/-- BRKPT (06 R197): takes BREAKPOINT with cause "instruction". -/
def execBrkpt (f : RForm) (s : State) : Out :=
  issue (viewR 0x4A f) (fun _ _ => .error { code := 18, cause := 0 }) s

/-- A trace record (06 R203). -/
def traceRecord (view : Word) (e : Env) (slot : Nat) : List Word :=
  let who := if isCore e.p then put (e.p - 4096) 44 ||| put 1 32 ||| put (e.C.pc.toNat % 2 ^ 18) 14
    else put e.p 44 ||| put (slot % 32) 37
  [view, put 0x20 56 ||| who ||| put e.c 42 ||| put e.v.mod.toNat 33, e.a, e.b]

/-- TRACE (06 R203). -/
def execTrace (f : RForm) (s : State) : Out :=
  issue (viewR 0x4B f) (fun e s =>
    let P := s.proc e.p
    if P.trace.en = false then .ok (s, .none)
    else if P.traceBuf.isSome then
      .ok (s.modProc e.p fun P =>
        { P with trace := { P.trace with lost := BitVec.ofNat 32 (satInc 32 P.trace.lost.toNat) } }, .none)
    else
      let v := s.view e.p
      .ok (v.2.modProc e.p fun P => { P with traceBuf := some (traceRecord v.1 e s.cur.slot) }, .none)) s

/-- FWD (06 R197): the head moves with kind, tag and payload; a permit moves only with its dequeue (06 R179). -/
def execFwd (f : RForm) (s : State) : Out :=
  issue (viewR 0x90 f) (fun e s =>
    match e.pre.headOf e.p e.c e.v.trig.cha.toNat with
    | none => .ok (s, .none)
    | some t =>
      if t.kind = .permit ∧ e.v.dq.getLsbD 3 = false then .error fltProt
      else .ok (s.modOut e.p (e.v.dst.toNat - 16) fun q => enqueue q t, .none)) s

/-- EMIT (06 R197): an end marker of the rank of MOD. -/
def execEmit (f : RForm) (s : State) : Out :=
  issue (viewR 0x91 f) (fun e s =>
    .ok (s.modOut e.p (e.v.dst.toNat - 16) fun q => enqueue q (endTok e.v.mod.toNat), .none)) s

/-- DROP (06 R197, R199). -/
def execDrop (f : RForm) (s : State) : Out :=
  issue (viewR 0x92 f) (fun e s =>
    .ok (s.modIn e.p e.v.sb.toNat fun c => { c with drank := e.v.mod.setWidth 3 }, .none)) s

/-- PEEK (06 R197-R198): payload, or tag + 8 × kind, of the token at a position of the channel. -/
def execPeek (f : RForm) (s : State) : Out :=
  issue (viewR 0x93 f) (pureRes fun e =>
    match (vget (e.pre.proc e.p).ins e.v.trig.cha.toNat).q[e.v.mod.toNat % 4]? with
    | some (.tok t) => .val (if e.v.mod.getLsbD 2 then put (t.tag.toNat + 8 * kindCode t.kind) 0 else t.payload)
    | _ => .val 0) s

/-- The PERMIT token of a held permit (06 R172). -/
def permitTok (k : Permit) : Token :=
  { kind := .permit, tag := 0, payload := put (if k.taint then 1 else 0) 12 ||| put k.key.toNat 0 }

/-- PGIVE (06 R197): only a key that the hold set holds, after this issue's dequeues. -/
def execPgive (f : RForm) (s : State) : Out :=
  issue (viewR 0x94 f) (fun e s =>
    if fldN e.a 12 52 ≠ 0 then .error fltKeyRange
    else
      match (s.proc e.p).hold.find? fun k => k.key.toNat == fldN e.a 0 12 with
      | none => .error fltProt
      | some k =>
        .ok ((s.modProc e.p fun P => { P with hold := P.hold.erase k }).modOut e.p (e.v.dst.toNat - 16)
          fun q => enqueue q (permitTok k), .none)) s

/-- The bits of CHCONF that a write keeps (06 R173). -/
def chconfBits (a : Word) : BitVec 19 := a.setWidth 19 &&& 0x703FF

/-- CHCFG (06 R176, R197). -/
def execChcfg (f : RForm) (s : State) : Out :=
  issue (viewR 0x95 f) (fun e s =>
    .ok (s.modIn e.p e.v.sb.toNat fun c => { c with conf := chconfBits e.a }, .none)) s

/-- HNDBIND refuses (06 R200): another valid entry names the handler with another context, or its lane holds packets of
another owner. -/
def hndRefused (P : Proc) (a : Word) : Bool :=
  let ctx : BitVec 2 := fld a 12 2
  let h : BitVec 3 := fld a 8 3
  let sel := fldN a 0 7
  bitOf a 15 &&
    ((P.sels.any fun e => e.1 != sel && e.2.v && e.2.handler == h && e.2.ctx != ctx) ||
     (!(vget P.lanes h.toNat).isEmpty && vget P.owners h.toNat != ctx))

/-- HNDBIND's write (06 R181-R182, R200). -/
def hndWrite (P : Proc) (a : Word) : Proc :=
  let ctx : BitVec 2 := fld a 12 2
  let h : BitVec 3 := fld a 8 3
  { P with
    sels := P.sels.set Sel.reset (fldN a 0 7) { v := bitOf a 15, ctx := ctx, handler := h }
    owners := if bitOf a 15 then vset P.owners h.toNat ctx else P.owners }

/-- HNDBIND (06 R200): 0 when it writes the entry, 1 when it refuses. -/
def execHndbind (f : RForm) (s : State) : Out :=
  issue (viewR 0x97 f) (fun e s =>
    if hndRefused (s.proc e.p) e.a then .ok (s, .val 1)
    else .ok (s.modProc e.p fun P => hndWrite P e.a, .val 0)) s

/-- Send (06 R197): the destination must stand in a region of the issuer's job. -/
def sendTask (e : Env) (s : State) (len2 : Bool) (w0 w1 : Word) : Except Flt (State × Res) :=
  let dst := fldN e.b 0 12
  match s.jobOf e.p e.c, s.regionOf dst with
  | some j, some R =>
    if R.job ≠ j then .error fltProt
    else
      let k : NetPkt := { src := e.p, dst := dst, job := j,
                          pkt := { sel := fld e.b 16 7, len2 := len2, w0 := w0, w1 := w1, task := 0xFFFF, taint := 0 } }
      .ok (s.modProc e.p fun P => { P with taskOut := P.taskOut ++ [k] }, .none)
  | _, _ => .error fltProt

/-- TSEND (06 R197, R201). -/
def execTsend (f : RForm) (s : State) : Out :=
  issue (viewR 0xA0 f) (fun e s => sendTask e s false e.a 0) s

/-- TSEND2 (06 R197, R201). -/
def execTsend2 (f : RForm) (s : State) : Out :=
  issue (viewR 0xA1 f) (fun e s => sendTask e s true e.a e.a2) s

/-- TDONE (06 R197, R201-R202): Complete waits for the context's earlier accesses at die scope. -/
def execTdone (f : RForm) (s : State) : Out :=
  issue (viewR 0xA2 f) (fun e s =>
    match (s.proc e.p).openTasks.find? fun o => o.task.toNat == fldN e.a 0 16 with
    | none => .error fltProt
    | some o =>
      let s1 := s.modProc e.p fun P => { P with openTasks := P.openTasks.erase o }
      if o.cancelled then .ok (s1, .none)
      else
        let k : Completing := { proc := e.p, ctx := e.c, before := s.fresh, job := (s.jobOf e.p e.c).getD 0,
                                task := o.task.toNat }
        .ok (s1.modDie (dieOf e.p) fun D => { D with completing := D.completing ++ [k] }, .none)) s

/-! ### Issues that stop before their effect -/

/-- The operands of the word in hand, whatever it is (16 R422). -/
def State.curEnv (s : State) : Env :=
  let v := viewOf s.cur.word
  s.env ((shapeOf v).getD blankShape) v

/-- The fault of a word that fails the decode check in its place (02 R70-R71). -/
def State.illegalFault (s : State) (core : Bool) : State :=
  let r := check core s.cur.word
  if r = 0 then s
  else
    let e := s.curEnv
    s.takeFault .issue e.p e.c s.cur.slot s.cur.word (Flt.withOps { code := if r = 4 then 2 else 1 } e)

/-- ILLEGAL_SLOT_ISSUE (02 R71): the slot chosen holds a word that fails the check; the instruction has no effect. A word that
holds an uncorrectable error takes INTEGRITY (06 R207). -/
def execIllegalSlotIssue (s : State) : Out :=
  .next (if check false s.cur.word ≠ 0 ∧ s.slotBad = true then s.takeEcc s.curEnv else s.illegalFault false)

/-- BRK_SLOT_BIT (06 R204): the slot chosen has its BRK bit set; BREAKPOINT with cause "slot bit", before any effect. -/
def execBrkSlotBit (s : State) : Out :=
  let e := s.curEnv
  .next (s.takeFault .brk e.p e.c s.cur.slot s.cur.word (Flt.withOps { code := 18, cause := 1 } e))

/-- CORE_FETCH_FAULT (02 R70, 15 R398): a PC past the end of local memory, or a word that fails the check at fetch. -/
def execCoreFetchFault (s : State) : Out :=
  let p := s.cur.proc
  let c := s.cur.ctx.toNat
  let pc := (s.ctx p c).pc
  if pc.toNat > 0x3FFF8 then
    .next (s.takeFault .fetch p c (pc.toNat % 2 ^ 18) 0
      { code := 5, op0 := some (pc.zeroExtend 64), op1 := some 0 })
  else .next (s.illegalFault true)

/-! ### Events -/

/-- RESULT_DELIVERY (04 R108-R110, R115): result `k` of context `c` of unit `p`, once its latency has passed in cycles of the
unit's clock (00 R3). -/
def execResultDelivery (p c k : Nat) (s : State) : Out :=
  match (s.ctx p c).outst[k]? with
  | none => .next s
  | some o => .next (if o.due ≤ s.unitCycle p then s.deliverLate p c o else s)

/-- The acceptance of a token by a channel (06 R112, R168, R177): none when the channel refuses it. -/
def InChan.accept (c : InChan) (t : Token) : Option InChan :=
  if mergeable c.q t || c.q.length < inDepth then some { c with q := enqueue c.q t, link := none } else none

/-- A token is steered (06 R173-R175): its tag's ACCEPT bit is clear and STEER is 1. -/
def InChan.steers (c : InChan) (t : Token) : Bool :=
  t.kind == .data && c.conf.getLsbD 9 && !c.conf.getLsbD t.tag.toNat

/-- Diverts the token on a port's link to the converter its configuration names, leaving a reservation (06 R174). The converter's
in0 takes it when it has room (10 R279). -/
def State.steer (s : State) (port : InPort) (cl : Nat) (t : Token) : State :=
  let c := s.inAt port
  let j := if c.conf.getLsbD 8 then 1 else 0
  if c.q.length < inDepth ∧ ((s.cluster cl).cvt.get Cvt.reset j).steerQ.length < inDepth then
    let i := s.freshId
    let s1 := i.2.modInAt port fun c => { c with q := c.q ++ [.resv i.1], link := none }
    let x : SteerTok := { tok := t, port := port, id := i.1, cbslot := (c.conf.extractLsb' 16 3).toNat }
    s1.modCluster cl fun C =>
      let v := C.cvt.get Cvt.reset j
      { C with cvt := C.cvt.set Cvt.reset j { v with steerQ := v.steerQ ++ [x] } }
  else s

/-- A token at an input is caught by the cut of its region: it stands on its link until its record is performed (16 R431). -/
def State.catchTok (s : State) (port : InPort) : State :=
  let r := s.portRegion port
  match r.2 with
  | none => s
  | some g => s.modRegion r.1 g fun R =>
      { R with cut := R.cut.map fun k => { k with standing := if k.standing.contains port then k.standing else k.standing ++ [port] } }

/-- A lent permit reaches the free link of its channel (13 R376). -/
def State.feedLend (s : State) (port : InPort) : State :=
  match port with
  | .elem e ch =>
    match (s.die (dieOf e)).lends.find? fun x => x.1 == e && x.2.1 == ch % 4 with
    | none => s
    | some x =>
      if (s.inAt port).link.isSome then s
      else (s.modDie (dieOf e) fun D => { D with lends := D.lends.erase x }).modInAt port fun c =>
        { c with link := some x.2.2, linkSrc := none }
  | _ => s

/-- A token at an input enters the channel, merges, is steered, or is refused and stays on the link (06 R112, R168, R174,
R177). An operator discards a CTRL token that reaches one of its inputs (10 R280). -/
def State.admitTok (s : State) (port : InPort) (t : Token) : State :=
  let c := s.inAt port
  let plain : State := match c.accept t with | some c' => s.modInAt port fun _ => c' | none => s
  let gone : State := s.modInAt port fun c => { c with link := none }
  match port with
  | .elem e _ => if c.steers t then s.steer port (e / 16) t else plain
  | .oper cl k _ =>
    if t.kind = .ctrl then gone
    else if c.steers t && opKind k != (4, k - 14) then s.steer port cl t else plain
  | .tile _ _ _ => if t.kind = .ctrl then gone else plain

/-- An item of a resumed or restored region waits to enter ahead of any other arrival (16 R433, R442). -/
def State.entersFirst (s : State) (d : Nat) (g : Option Nat) (f : Caught → Bool) : Bool :=
  match g with
  | none => false
  | some g => (s.region d g).entering.any f

/-- A waiting item is a token for this input. -/
def Caught.tokenFor (port : InPort) : Caught → Bool
  | .token q _ => q == port
  | _ => false

/-- A waiting item is a packet or an event for this element. -/
def Caught.itemFor (e : Nat) : Caught → Bool
  | .packet f _ => f == e
  | .event f _ => f == e
  | _ => false

/-- TOKEN_ARRIVAL (06 R112, R168, R174, R177; 16 R431, R433): the token on the link of an input enters its channel, merges, is
steered, is caught by a cut, or is refused and stays. Cut markers are another event. -/
def execTokenArrival (port : InPort) (s0 : State) : Out :=
  let s := s0.feedLend port
  match (s.inAt port).link with
  | none => .next s
  | some t =>
    let r := s.portRegion port
    let recorded := match s.portCut port with
      | none => none
      | some k => if k.recorded.contains (portUnit port) then some k else none
    if t.isCut then .next s
    else match recorded with
      | some k => .next (if k.internal.contains port && !k.markersIn.contains port then s.catchTok port else s)
      | none => .next (if s.entersFirst r.1 r.2 (Caught.tokenFor port) then s else s.admitTok port t)

/-- A cut has recorded unit `p`, and it is not over (16 R430). -/
def State.unitHeld (s : State) (p : Nat) : Bool :=
  match s.regionOf p with
  | none => false
  | some R => match R.cut with
    | none => false
    | some k => k.recorded.contains p

/-- DISCARD_HEAD (06 R199): the head of a channel in discard mode is removed, or ends the mode. -/
def execDiscardHead (e ch : Nat) (s : State) : Out :=
  let c := vget (s.proc e).ins ch
  if c.drank = 0 ∨ s.unitHeld e = true then .next s
  else match frontOf c.q with
    | none => .next s
    | some t =>
      if t.kind = .data ∨ (t.isEnd = true ∧ markRank t.payload < c.drank.toNat) then
        .next (s.modIn e ch fun c => { c with q := c.q.tail })
      else if t.isEnd then .next (s.modIn e ch fun c => { c with drank := 0 })
      else .next s

/-- The task and event lanes of an element take an arrival: no cut has recorded it (16 R431), and no item of its image waits
(16 R433). -/
def State.laneOpen (s : State) (e : Nat) : Bool :=
  !s.unitHeld e && !s.entersFirst (dieOf e) (s.proc e).region (Caught.itemFor e)

/-- The lane of the handler that a packet's selector binds takes it (06 R183). -/
def Proc.takesPacket (P : Proc) (k : TaskPkt) : Bool :=
  let x := P.sels.get Sel.reset k.sel.toNat
  x.v && decide ((vget P.lanes x.handler.toNat).length < 4)

/-- TASK_PACKET_ARRIVAL (06 R183): packet `k` of the task network of the element's die enters its handler lane, or is refused.
Packets of one sender to one element stay in order (06 R201). -/
def execTaskPacketArrival (e k : Nat) (s : State) : Out :=
  let d := dieOf e
  match (s.die d).net[k]? with
  | none => .next s
  | some n =>
    let behind := ((s.die d).net.take k).any fun m => m.src == n.src && m.dst == n.dst
    let x := (s.proc e).sels.get Sel.reset n.pkt.sel.toNat
    if n.dst = e ∧ behind = false ∧ (s.proc e).takesPacket n.pkt = true ∧ s.laneOpen e = true then
      .next ((s.modDie d fun D => { D with net := D.net.eraseIdx k }).modProc e fun P =>
        { P with lanes := vset P.lanes x.handler.toNat (vget P.lanes x.handler.toNat ++ [n.pkt]) })
    else .next s

/-- The first ready handler from PTR on (06 R185). -/
def firstReady (P : Proc) : Option (Fin 8) :=
  ((List.range 8).map fun i => Fin.ofNat 8 (P.ptr.toNat + i)).find? fun h => laneReady P h.val

/-- TL_HEAD_CHOICE (06 R185). -/
def execTlHeadChoice (e : Nat) (s : State) : Out :=
  let P := s.proc e
  if s.unitHeld e then .next s
  else match P.head with
  | some h =>
    if (P.ctx (vget P.owners h.val).toNat).rstate = .run then .next s
    else .next (s.modProc e fun P => { P with head := none })
  | none =>
    match firstReady P with
    | none => .next s
    | some h => .next (s.modProc e fun P => { P with head := some h, ptr := BitVec.ofNat 3 (h.val + 1) })

/-- The target of a packet refuses it, or an earlier one of its sender on the way there, so that the sender holds it (06 R168,
R183; log entry 44). -/
def State.packetHeld (s : State) (n : NetPkt) : Bool :=
  !(s.proc n.dst).takesPacket n.pkt ||
    (s.die (dieOf n.dst)).net.any fun m => m.src == n.src && m.dst == n.dst && !(s.proc n.dst).takesPacket m.pkt

/-- TASK_INJECT (06 R183, R201, 15 R412): the oldest packet of a task-out queue enters the task network when its target takes it and
the throttle of the unit's die admits it. -/
def execTaskInject (p : Nat) (s : State) : Out :=
  match (s.proc p).taskOut with
  | [] => .next s
  | n :: rest =>
    match (if s.unitHeld p || s.packetHeld n then none else s.throttle (dieOf p) 16 1072) with
    | none => .next s
    | some s1 => .next ((s1.modProc p fun P => { P with taskOut := rest }).modDie (dieOf n.dst) fun D =>
        { D with net := D.net ++ [n] })

/-- A sleeping context whose DEADLINE holds an uncorrectable error: it wakes and takes INTEGRITY, as a fault of no instruction
(06 R207, DESIGN CHOICE of log entry 108). -/
def State.badDeadline (s : State) (p c : Nat) : State :=
  let i := (s.modCtx p c fun C => { C with rstate := .run }).freshId
  i.2.takeFault (.path i.1) p c (if isCore p then (s.ctx p c).pc.toNat else 0) 0 { fltIntegrity with op0 := some 0, op1 := some 0 }

/-- SLEEP_WAKE (06 R191): the view has reached DEADLINE. -/
def execSleepWake (p c : Nat) (s : State) : Out :=
  if (s.ctx p c).rstate ≠ .sleep ∨ s.unitHeld p = true then .next s
  else if (s.proc p).badRegs.contains (16 * c + sprSite 3) then .next (s.badDeadline p c)
  else
    let v := s.view p
    if v.1.ult (s.ctx p c).deadline then .next v.2
    else .next (v.2.modCtx p c fun C => { C with rstate := .run })

/-- TRACE_RECORD_POST (06 R203): the trace buffer's record goes to the event queue of the core that TRACECTL names now (log
entry 122). -/
def execTraceRecordPost (p : Nat) (s : State) : Out :=
  let P := s.proc p
  match P.traceBuf with
  | none => .next s
  | some r =>
    let u := coreUnit (dieOf p) P.trace.core.toNat
    if (s.proc u).evq.length < 1024 then
      .next ((s.modProc p fun P => { P with traceBuf := none }).modProc u fun U => { U with evq := U.evq ++ [r] })
    else .next s

/-- EL_EVENT_POST (06 R167-R168, R189): the oldest held event enters EL when it has room. -/
def execElEventPost (e : Nat) (s : State) : Out :=
  match (s.proc e).elHeld with
  | [] => .next s
  | w :: rest =>
    if (s.proc e).el.length < 4 ∧ s.laneOpen e = true then
      .next (s.modProc e fun P => { P with el := P.el ++ [w], elHeld := rest })
    else .next s

/-- An uncorrectable error of an element that is in no slot word and no register: its region is frozen and INTEGRITY names the
element, in OP0 (06 R207, log entry 15). -/
def State.elementEcc (s : State) (e : Nat) : State :=
  s.freezeBy (dieOf e) (s.proc e).region { fltIntegrity with op0 := some (put e 0) }
    (regionTarget (dieOf e) ((s.proc e).region.getD 0))

/-- The words of a line of a die's stack, as `poison` counts them. -/
def lineWords (n : Nat) : List Nat := (List.range 8).map (8 * n + ·)

/-- ECC_ERROR (06 R207, 09 R250, 10 R281, 19 R479): corrected and logged, or marked where it lies, or the region is
frozen; an edge unit stands in no region. Where a class has no WHERE of its own, WHERE is 0 (log entry 16). -/
def execEccError (site : EccSite) (corrected : Bool) (s : State) : Out :=
  let sev := if corrected then 0 else 1
  match site with
  | .slot e n =>
    let s1 := s.logError (dieOf e) 1 sev e
    .next (if corrected then s1 else s1.modProc e fun P =>
      { P with slots := P.slots.set Slot.reset n { P.slots.get Slot.reset n with bad := true } })
  | .reg p c r =>
    let s1 := s.logError (dieOf p) 1 sev p
    .next (if corrected then s1 else s1.modProc p fun P => { P with badRegs := P.badRegs ++ [16 * c + r] })
  | .element e =>
    let s1 := s.logError (dieOf e) 1 sev e
    .next (if corrected then s1 else s1.elementEcc e)
  | .scratch cl off =>
    let s1 := s.logError (cl / 32) 1 sev (cl * 2 ^ 22 + off)
    .next (if corrected then s1 else s1.modCluster cl fun C => { C with badWords := C.badWords ++ [off / 8 * 8] })
  | .oper cl k =>
    let s1 := s.logError (cl / 32) 1 sev (cl * 2 ^ 22)
    .next (if corrected then s1 else
      s1.freezeBy (cl / 32) (s1.regionOfOp cl k) fltIntegrity
        (put 4 61 ||| put (cl / 32) 58 ||| put ((s1.regionOfOp cl k).getD 0) 52 ||| opAddress cl k))
  | .edge d kind unit =>
    let s1 := s.logError d 1 sev 0
    .next (if corrected then s1 else s1.freezeBy d none fltIntegrity (put 4 61 ||| put d 58 ||| edgeAddress d kind unit))
  | .line d n =>
    .next (if corrected then s.logError d 0 0 n else s.modDie d fun D =>
      { D with poison := D.poison.filter (fun x => x / 8 != n) ++ lineWords n })
  | .block d n =>
    .next (if corrected then s.logError d 2 0 (blockLine n) else s.modDie d fun D =>
      { D with badBlk := D.badBlk.filter (· != n) ++ [n]
               met := D.met.filter fun k => !(pathOf k).contains n })

end Sys2Proof.Machine
end

