-- ==== Sys2Proof/Machine/Operators.lean ====
section
/-! DEFINITION. The stream operators (10 R278-R297): the normaliser, the converter, the sparse-update unit and the reducer,
and CTRLW. An operator accepts tokens while its region lets it (15 R418, 16 R430). -/

namespace Sys2Proof.Machine

/-- CTRLW (10 R305, R309). -/
def execCtrlw (f : RForm) (s : State) : Out :=
  issue (viewR 0x96 f) (fun e s =>
    let t : Token := { kind := .ctrl, tag := 0, payload := e.a &&& 0x7FF }
    .ok (s.modOut e.p (e.v.dst.toNat - 16) fun q => enqueue q t, .none)) s

/-! ### Shared -/

/-- Removes the head of input `i` of operator `k`. -/
def State.popOp (s : State) (cl k i : Nat) : State := s.modInAt (.oper cl k i) fun c => { c with q := c.q.tail }

/-- Output `i` of operator `k` has room for `n` tokens. -/
def State.opRoom (s : State) (cl k i n : Nat) : Bool := decide ((s.opOut cl k i).length + n ≤ outDepth)

/-- Sends tokens on output `i` of operator `k`. -/
def State.opSend (s : State) (cl k i : Nat) (ts : List Token) : State :=
  s.modOpOut cl k i fun q => ts.foldl enqueue q

/-- An end marker can pass on: there is room, or it merges (06 R177). -/
def State.endRoom (s : State) (cl k i : Nat) (t : Token) : Bool := s.opRoom cl k i 1 || mergeable (s.opOut cl k i) t

/-- The abort rank (04 R106). -/
def isAbort (t : Token) : Bool := t.isEnd && markRank t.payload == 7

/-- NX, UF, OF and IV as a status register of an operator holds them (10 R286). -/
def statusFlags (f : BitVec 5) : Word := put (f.toNat % 8) 0 ||| put (if f.getLsbD 4 then 1 else 0) 3

/-- Adds 1 to a saturating field of a status register. -/
def countIn (st : Word) (lo n : Nat) : Word :=
  let m : Word := put (2 ^ n - 1) lo
  (st &&& ~~~m) ||| put (satInc n (fldN st lo n)) lo

/-! ### The normaliser -/

/-- Operator number of normaliser `j`. -/
def nrmOp (j : Nat) : Nat := 12 + j

/-- A normaliser. -/
def State.nrm (s : State) (cl j : Nat) : Nrm := (s.cluster cl).nrm.get Nrm.reset j
/-- Writes a normaliser. -/
def State.setNrm (s : State) (cl j : Nat) (x : Nrm) : State :=
  s.modCluster cl fun C => { C with nrm := C.nrm.set Nrm.reset j x }

/-- The scale of the next result (10 R287). -/
def Nrm.scaleBits (x : Nrm) : Nat :=
  match fldN x.ctrl 1 2 with
  | 1 => fldN x.scale 0 32
  | 2 => (x.table.get 0 x.row.toNat).toNat
  | _ => oneBits

/-- The result of a pair: the FP32 bits, and the normaliser after it (10 R287, 01 R44). -/
def Nrm.result (x : Nrm) (w0 w1 : Word) : Word × Nrm :=
  let r := Machine.normalise (partOf w0 w1) x.scaleBits
  (put r.1 0, { x with w0 := none, row := x.row + 1, status := x.status ||| statusFlags r.2 })

/-- The normaliser after a marker passes: a waiting word 0 is discarded (10 R287). -/
def Nrm.passEnd (x : Nrm) (abort : Bool) : Nrm :=
  let st := if x.w0.isNone then x.status else if abort then countIn x.status 16 16 else x.status ||| put 1 8
  { x with w0 := none, row := 0, status := st }

/-- One DATA token of a normaliser. -/
def State.nrmData (s : State) (cl j : Nat) (t : Token) : State :=
  let k := nrmOp j
  let x := s.nrm cl j
  if t.tag ≠ 6 then (s.popOp cl k 0).setNrm cl j { x with status := x.status ||| put 1 9 }
  else match x.w0 with
    | none => (s.popOp cl k 0).setNrm cl j { x with w0 := some t.payload }
    | some w0 =>
      if s.opRoom cl k 0 1 then
        let r := x.result w0 t.payload
        ((s.popOp cl k 0).setNrm cl j r.2).opSend cl k 0 [dataTok 1 r.1]
      else s

/-- NORMALISE (10 R280, R286, R287): the head of in0 is taken. -/
def execNormalise (cl j : Nat) (s : State) : Out :=
  let k := nrmOp j
  let x := s.nrm cl j
  match (if bitOf x.ctrl 0 && s.opLive cl k then frontOf (s.inAt (.oper cl k 0)).q else none) with
  | none => .next s
  | some t =>
    .next (match t.kind with
      | .data => s.nrmData cl j t
      | .ctrl => s.popOp cl k 0
      | .permit => s
      | .mark =>
        if t.isEnd && s.endRoom cl k 0 t then
          ((s.popOp cl k 0).setNrm cl j (x.passEnd (isAbort t))).opSend cl k 0 [t]
        else s)

/-! ### The converter -/

/-- Operator number of converter `j`. -/
def cvtOp (j : Nat) : Nat := 14 + j

/-- A converter. -/
def State.cvt (s : State) (cl j : Nat) : Cvt := (s.cluster cl).cvt.get Cvt.reset j
/-- Writes a converter. -/
def State.setCvt (s : State) (cl j : Nat) (x : Cvt) : State :=
  s.modCluster cl fun C => { C with cvt := C.cvt.set Cvt.reset j x }

/-- The operation for a token (10 R288, R289): 12-14 act as 15. -/
def Cvt.opFor (x : Cvt) (t : Token) : Nat :=
  let o := fldN x.map (4 * t.tag.toNat) 4
  if 12 ≤ o then 15 else o

/-- One lane rounded to BF16 (10 R289). -/
def toBf (v : FVal) : BitVec 16 × BitVec 5 :=
  let r := bf16.round 0 false v
  (BitVec.ofNat 16 r.1, r.2)

/-- An entry of a codebook slot as decoded (10 R289, 01 R25). -/
def Cvt.entry (x : Cvt) (slot c : Nat) : BitVec 16 :=
  let b := x.codebook.get 0 (16 * (slot % 8) + c)
  if (bf16.value b.toNat).isNan then BitVec.ofNat 16 bf16.nanBits else b

/-- Codes 4g to 4g + 3 of a CB4x16 word as a BF16x4 token. -/
def Cvt.decode (x : Cvt) (slot : Nat) (w : Word) (g : Nat) : Token :=
  dataTok 2 (ofLanes 16 ((List.range 4).map fun i => x.entry slot (fldN w (4 * (4 * g + i)) 4)))

/-- The FP32 value of a BF16 lane, exact, and IV for a signalling NaN (10 R289, 01 R22, R26). -/
def bfLane (w : Word) (i : Nat) : Token × BitVec 5 :=
  let r := fp32.round 0 false (bf16.value (lane 16 w i).toNat)
  (dataTok 1 (put r.1 0), r.2)

/-- INT8 lanes 4g to 4g + 3 sign-extended to INT16x4. -/
def i8Lanes (w : Word) (g : Nat) : Token :=
  dataTok 3 (ofLanes 16 ((List.range 4).map fun i => (lane 8 w (4 * g + i)).signExtend 16))

/-- A converter operation on a token but for F32PK: its tokens and flags (10 R289). -/
def Cvt.apply (x : Cvt) (slot : Nat) (t : Token) : List Token × BitVec 5 :=
  let w := t.payload
  match x.opFor t with
  | 0 => ([t], 0)
  | 1 => ([dataTok 0 w], 0)
  | 2 => let r := toBf (fp32.value (fldN w 0 32)); ([dataTok 2 (r.1.zeroExtend 64)], r.2)
  | 3 => ([(bfLane w 0).1], (bfLane w 0).2)
  | 4 =>
    let rs := (List.range 4).map fun i => toBf (ofInt (lane 16 w i).toInt)
    ([dataTok 2 (ofLanes 16 (rs.map (·.1)))], rs.foldl (fun f r => f ||| r.2) 0)
  | 5 =>
    let rs := (List.range 4).map fun i => ftoi 0 4 (bf16.value (lane 16 w i).toNat)
    ([dataTok 3 (ofLanes 16 (rs.map fun r => BitVec.ofInt 16 r.1))], rs.foldl (fun f r => f ||| r.2) 0)
  | 6 => ([i8Lanes w 0], 0)
  | 7 => ([i8Lanes w 0, i8Lanes w 1], 0)
  | 8 => ([x.decode slot w 0], 0)
  | 9 => ((List.range 4).map (x.decode slot w), 0)
  | 10 => ((List.range 4).map fun i => (bfLane w i).1, (List.range 4).foldl (fun f i => f ||| (bfLane w i).2) 0)
  | _ => ([], 0)

/-- The operation's factor is not 1 (10 R289). -/
def notSingle (op : Nat) : Bool := op == 7 || op == 9 || op == 10 || op == 11

/-- The BF16x4 word of the FP32 values gathered, missing lanes +0 (10 R289, R290). -/
def packGathered (vs : List (BitVec 32)) : Word × BitVec 5 :=
  let rs := vs.map fun v => toBf (fp32.value v.toNat)
  (ofLanes 16 (rs.map (·.1)), rs.foldl (fun f r => f ||| r.2) 0)

/-- A DATA token of the stream path: none when it must wait. -/
def State.cvtData (s : State) (cl j : Nat) (t : Token) : Option State :=
  let k := cvtOp j
  let x := s.cvt cl j
  let take (x : Cvt) : State := (s.popOp cl k 1).setCvt cl j { x with streamTurn := false }
  match x.opFor t with
  | 11 =>
    let vs := x.gathered ++ [t.payload.setWidth 32]
    if vs.length < 4 then some (take { x with gathered := vs })
    else if s.opRoom cl k 0 1 then
      let r := packGathered vs
      some ((take { x with gathered := [], status := x.status ||| statusFlags r.2 }).opSend cl k 0 [dataTok 2 r.1])
    else none
  | 15 => some (take { x with status := countIn x.status 16 32 })
  | _ =>
    if s.opRoom cl k 0 1 then
      let r := x.apply ((s.inAt (.oper cl k 1)).conf.extractLsb' 16 3).toNat t
      some ((take { x with status := x.status ||| statusFlags r.2, pend := r.1.tail }).opSend cl k 0 (r.1.take 1))
    else none

/-- An end marker of the stream path: a partial word goes ahead of it, or is discarded and counted before an abort
(10 R280, R290). -/
def State.cvtMark (s : State) (cl j : Nat) (t : Token) : Option State :=
  let k := cvtOp j
  let x := s.cvt cl j
  if x.gathered ≠ [] then
    if isAbort t then some (s.setCvt cl j { x with gathered := [], status := countIn x.status 16 32 })
    else if s.opRoom cl k 0 1 then
      let r := packGathered x.gathered
      some ((s.setCvt cl j { x with gathered := [], status := x.status ||| statusFlags r.2 }).opSend cl k 0 [dataTok 2 r.1])
    else none
  else if s.endRoom cl k 0 t then
    some (((s.popOp cl k 1).setCvt cl j { x with streamTurn := false }).opSend cl k 0 [t])
  else none

/-- One step of a converter's stream path, when it can take one: further tokens of a result first. -/
def State.cvtStream (s : State) (cl j : Nat) : Option State :=
  let k := cvtOp j
  let x := s.cvt cl j
  match x.pend with
  | t :: rest => if s.opRoom cl k 0 1 then some ((s.setCvt cl j { x with pend := rest }).opSend cl k 0 [t]) else none
  | [] =>
    match frontOf (s.inAt (.oper cl k 1)).q with
    | none => none
    | some t => match t.kind with
      | .data => s.cvtData cl j t
      | .ctrl => some (s.popOp cl k 1)
      | .permit => none
      | .mark => if t.isEnd then s.cvtMark cl j t else none

/-- A converter runs. -/
def State.cvtOn (s : State) (cl j : Nat) : Bool := bitOf (s.cvt cl j).ctrl 0 && s.opLive cl (cvtOp j)

/-- CONVERT (10 R289, R290): the stream path, in turn with the steer service. -/
def execConvert (cl j : Nat) (s : State) : Out :=
  let x := s.cvt cl j
  if s.cvtOn cl j && (x.steerQ.isEmpty || x.streamTurn) then .next ((s.cvtStream cl j).getD s) else .next s

/-- Gives a steered token's result back to the channel that diverted it: its reservation is filled, or given up when the token
is rejected (06 R174, 10 R290). -/
def State.steerBack (s : State) (x : SteerTok) (t : Option Token) : State :=
  s.modInAt x.port fun c => { c with q := match t with
    | some t => fillEntry c.q x.id t
    | none => c.q.filter fun e => e != .resv x.id }

/-- STEER_RESULT (10 R288-R290): the oldest steered token is converted. -/
def execSteerResult (cl j : Nat) (s : State) : Out :=
  let x := s.cvt cl j
  match x.steerQ with
  | [] => .next s
  | y :: rest =>
    if s.cvtOn cl j && (!x.streamTurn || (s.cvtStream cl j).isNone) then
      let x1 : Cvt := { x with steerQ := rest, streamTurn := true }
      let op := x.opFor y.tok
      if notSingle op then
        .next ((s.setCvt cl j { x1 with status := x1.status ||| put 1 8 }).steerBack y (some (dataTok 0 y.tok.payload)))
      else
        let r := x.apply y.cbslot y.tok
        let st := if op = 15 then countIn x1.status 16 32 else x1.status ||| statusFlags r.2
        .next ((s.setCvt cl j { x1 with status := st }).steerBack y r.1.head?)
    else .next s

/-! ### The sparse-update unit -/

/-- Closes every window but `u`'s with an update pending in a range. -/
def State.closeOthers (s : State) (u : SuuId) (k len : Nat) : Option State :=
  ((s.pendingUnits k len).filter (· != u)).foldl (fun o v => match o with | none => none | some s => s.closeWindow v) (some s)

/-- What a stream update's address comes to: dropped, waiting for its page, stopped by an uncorrectable error at a scratchpad
byte (09 R250), or a memory key (10 R291; log entry 25). -/
inductive UpdPlace where
  | drop (s : State)
  | wait (s : State)
  | ecc (a : Nat)
  | at (k : Nat) (s : State)

/-- The place of a stream update of a cluster's unit. A sync word is none: no stream update is among what reaches the sync page
(09 R251). -/
def State.updPlace (s : State) (cl : Nat) (job : Option Nat) (a : Word) (op : Nat) : UpdPlace :=
  let len := atomLen op
  match s.shortFault (16 * cl) job a len .atomic with
  | some _ => .drop s
  | none => match s.resolve (16 * cl) job a len with
    | .ok (.scratch k) => if syncBase ≤ k % 2 ^ 22 then .drop s else if s.sbad k len then .ecc k else .at k s
    | .ok (.wide w) =>
      if w % len ≠ 0 then .drop s
      else match s.translate (cl / 32) job w len .atomic with
        | .ok (s1, .hbm) =>
          if s1.hbmBusy w len then .wait s1
          else if s1.hbmBad w len then
            let x := s1.onBad w len
            if x.2 then .wait x.1 else .drop x.1
          else .at (wideKey w) (s1.useHbm w len)
        | .ok (s1, .miss g) => .wait (s1.missAt g (cl / 32) (some (job.getD 0)))
        | _ => .drop s
    | _ => .drop s

/-- A pair of an address and a value of a unit's stream (10 R291, R292). One whose address has neither tag is dropped (log entry
116). -/
def State.suuPair (s : State) (cl j : Nat) (ta tv : Token) : State :=
  let u := SuuId.cluster cl j
  let k := suuOp j
  let x := s.suu u
  let op := fldN x.op 0 4
  let pop (s : State) : State := (s.popOp cl k 0).popOp cl k 1
  let job := (s.regionOfOp cl k).map fun g => (s.region (cl / 32) g).job
  if 10 ≤ op ∨ (ta.tag ≠ 0 ∧ ta.tag ≠ 7) then pop s
  else match s.updPlace cl job ta.payload op with
    | .drop s1 => pop s1
    | .wait s1 => s1
    | .ecc loc => s.operEcc cl k loc
    | .at loc s1 =>
      match s1.closeOthers u loc (atomLen op) with
      | none => s1
      | some s2 =>
        match (if (s2.suu u).takes loc op then some s2 else s2.closeWindow u) with
        | none => s2
        | some s3 => pop (s3.enterUpd u { loc := loc, op := op, val := tv.payload, src := none })

/-- One step of a cluster unit's stream: a marker closes the window and then passes on; the markers of in1 are those of
in0 (10 R280, R292; log entry 25). -/
def State.suuStream (s : State) (cl j : Nat) : State :=
  let u := SuuId.cluster cl j
  let k := suuOp j
  match frontOf (s.inAt (.oper cl k 0)).q, frontOf (s.inAt (.oper cl k 1)).q with
  | some t, v =>
    if t.kind = .ctrl then s.popOp cl k 0
    else if t.isEnd then
      if (s.suu u).win ≠ [] then (s.closeWindow u).getD s
      else if s.endRoom cl k 0 t then (s.popOp cl k 0).opSend cl k 0 [t]
      else s
    else match v with
      | none => s
      | some tv =>
        if tv.kind = .ctrl ∨ tv.isEnd = true then s.popOp cl k 1
        else if t.kind = .data ∧ tv.kind = .data then s.suuPair cl j t tv
        else s
  | none, some tv => if tv.kind = .ctrl ∨ tv.isEnd = true then s.popOp cl k 1 else s
  | none, none => s

/-- SUU_UPDATE (10 R291, R292): an edge unit has no routed stream (10 R301). -/
def execSuuUpdate (u : SuuId) (s : State) : Out :=
  match u with
  | .cluster cl j => .next (if (s.suu u).en && s.opLive cl (suuOp j) then s.suuStream cl j else s)
  | .edge _ _ => .next s

/-- A marker stands at the head of a unit's in0. -/
def State.suuMarked (s : State) : SuuId → Bool
  | .cluster cl j => match frontOf (s.inAt (.oper cl (suuOp j) 0)).q with
    | some t => t.isEnd && (s.suu (.cluster cl j)).en && s.opLive cl (suuOp j)
    | none => false
  | .edge _ _ => false

/-- SUU_WINDOW_CLOSE (10 R292, R293): the window is full, or WAIT cycles have passed without an arrival, or a marker has
come. -/
def execSuuWindowClose (u : SuuId) (s : State) : Out :=
  let x := s.suu u
  let wait := fldN x.ctrl 8 8
  if x.win.length ≥ 64 ∨ (wait ≠ 0 ∧ x.lastAt + wait ≤ s.suuCycle u) ∨ s.suuMarked u = true then .next ((s.closeWindow u).getD s)
  else .next s

/-! ### The reducer -/

/-- Operator number of the reducer. -/
def redOp : Nat := 26

/-- Writes a reducer. -/
def State.setRed (s : State) (cl : Nat) (x : Red) : State := s.modCluster cl fun C => { C with red := x }

/-- The inputs a reducer uses (10 R296). -/
def Red.inputs (x : Red) : List Nat := (List.range 4).filter fun i => bitOf x.ctrl (1 + i)
/-- INT64 add; every other mode is the CSA fold (10 R296). -/
def Red.int64 (x : Red) : Bool := fldN x.ctrl 5 2 == 1

/-- What the front of an input gives: nothing yet, a group member (its words), a marker, or a token to drop: a CTRL token, or
half a pair before a marker. -/
inductive RedIn where
  | none
  | data (a b : Word)
  | mark (t : Token)
  | ctrl
  | half
  deriving DecidableEq, Repr

/-- The front of input `i` of a reducer. -/
def redFront (int64 : Bool) : List Entry → RedIn
  | .tok t :: rest =>
    match t.kind with
    | .ctrl => .ctrl
    | .permit => .none
    | .mark => if t.isEnd then .mark t else .none
    | .data =>
      if int64 then .data t.payload 0
      else match frontOf rest with
        | some u => if u.kind = .data then .data t.payload u.payload else if u.isEnd then .half else .none
        | none => .none
  | _ => .none

/-- A partial in canonical form (01 R34). -/
def canonPart (p : Part) : Part := match p with | .num v e => emit v e | p => p

/-- The fold of a group, left in ascending input number, and whether a step recorded IV (10 R297). -/
def foldParts : List (Word × Word) → Part × Bool
  | [] => (.num 0 (-2047), false)
  | x :: xs => xs.foldl (fun r y =>
      let c := combine r.1 (partOf y.1 y.2)
      (c.1, r.2 || c.2)) (canonPart (partOf x.1 x.2), false)

/-- A whole group is formed (10 R297). -/
def State.redGroup (s : State) (cl : Nat) (x : Red) (ws : List (Word × Word)) : State :=
  if x.int64 then
    if s.opRoom cl redOp 0 1 then
      (x.inputs.foldl (fun s i => s.popOp cl redOp i) s).opSend cl redOp 0 [dataTok 0 (ws.foldl (fun a w => a + w.1) 0)]
    else s
  else if s.opRoom cl redOp 0 2 then
    let r := foldParts ws
    let w := partWords r.1
    let s1 := x.inputs.foldl (fun s i => (s.popOp cl redOp i).popOp cl redOp i) s
    let s2 := if r.2 then s1.setRed cl { x with status := x.status ||| put 1 16 } else s1
    s2.opSend cl redOp 0 [dataTok 6 w.1, dataTok 6 w.2]
  else s

/-- Drops data heads against markers and counts them (10 R297). -/
def State.redDrop (s : State) (cl : Nat) (is : List Nat) : State :=
  is.foldl (fun s i =>
    let x := (s.cluster cl).red
    (s.popOp cl redOp i).setRed cl { x with status := countIn x.status 0 16 }) s

/-- REDUCE_GROUP (10 R280, R296, R297). R296 wants MASK nonzero and gives a MASK of 0 no effect: the write is taken, and the
reducer forms no group (DESIGN CHOICE, log entry 86). -/
def execReduceGroup (cl : Nat) (s : State) : Out :=
  let x := (s.cluster cl).red
  let ins := x.inputs
  if bitOf x.ctrl 0 = false ∨ ins = [] ∨ s.opLive cl redOp = false then .next s
  else
    let q (i : Nat) : List Entry := (s.inAt (.oper cl redOp i)).q
    let fr (i : Nat) : RedIn := redFront x.int64 (q i)
    let isData (i : Nat) : Bool := match frontOf (q i) with | some t => t.kind == .data | none => false
    let marks := ins.filterMap fun i => match fr i with | .mark t => some t | _ => none
    let groups := ins.filterMap fun i => match fr i with | .data a b => some (a, b) | _ => none
    if ins.any fun i => fr i == .ctrl then
      .next ((ins.filter fun i => fr i == .ctrl).foldl (fun s i => s.popOp cl redOp i) s)
    else if marks.length = ins.length then
      let t := endTok ((marks.map fun t => markRank t.payload).foldl Nat.max 0)
      if s.endRoom cl redOp 0 t then .next ((ins.foldl (fun s i => s.popOp cl redOp i) s).opSend cl redOp 0 [t])
      else .next s
    else if marks ≠ [] then .next (s.redDrop cl (ins.filter isData))
    else if ins.any fun i => fr i == .half then .next (s.redDrop cl (ins.filter fun i => fr i == .half))
    else if groups.length = ins.length then .next (s.redGroup cl x groups)
    else .next s

end Sys2Proof.Machine
end

