-- ==== Sys2Proof/Machine/Matrix.lean ====
section
/-! DEFINITION. The matrix engines and their gather units (11): templates, firing, the phases of an operation, the queue, and
MXBIND, MXPRI and MXSTAT. -/

namespace Sys2Proof.Machine

/-! ### Engines and templates -/

/-- A matrix engine. -/
def State.mx (s : State) (cl u : Nat) : Mx := (s.cluster cl).mx.get Mx.reset u
/-- Writes a matrix engine. -/
def State.setMx (s : State) (cl u : Nat) (x : Mx) : State :=
  s.modCluster cl fun C => { C with mx := C.mx.set Mx.reset u x }

/-- Template slot `t` of an engine. -/
def Mx.slot (x : Mx) (t : Nat) : Option MxTmpl := x.tmpl.get none t
/-- An engine with a template slot written. -/
def Mx.setSlot (x : Mx) (t : Nat) (T : Option MxTmpl) : Mx := { x with tmpl := x.tmpl.set none t T }
/-- Changes a bound template. -/
def State.modTmpl (s : State) (cl u t : Nat) (f : MxTmpl → MxTmpl) : State :=
  s.setMx cl u ((s.mx cl u).setSlot t (((s.mx cl u).slot t).map f))

/-- ATYPE and BTYPE (11 R315). -/
def MxTmpl.fmts (T : MxTmpl) : Nat × Nat := (fldN T.w0 62 2, fldN T.w0 60 2)
/-- DTYPE 1: a CSA destination. -/
def MxTmpl.csa (T : MxTmpl) : Bool := bitOf T.w0 59
/-- ACC. -/
def MxTmpl.acc (T : MxTmpl) : Bool := bitOf T.w0 58
/-- GATHER. -/
def MxTmpl.gather (T : MxTmpl) : Bool := bitOf T.w0 57
/-- RELA. -/
def MxTmpl.rela (T : MxTmpl) : Bool := bitOf T.w0 56
/-- RELB. -/
def MxTmpl.relb (T : MxTmpl) : Bool := bitOf T.w0 55
/-- COMP. -/
def MxTmpl.comp (T : MxTmpl) : Nat := fldN T.w0 51 2
/-- CORE. -/
def MxTmpl.core (T : MxTmpl) : Nat := fldN T.w0 49 2
/-- Operand buffers. -/
def MxTmpl.nbuf (T : MxTmpl) : Nat := fldN T.w0 40 3 + 1
/-- EMITD. -/
def MxTmpl.emitd (T : MxTmpl) : Bool := bitOf T.w0 39
/-- CHAIN. -/
def MxTmpl.chain (T : MxTmpl) : Nat := fldN T.w0 16 16

/-- The combinations of 11 R312: depth, A frames, B frames, compute cycles. -/
def mxCombo : Nat × Nat → Option (Nat × Nat × Nat × Nat)
  | (0, 0) => some (64, 1, 1, 16)
  | (1, 0) => some (256, 1, 4, 64)
  | (0, 1) => some (256, 4, 1, 64)
  | (1, 1) => some (256, 1, 1, 16)
  | (2, 2) => some (128, 1, 1, 16)
  | (3, 3) => some (32, 1, 1, 32)
  | _ => none

/-- The combination of a template; one frame each where there is none. -/
def MxTmpl.combo (T : MxTmpl) : Nat × Nat × Nat × Nat := (mxCombo T.fmts).getD (0, 1, 1, 1)

/-- The frames of A buffer `j` (11 R316). -/
def MxTmpl.aFrames (T : MxTmpl) (j : Nat) : List Nat :=
  let n := if T.gather then 1 else T.combo.2.1
  (List.range n).map fun q => fldN T.w1 54 10 + j * fldN T.w1 44 10 + q
/-- The frames of B buffer `j` (11 R316). -/
def MxTmpl.bFrames (T : MxTmpl) (j : Nat) : List Nat :=
  (List.range T.combo.2.2.1).map fun q => fldN T.w1 34 10 + j * fldN T.w1 24 10 + q
/-- The destination frames (11 R311). -/
def MxTmpl.dFrames (T : MxTmpl) : List Nat := (List.range (if T.csa then 2 else 1)).map fun q => fldN T.w1 14 10 + q
/-- The buffer of the next operation (11 R316). -/
def MxTmpl.buf (T : MxTmpl) : Nat := T.n % T.nbuf

/-- The template of a slot has an operation past its entry (11 R317). -/
def Mx.active (x : Mx) (t : Nat) : Bool :=
  (x.standby.any fun o => o.t == t) || (x.running.any fun o => o.t == t) || (x.shadow.any fun o => o.t == t) ||
    x.finished.any fun o => o.t == t

/-- Sets the tile tags of frames. -/
def State.setTiles (s : State) (cl : Nat) (fs : List Nat) (t : BitVec 2) : State :=
  s.modCluster cl fun C => fs.foldl (fun C f => C.setTile f t) C

/-! ### Elements of a tile -/

/-- Fabric address of byte `b` of a frame. -/
def frameByte (cl f b : Nat) : Nat := cl * 2 ^ 22 + f * 4096 + b

/-- `n` bytes at `a`, all in one word, of what a latch holds. -/
def latchNat (m : KMap (Option Word)) (a n : Nat) : Nat := ((m.get none (a / 8)).getD 0).toNat / 2 ^ (8 * (a % 8)) % 2 ^ (8 * n)

/-- Entry `c` of codebook slot `k` of an engine. -/
def Mx.code (x : Mx) (k c : Nat) : FVal := bf16.value (x.codebook.get 0 (16 * (k % 8) + c % 16)).toNat

/-- Element `k` of a row of 128 bytes whose frame `q` starts at `row q`, in a latch (11 R311): `fmt` 0 BF16, 1 CB4, 2 INT8,
3 FP32. -/
def Mx.tileElem (x : Mx) (m : KMap (Option Word)) (fmt slot : Nat) (row : Nat → Nat) (k : Nat) : FVal :=
  match fmt with
  | 0 => bf16.value (latchNat m (row (k / 64) + 2 * (k % 64)) 2)
  | 1 =>
    let b := latchNat m (row 0 + k / 2) 1
    x.code slot (if k % 2 = 0 then b % 16 else b / 16)
  | 2 => ofInt (BitVec.ofNat 8 (latchNat m (row 0 + k) 1)).toInt
  | _ => fp32.value (latchNat m (row 0 + 4 * k) 4)

/-- A gathered row (11 R322): its address, none for a zero row; and whether its entry was bad. -/
def gatherRow (cl ent : Nat) : Option Nat × Bool :=
  let off := ent % 2 ^ 22
  let bad := ent / 2 ^ 22 % 2 ^ 9 != 0 || off % 128 != 0 || decide (syncBase ≤ off)
  (if bad = true ∨ ent / 2 ^ 31 % 2 = 1 then none else some (cl * 2 ^ 22 + off), bad)

/-- Row `r` of A: where its frame `q` stands, none for a zero row, and whether its entry was bad. -/
def MxTmpl.aRow (T : MxTmpl) (cl : Nat) (m : KMap (Option Word)) (r : Nat) : Option (Nat → Nat) × Bool :=
  let fs := T.aFrames T.buf
  if T.gather then
    let g := gatherRow cl (latchNat m (frameByte cl (fs.headD 0) (4 * r)) 4)
    (g.1.map fun a => fun _ => a, g.2)
  else (some fun q => frameByte cl (fs.getD q 0) (128 * r), false)

/-- The incoming partial of an operation is read from its destination frames (11 R314, R319, R336). -/
def MxTmpl.readsDest (T : MxTmpl) : Bool := if T.inChain = 0 then T.acc else T.fromFrames

/-- The incoming partial of an element (11 R314, R319; 01 R38). -/
def MxTmpl.incoming (T : MxTmpl) (cl : Nat) (m : KMap (Option Word)) (r c : Nat) : Part :=
  if T.readsDest then
    if T.csa then partOf ((m.get none (frameByte cl (T.dFrames.getD (r / 16) 0) (8 * (32 * (r % 16) + c)) / 8)).getD 0) 0
    else partOfFp32 (latchNat m (frameByte cl (T.dFrames.headD 0) (4 * (32 * r + c))) 4)
  else if T.inChain = 0 then .num 0 (-2047)
  else
    let w := T.partials.getD (32 * r + c) 0
    if T.csa then partOf w 0 else partOfFp32 w.toNat

/-- Halves a value until it fits frame form, `fuel` times at most (11 R313). -/
def frameLoop : Nat → Int → Int → Int × Int
  | 0, v, e => (v, e)
  | n + 1, v, e => if v < -(2 ^ 51) ∨ v > 2 ^ 51 - 1 then frameLoop n (Int.fdiv v 2) (e + 1) else (v, e)

/-- A result in frame form (11 R313). -/
def frameForm (p : Part) : Word :=
  let word (v e : Int) : Word := (BitVec.ofInt 52 v) ++ (BitVec.ofInt 12 e)
  match p with
  | .nan => word 0 (-2048)
  | .inf n => word (if n then -1 else 1) (-2048)
  | .num v e =>
    let x := frameLoop (Nat.log2 v.natAbs + 1) v e
    if x.2 > 2047 then word (if x.1 < 0 then -1 else if x.1 = 0 then 0 else 1) (-2048)
    else if x.1 = 0 then word 0 (-2047)
    else word x.1 x.2

/-- One result element in frame form, and whether IV is recorded (01 R37, 11 R313). -/
def Mx.elem (x : Mx) (cl : Nat) (T : MxTmpl) (m : KMap (Option Word)) (r c : Nat) : Word × Bool :=
  let f := T.fmts
  let bs := T.bFrames T.buf
  let a (k : Nat) : FVal := match (T.aRow cl m r).1 with
    | none => ofInt 0
    | some row => x.tileElem m f.1 (fldN T.w0 46 3) row k
  let p := mxSum ((List.range T.combo.1).map fun k =>
    mulF (a k) (x.tileElem m f.2 (fldN T.w0 43 3) (fun q => frameByte cl (bs.getD q 0) (128 * c)) k))
  let q := combine p.1 (T.incoming cl m r c)
  (frameForm q.1, p.2 || q.2)

/-- The result of an operation as its latch fixes it, and its flags (01 R40, 11 R319). -/
def Mx.result (x : Mx) (cl : Nat) (T : MxTmpl) (m : KMap (Option Word)) : List Word × BitVec 5 :=
  let es := (List.range 1024).map fun i => x.elem cl T m (i / 32) (i % 32)
  (es.map (·.1), flagIf (es.any (·.2)) flIV)

/-- Bad gathered entries of an operation (11 R322). -/
def MxTmpl.badRows (T : MxTmpl) (cl : Nat) (m : KMap (Option Word)) : Nat :=
  if T.gather then (List.range 32).countP fun r => (T.aRow cl m r).2 else 0

/-! ### What a latch reads (11 R319; 20 R490) -/

/-- The first `n` words of a frame. -/
def frameWords (cl f n : Nat) : List Nat := (List.range n).map fun i => frameByte cl f (8 * i)

/-- The words of the destination frames. -/
def MxTmpl.destWords (T : MxTmpl) (cl : Nat) : List Nat := T.dFrames.flatMap fun f => frameWords cl f 512

/-- The words that a latch reads from the buffers and the destination: of an index frame its 32 entries (11 R322). -/
def MxTmpl.ownWords (T : MxTmpl) (cl : Nat) : List Nat :=
  ((T.aFrames T.buf).flatMap fun f => frameWords cl f (if T.gather then 16 else 512)) ++
    ((T.bFrames T.buf).flatMap fun f => frameWords cl f 512) ++ (if T.readsDest then T.destWords cl else [])

/-- The words of the rows that the entries in a latch name (11 R322). -/
def MxTmpl.rowWords (T : MxTmpl) (cl : Nat) (m : KMap (Option Word)) : List Nat :=
  if T.gather then (List.range 32).flatMap fun r => match (T.aRow cl m r).1 with
    | some row => (List.range 16).map fun i => row 0 + 8 * i
    | none => []
  else []

/-- The word that a latch reads next, none when it has read all (log entry 87). -/
def MxTmpl.latchNext (T : MxTmpl) (cl : Nat) (m : KMap (Option Word)) : Option Nat :=
  (T.ownWords cl ++ T.rowWords cl m).find? fun a => (m.get none (a / 8)).isNone

/-! ### Firing -/

/-- The region of a template lets it create an entry, and the standby latch take one (11 R336): it is not frozen, and in a cut
the engine is among the units that have still to record (16 R430). -/
def State.tmplLive (s : State) (cl u : Nat) (T : MxTmpl) : Bool :=
  match T.region with
  | none => true
  | some g =>
    let R := s.region (dieOf T.proc) g
    R.st != .frozen && (match R.cut with | none => true | some k => k.records (opUnit cl u))

/-- Word 1 of the completion record of a template (15 R400). -/
def mxRecord (cl u t n : Nat) : Word := put 0x11 56 ||| put cl 48 ||| put u 46 ||| put t 43 ||| put (n % 2 ^ 32) 0

/-- A template can create an entry (11 R318). -/
def State.mxReady (s : State) (cl u t : Nat) : Bool :=
  let x := s.mx cl u
  match x.slot t with
  | none => false
  | some T =>
    let C := s.cluster cl
    !T.queued && !T.closing && !x.active t && s.tmplLive cl u T && decide (x.queue.length < 8) &&
      (T.aFrames T.buf ++ T.bFrames T.buf).all (fun f => C.tile f == 2) &&
      (T.chaining || T.dFrames.all fun f => C.tile f == 0) && !s.eventHeld (cl / 32) (mxRecord cl u t 0) 43

/-- The destination frames of a template slot. -/
def State.destOf (s : State) (cl u t : Nat) : List Nat := match (s.mx cl u).slot t with | some T => T.dFrames | none => []

/-- A template that comes first in the order of 11 R318 is ready for one of the same destination frames. -/
def State.mxBehind (s : State) (cl u t : Nat) : Bool :=
  (List.range (8 * u + t)).any fun i =>
    s.mxReady cl (i / 8) (i % 8) && (s.destOf cl (i / 8) (i % 8)).any fun f => (s.destOf cl u t).contains f

/-- MX_ENTRY_CREATE (11 R318): the entry, and the destination FILLING when the operation begins a chain. -/
def execMxEntryCreate (cl u t : Nat) (s : State) : Out :=
  if s.mxReady cl u t && !s.mxBehind cl u t then
    match (s.mx cl u).slot t with
    | none => .next s
    | some T =>
      let s1 := if T.chaining then s else s.setTiles cl T.dFrames 1
      let s2 := s1.modTmpl cl u t fun T => { T with queued := true, chaining := true }
      let x := s2.mx cl u
      .next (s2.setMx cl u { x with queue := x.queue ++ [{ t := t, pri := T.pri, born := (s.islandCycle cl) }] })
  else .next s

/-! ### The phases -/

/-- Effective priority of an entry (11 R325). -/
def MxEntry.eff (e : MxEntry) (now : Nat) : Nat := min 3 (e.pri.toNat + ((now : Int) - e.born).toNat / 256)

/-- The better of two waiting entries: higher effective priority, then older, then first (11 R326). -/
def mxBetter (now : Nat) (a b : MxEntry) : MxEntry :=
  if a.eff now < b.eff now ∨ (a.eff now = b.eff now ∧ b.born < a.born) then b else a

/-- The waiting entry that the standby latch takes. -/
def State.mxNext (s : State) (cl u : Nat) : Option MxEntry :=
  let x := s.mx cl u
  let ok := x.queue.filter fun e => match x.slot e.t with | some T => !T.closing && s.tmplLive cl u T | none => false
  match ok with
  | [] => none
  | e :: es => some (es.foldl (mxBetter (s.islandCycle cl)) e)

/-- MX_STANDBY_LATCH (11 R326). -/
def execMxStandbyLatch (cl u : Nat) (s : State) : Out :=
  let x := s.mx cl u
  match (if x.standby.isNone then s.mxNext cl u else none) with
  | none => .next s
  | some e =>
    let o : MxOp := { t := e.t, pri := e.pri, epri := e.eff (s.islandCycle cl), born := e.born, latchStart := (s.islandCycle cl), latch := [],
                      posted := false, latched := false, steps := 0, started := 0, overtaker := false, result := [], flags := 0,
                      wrote := 0, emit := none }
    let s1 := s.setMx cl u { x with queue := x.queue.erase e, standby := some o }
    .next (s1.modTmpl cl u e.t fun T => { T with queued := false })

/-- Cycles of a template's latch (11 R319). -/
def MxTmpl.latchCycles (T : MxTmpl) : Nat :=
  8 * ((T.aFrames 0).length + (T.bFrames 0).length) + (if T.gather then 1 else 0)

/-- The region of a template holds a fault of this target, or there is no region. -/
def State.tmplHolds (s : State) (T : MxTmpl) (target : Word) : Bool :=
  match T.region with
  | none => true
  | some g => (s.region (dieOf T.proc) g).held.contains target

/-- The target word of the engine that runs a template (16 R423). -/
def engTarget (cl u : Nat) (T : MxTmpl) : Word :=
  put 4 61 ||| put (cl / 32) 58 ||| put (T.region.getD 0) 52 ||| opAddress cl u

/-- The standby latch meets an uncorrectable error at byte `a`: the template's region is frozen and the record names the offset,
once until the region is resumed (09 R250). -/
def State.latchEcc (s : State) (cl u : Nat) (o : MxOp) (T : MxTmpl) (a : Nat) : State :=
  let w := engTarget cl u T
  if o.posted && s.tmplHolds T w then s
  else (s.setMx cl u { s.mx cl u with standby := some { o with posted := true } }).freezeBy (dieOf T.proc) T.region
    { fltIntegrity with op0 := some (put a 0) } w

/-- Starts the standby operation when the engine is free and its latch complete (11 R326). -/
def Mx.start (x : Mx) (now : Nat) : Mx :=
  match x.running, x.shadow, x.standby with
  | none, none, some o => if o.latched then { x with running := some { o with started := now }, standby := none } else x
  | _, _, _ => x

/-- MX_LATCH_END (11 R319, R322; 20 R490): the latch reads its next word, and with all of them read and its cycles over, the
buffers are released and the result is fixed. -/
def execMxLatchEnd (cl u : Nat) (s : State) : Out :=
  let x := s.mx cl u
  match x.standby with
  | none => .next s
  | some o =>
    match x.slot o.t with
    | none => .next s
    | some T =>
      if o.latched then .next s
      else match T.latchNext cl o.latch with
        | some a =>
          if s.sbad a 8 then .next (s.latchEcc cl u o T a)
          else .next (s.setMx cl u { x with
            standby := some { o with latch := o.latch.set none (a / 8) (some (s.mword a)), posted := false } })
        | none =>
          if s.islandCycle cl < o.latchStart + T.latchCycles then .next s
          else
            let r := x.result cl T o.latch
            let bad := T.badRows cl o.latch
            let s1 := if T.rela then s.setTiles cl (T.aFrames T.buf) 0 else s
            let s2 := if T.relb then s1.setTiles cl (T.bFrames T.buf) 0 else s1
            let y : Mx := { x with
              standby := some { o with latched := true, result := r.1, flags := r.2 }
              gaStatus := min (x.gaStatus + bad) 0xFFFF
              badIdx := x.badIdx || decide (bad ≠ 0) }
            .next (s2.setMx cl u (y.start (s.islandCycle cl)))

/-- Compute cycles of the operation's template. -/
def Mx.total (x : Mx) (o : MxOp) : Nat := match x.slot o.t with | some T => T.combo.2.2.2 | none => 0

/-- k-steps of a running operation done by now. -/
def MxOp.done (o : MxOp) (now : Nat) : Nat := o.steps + (now - o.started)

/-- MX_PARK (11 R326): the standby operation overtakes at a k-step boundary. -/
def execMxPark (cl u : Nat) (s : State) : Out :=
  let x := s.mx cl u
  match x.running, x.standby with
  | some r, some o =>
    if o.latched && decide (r.pri.toNat < o.epri) && x.shadow.isNone && !r.overtaker &&
        decide (r.done (s.islandCycle cl) < x.total r) then
      .next (s.setMx cl u { x with
        shadow := some { r with steps := r.done (s.islandCycle cl) }
        running := some { o with overtaker := true, started := (s.islandCycle cl) }
        standby := none })
    else .next s
  | _, _ => .next s

/-- MX_COMPUTE_END (11 R319, R326): the parked operation resumes first, then the standby one starts. -/
def execMxComputeEnd (cl u : Nat) (s : State) : Out :=
  let x := s.mx cl u
  match x.running with
  | none => .next s
  | some r =>
    if r.done (s.islandCycle cl) < x.total r then .next s
    else
      let y : Mx := { x with finished := x.finished ++ [r], running := none }
      .next (s.setMx cl u (match y.shadow with
        | some p => { y with running := some { p with started := (s.islandCycle cl) }, shadow := none }
        | none => y.start (s.islandCycle cl)))

/-! ### Delivery -/

/-- A result word as the destination holds it, and the flags of its rounding (11 R314, R330; 01 R39). -/
def mxStored (csa : Bool) (w : Word) : Word × BitVec 5 :=
  if csa then (w, 0)
  else
    let r := normalise (partOf w 0) oneBits
    (put r.1 0, r.2)

/-- The words of a destination from its 1,024 stored elements: CSA words, or FP32 values two to a word (11 R311). -/
def destWord (csa : Bool) (ws : List Word) (i : Nat) : Word :=
  if csa then ws.getD i 0 else (ws.getD (2 * i) 0 &&& 0xFFFFFFFF) ||| (ws.getD (2 * i + 1) 0 <<< 32)

/-- Writes word `i` of a destination (20 R490). -/
def State.writeDest (s : State) (cl : Nat) (T : MxTmpl) (ws : List Word) (i : Nat) : State :=
  s.swrite ((T.destWords cl).getD i 0) (bytesOf 8 (destWord T.csa ws i))

/-- What port `j` of an engine sends at a chain end with EMITD (11 R321). -/
def emitPort (ws : List Word) (j : Nat) : List Token :=
  let row (r : Nat) : List Token :=
    ((ws.drop (32 * r)).take 32).flatMap (fun w => [dataTok 6 w, dataTok 6 0]) ++ [endTok 1]
  (List.range 8).flatMap (fun i => row (4 * i + j)) ++ [endTok 2]

/-- The operation counts of a template after a delivery; `ws` are the stored words. -/
def MxTmpl.delivered (T : MxTmpl) (ws : List Word) (last : Bool) : MxTmpl :=
  { T with n := T.n + 1, chaining := !last, inChain := if last then 0 else T.inChain + 1, fromFrames := false
           partials := if last then [] else ws, wrote := 0 }

/-- A completion of a template: CODE 0 a chain end, CODE 1 its removal (11 R329). -/
def State.mxReport (s : State) (cl u t : Nat) (T : MxTmpl) (code : Nat) : State :=
  if T.comp = 1 ∧ code = 0 then s.postEvent (cl / 32) T.core (mxRecord cl u t T.n) T.user 0
  else if T.comp = 2 then
    s.postEl T.proc 1 code T.core (fldN T.user 0 32 ||| t * 2 ^ 32 ||| u * 2 ^ 35)
  else s

/-- The internal partial of a chain in progress is still to be written to its destination (11 R319, R336). -/
def MxTmpl.spills (T : MxTmpl) : Bool :=
  T.chaining && T.inChain != 0 && !T.fromFrames && decide (T.wrote < (T.destWords 0).length)

/-- Writes the next word of that partial. -/
def State.spillStep (s : State) (cl u t : Nat) (T : MxTmpl) : State :=
  (s.writeDest cl T T.partials T.wrote).modTmpl cl u t fun T => { T with wrote := T.wrote + 1 }

/-- Takes the entry of a template out of the queue. -/
def State.unqueue (s : State) (cl u t : Nat) : State :=
  let x := s.mx cl u
  (s.setMx cl u { x with queue := x.queue.filter fun e => e.t != t }).modTmpl cl u t fun T => { T with queued := false }

/-- Takes a template away whose partial, if any, is written (11 R333, R337): an unlatched entry goes, and the destination of a
chain that has not run turns EMPTY. -/
def State.mxUnbind (s : State) (cl u t : Nat) (T : MxTmpl) : State :=
  let s1 := if T.chaining && T.inChain == 0 then s.setTiles cl T.dFrames 0 else s
  let s2 := s1.unqueue cl u t
  (s2.setMx cl u ((s2.mx cl u).setSlot t none)).mxReport cl u t T 1

/-- The end of an operation: its counts, and its completion at a chain end that no cancel came before (11 R319, R329, R337). -/
def State.mxFinish (s : State) (cl u : Nat) (o : MxOp) (ws : List Word) (last : Bool) : State :=
  let x := s.mx cl u
  let s1 := (s.setMx cl u { x with finished := x.finished.tail, done := x.done + 1 }).modTmpl cl u o.t fun T =>
    T.delivered ws last
  match (s1.mx cl u).slot o.t with
  | none => s1
  | some T =>
    if last && !T.closing then s1.mxReport cl u o.t T 0
    else s1

/-- Sends what ports have still to send, one token a port, while there is room. -/
def State.emitStep (s : State) (cl u : Nat) (ps : List (List Token)) : State × List (List Token) :=
  ps.zipIdx.foldl (fun (x : State × List (List Token)) p =>
    match p.1 with
    | t :: rest =>
      if x.1.endRoom cl u p.2 t then
        (x.1.opSend cl u p.2 [t], x.2 ++ [rest])
      else (x.1, x.2 ++ [p.1])
    | [] => (x.1, x.2 ++ [[]])) (s, [])

/-- Between the operations of a chain the bytes of the destination are free (11 R319; log entry 12). -/
def State.freeDest (s : State) (cl : Nat) (T : MxTmpl) : State :=
  T.dFrames.foldl (fun s f =>
    let x := s.choose
    x.2.mwrite (frameByte cl f 0) ((List.range 4096).map fun i => Config.freeByte (4096 * x.1 + i))) s

/-- A template for which the engine has something to do besides operations: one that is cancelled, or one whose partial a save of
its region awaits (11 R336, R337). -/
def State.mxDue (s : State) (cl u t : Nat) : Bool :=
  let x := s.mx cl u
  match x.slot t with
  | none => false
  | some T => !x.active t && (T.closing || (T.spills && !s.tmplLive cl u T &&
      match T.region with | some g => (s.region (dieOf T.proc) g).cut.isSome | none => false))

/-- The engine writes the next word of a partial that is awaited, or takes a cancelled template away. -/
def State.mxTidy (s : State) (cl u : Nat) : State :=
  match (List.range 8).find? (s.mxDue cl u) with
  | none => s
  | some t => match (s.mx cl u).slot t with
    | none => s
    | some T => if T.spills then s.spillStep cl u t T else s.mxUnbind cl u t T

/-- MX_DELIVER (11 R319, R321, R328-R330; 20 R490): the oldest finished operation is recorded; at a chain end the destination is
written word by word and turns FULL, or streams out and turns EMPTY. -/
def execMxDeliver (cl u : Nat) (s : State) : Out :=
  let x := s.mx cl u
  match x.finished with
  | [] => .next (s.mxTidy cl u)
  | o :: rest =>
    match x.slot o.t with
    | none => .next (s.setMx cl u { x with finished := rest })
    | some T =>
      let last := T.inChain + 1 == T.chain
      let st := o.result.map (mxStored T.csa)
      let ws := st.map (·.1)
      let fl := st.foldl (fun f r => f ||| r.2) o.flags
      match o.emit with
      | some ps =>
        let y := s.emitStep cl u ps
        if y.2.all List.isEmpty then .next ((y.1.setTiles cl T.dFrames 0).mxFinish cl u o ws true)
        else
          let z := y.1.mx cl u
          .next (y.1.setMx cl u { z with finished := { o with emit := some y.2 } :: rest })
      | none =>
        if last && decide (o.wrote < (T.destWords cl).length) then
          .next ((s.writeDest cl T ws o.wrote).setMx cl u { x with finished := { o with wrote := o.wrote + 1 } :: rest })
        else
          let s1 := s.setMx cl u { x with flags := x.flags ||| fl }
          if last = false then .next ((s1.freeDest cl T).mxFinish cl u o ws false)
          else if T.emitd then
            .next (s1.setMx cl u { s1.mx cl u with
              finished := { o with emit := some ((List.range 4).map (emitPort ws)) } :: rest })
          else .next ((s1.setTiles cl T.dFrames 2).mxFinish cl u o ws true)

/-! ### At issue -/

/-- Cluster, unit and REG of an engine address (10 R282). -/
def engAddr (e : Word) : Nat × Nat × Nat := (fldN e 23 8, fldN e 14 5, fldN e 0 12)

/-- An engine address that names no engine (11 R333). -/
def engBad (e : Word) : Bool :=
  fldN e 32 32 != 0 || fldN e 12 2 != 0 || bitOf e 31 || fldN e 19 4 != 0 || decide (fldN e 14 5 > 3) ||
    decide (fldN e 0 12 > 7)

/-- Engine's checks (11 R333; 15 R397). -/
def State.engFault (s : State) (p : Nat) (job : Option Nat) (e : Word) : Option Flt :=
  if engBad e then some fltBounds
  else if s.clusterOk p job (engAddr e).1 = false then some fltProt
  else none

/-- MXBIND's issue faults (11 R333). -/
def mxbindFaults (e : Env) (s : State) : Option Flt :=
  match s.engFault e.p (s.jobOf e.p e.c) e.a with
  | some f => some f
  | none =>
    if fldN e.b 30 34 ≠ 0 ∨ fldN e.b 0 6 ≠ 0 then some fltProt
    else s.shortFault e.p (s.jobOf e.p e.c) e.b 64 .load

/-- `mxbind.cb`'s issue faults (11 R333). -/
def mxbindCbFaults (e : Env) (s : State) : Option Flt :=
  match s.engFault e.p (s.jobOf e.p e.c) e.a with
  | some f => some f
  | none => if fldN e.b 0 5 ≠ 0 then some fltBounds else s.shortFault e.p (s.jobOf e.p e.c) e.b 32 .load

/-- `mxbind.free`'s issue faults (11 R333). -/
def mxbindFreeFaults (e : Env) (s : State) : Option Flt := s.engFault e.p (s.jobOf e.p e.c) e.a

/-- MXBIND (11 R333). -/
def execMxbind (f : RForm) (s : State) : Out := issue (viewR 0xE2 f) (portEffect .mxbind modOf mxbindFaults) s
/-- MXBIND.CB (11 R333). -/
def execMxbindCb (f : RForm) (s : State) : Out := issue (viewR 0xE2 f) (portEffect .mxbindCb modOf mxbindCbFaults) s
/-- MXBIND.FREE (11 R333). -/
def execMxbindFree (f : RForm) (s : State) : Out := issue (viewR 0xE2 f) (portEffect .mxbindFree modOf mxbindFreeFaults) s
/-- MXPRI (11 R334): never faults. -/
def execMxpri (f : RForm) (s : State) : Out := issue (viewR 0xE3 f) (portEffect .mxpri modOf noFault) s
where noFault (_ : Env) (_ : State) : Option Flt := none
/-- MXSTAT (11 R335): never faults. -/
def execMxstat (f : RForm) (s : State) : Out := issue (viewR 0xE4 f) (portEffect .mxstat modOf noFault) s
where noFault (_ : Env) (_ : State) : Option Flt := none

/-! ### Serving -/

/-- CONFIG_COMBO (16 R421). -/
def fltCombo : Flt := { code := 10 }

/-- The template that a descriptor describes, before it runs. -/
def tmplOf (d : List Word) (p : Nat) (region : Option Nat) : MxTmpl :=
  { w0 := d.getD 0 0, w1 := d.getD 1 0, user := d.getD 2 0, proc := p, region := region, pri := fld (d.getD 0 0) 53 2, n := 0,
    chaining := false, inChain := 0, partials := [], queued := false, fromFrames := false, closing := false, wrote := 0 }

/-- A descriptor refused with BOUNDS (11 R333). -/
def tmplMalformed (d : List Word) (T : MxTmpl) : Bool :=
  (d.drop 3).any (· != 0) || fldN T.w0 32 7 != 0 || fldN T.w0 0 16 != 0 || fldN T.w1 0 14 != 0 || T.comp == 3 || T.chain == 0 ||
    (T.fmts.1 != 1 && fldN T.w0 46 3 != 0) || (T.fmts.2 != 1 && fldN T.w0 43 3 != 0) ||
    ((List.range T.nbuf).flatMap (fun j => T.aFrames j ++ T.bFrames j) ++ T.dFrames).any fun f => decide (f > 1022)

/-- A combination refused with CONFIG_COMBO (11 R333; 24 R537). -/
def tmplNoCombo (reduced : Bool) (T : MxTmpl) : Bool :=
  (mxCombo T.fmts).isNone || (T.gather && T.combo.2.1 == 4) || (T.emitd && !T.csa) || (reduced && T.fmts != (0, 0))

/-- MXBIND (11 R333). -/
def serveMxbind : Server := fun p r s => s.viaDesc p r r.b 8 fun d r s =>
  let e := engAddr r.a
  let T := tmplOf d p (s.proc p).region
  if ((s.mx e.1 e.2.1).slot e.2.2).isSome then .fail s fltProt r
  else if tmplMalformed d T then .fail s fltBounds r
  else if tmplNoCombo s.reduced T then .fail s fltCombo r
  else .ack (s.setMx e.1 e.2.1 ((s.mx e.1 e.2.1).setSlot e.2.2 (some T)))

/-- MXBIND.CB (11 R323, R333): waits while an operation latches. -/
def serveMxbindCb : Server := fun p r s => s.viaDesc p r r.b 4 fun d r s =>
  let e := engAddr r.a
  let x := s.mx e.1 e.2.1
  if x.standby.any fun o => !o.latched then .park s r
  else
    let ent (i : Nat) : BitVec 16 := lane 16 (d.getD (i / 4) 0) (i % 4)
    .ack (s.setMx e.1 e.2.1 { x with codebook := (List.range 16).foldl (fun m i => m.set 0 (16 * e.2.2 + i) (ent i)) x.codebook })

/-- A template of a cancelled region, or one unbound in mid-chain (11 R333, R337): it creates no entry more, and is taken away
now, or once its operation has been delivered and its partial written. -/
def State.mxCancel (s : State) (cl u t : Nat) : State :=
  let x := s.mx cl u
  match x.slot t with
  | none => s
  | some T =>
    if x.active t || T.spills then (s.unqueue cl u t).modTmpl cl u t fun T => { T with closing := true } else s.mxUnbind cl u t T

/-- MXBIND.FREE (11 R333): the chain position, once the template has nothing past its entry; `data` keeps it while the partial is
written. -/
def serveMxbindFree : Server := fun _ r s =>
  let e := engAddr r.a
  let x := s.mx e.1 e.2.1
  match r.data, x.slot e.2.2 with
  | n :: _, some T => if T.closing then .wait s else .word s n
  | n :: _, none => .word s n
  | [], none => .word s 0xFFFFFFFFFFFFFFFF
  | [], some T =>
    let n := put (if T.chaining then T.inChain else 0) 0
    if x.active e.2.2 then .wait s
    else if T.spills then .park (s.mxCancel e.1 e.2.1 e.2.2) { r with data := [n] }
    else .word (s.mxUnbind e.1 e.2.1 e.2.2 T) n

/-- MXPRI (11 R334). -/
def serveMxpri : Server := fun p r s =>
  let e := engAddr r.a
  if (s.engFault p r.job r.a).isSome then .word s 0x200
  else match (s.mx e.1 e.2.1).slot e.2.2 with
    | none => .word s 0x100
    | some T =>
      let n : BitVec 2 := r.b.setWidth 2
      let s1 := s.modTmpl e.1 e.2.1 e.2.2 fun T => { T with pri := n }
      let x := s1.mx e.1 e.2.1
      let q := x.queue.map fun y => if y.t = e.2.2 then { y with pri := n } else y
      .word (s1.setMx e.1 e.2.1 { x with queue := q }) (T.pri.zeroExtend 64)

/-- The MXSTAT word (11 R335). -/
def mxStatWord (x : Mx) : Word :=
  put x.done.toNat 48 ||| put (min x.queue.length 8) 36 ||| put (if x.running.isSome then 1 else 0) 35 |||
    put (if x.shadow.isSome then 1 else 0) 34 ||| put (match x.running with | some o => o.pri.toNat | none => 0) 32 |||
    put ((List.range 8).foldl (fun m t => if (x.slot t).isSome then m + 2 ^ t else m) 0) 24 |||
    put (if x.badIdx then 1 else 0) 4 ||| statusFlags x.flags

/-- MXSTAT (11 R335). -/
def serveMxstat : Server := fun p r s =>
  let e := engAddr r.a
  if (s.engFault p r.job r.a).isSome then .word s 0
  else
    let x := s.mx e.1 e.2.1
    .word (if r.mode % 2 = 1 then s.setMx e.1 e.2.1 { x with flags := 0, badIdx := false } else s) (mxStatWord x)

/-! ### Registers -/

/-- TSTATE of a template slot (11 R331). -/
def tstateWord (x : Mx) (t : Nat) : Word :=
  match x.slot t with
  | none => 0
  | some T =>
    let b (c : Bool) (i : Nat) : Word := put (if c then 1 else 0) i
    put (T.inChain % 2 ^ 16) 0 ||| b T.chaining 16 ||| b T.queued 17 ||| b (x.active t && !(x.shadow.any fun o => o.t == t)) 18 |||
      b (x.shadow.any fun o => o.t == t) 19 ||| b true 20

/-- A register of an engine (11 R331): none where nothing is assigned. -/
def mxReg (x : Mx) (reg : Nat) : Option Word :=
  if reg = 0 then some (mxStatWord x)
  else if 8 ≤ reg ∧ reg ≤ 15 then some (tstateWord x (reg - 8))
  else if 16 ≤ reg ∧ reg ≤ 79 then
    let t := (reg - 16) / 8
    some (match x.slot t with
      | none => 0
      | some T => match (reg - 16) % 8 with | 0 => T.w0 | 1 => T.w1 | 2 => T.user | _ => 0)
  else if 80 ≤ reg ∧ reg ≤ 111 then
    some (ofLanes 16 ((List.range 4).map fun i => x.codebook.get 0 (4 * (reg - 80) + i)))
  else none

/-- A register of a gather unit (11 R331). -/
def gaReg (x : Mx) (reg : Nat) : Option Word := if reg = 0 then some (put x.gaStatus 0) else none

end Sys2Proof.Machine
end

