-- ==== Sys2Proof/Machine/Espalier.lean ====
section
/-! DEFINITION. The Espalier arrays (12): graph images and their checks, blocks, vectors, the output stream, and GLOAD, GBIND and
GUNLOAD. -/

namespace Sys2Proof.Machine

/-- An array. -/
def State.esp (s : State) (cl u : Nat) : Esp := (s.cluster cl).esp.get Esp.reset u
/-- Writes an array. -/
def State.setEsp (s : State) (cl u : Nat) (x : Esp) : State :=
  s.modCluster cl fun C => { C with esp := C.esp.set Esp.reset u x }
/-- Changes an array. -/
def State.modEsp (s : State) (cl u : Nat) (f : Esp → Esp) : State := s.setEsp cl u (f (s.esp cl u))
/-- Operator number of an array. -/
def espOp (u : Nat) : Nat := 4 + u

/-! ### Graph images (12 R341-R349) -/

/-- Rows of a graph header (12 R342). -/
def ghRows (h : Word) : Nat := fldN h 32 8 + 1

/-- The section of an image that begins at word `i` (12 R343). -/
def sectionAt (ws : List Word) (i : Nat) : EspSection :=
  let h := ws.getD i 0
  let n := fldN h 52 12
  let t := fldN h 43 9
  { nodes := (ws.drop (i + 1)).take n, taps := (ws.drop (i + 1 + n)).take t, lanes := fldN h 36 7 }

/-- Words of the section that begins at word `i`, by its header. -/
def sectionWords (ws : List Word) (i : Nat) : Nat := 1 + fldN (ws.getD i 0) 52 12 + fldN (ws.getD i 0) 43 9

/-- The word indexes at which the sections of an image begin, and the index after the last. -/
def sectionStarts (ws : List Word) : Nat → Nat → List Nat × Nat
  | 0, i => ([], i)
  | n + 1, i =>
    let r := sectionStarts ws n (i + sectionWords ws i)
    (i :: r.1, r.2)

/-- The terms of a node word (12 R344). -/
def nodeTerms (w : Word) : List Nat := [fldN w 34 17, fldN w 17 17, fldN w 0 17]
/-- SRC of a term. -/
def termSrc (t : Nat) : Nat := t % 4096
/-- SHIFT of a term. -/
def termShift (t : Nat) : Nat := t / 4096 % 16
/-- NEG of a term. -/
def termNeg (t : Nat) : Bool := t / 65536 == 1

/-- A source names a lane of the section or a node below `n` (12 R347). -/
def srcOk (lanes n src : Nat) : Bool :=
  if src ≤ 64 then decide (1 ≤ src) && decide (src ≤ lanes) else decide (src - 65 < n)

/-- A node word is well formed (12 R347). -/
def nodeOk (lanes i : Nat) (w : Word) : Bool :=
  fldN w 51 13 == 0 && (nodeTerms w).any (fun t => termSrc t != 0) &&
    (nodeTerms w).all fun t => if termSrc t = 0 then t == 0 else srcOk lanes i (termSrc t)

/-- A tap word is well formed (12 R345, R347). -/
def tapOk (S : EspSection) (rows : Nat) (w : Word) : Bool :=
  fldN w 20 44 == 0 && decide (fldN w 12 8 < rows) && srcOk S.lanes S.nodes.length (fldN w 0 12)

/-- A section is well formed, given its header (12 R347). -/
def sectionOk (h : Word) (S : EspSection) (rows : Nat) : Bool :=
  fldN h 0 36 == 0 && decide (1 ≤ S.lanes) && S.nodes.zipIdx.all (fun x => nodeOk S.lanes x.2 x.1) &&
    S.taps.all (tapOk S rows) && decide ((S.taps.map fun w => fldN w 12 8).Nodup)

/-- An image is well formed (12 R347). -/
def graphOk (ws : List Word) : Bool :=
  let h := ws.headD 0
  let st := sectionStarts ws (fldN h 40 8) 1
  let rows := ghRows h
  fldN h 48 16 == 1 && ws.length == fldN h 0 32 && ws.length == st.2 + (rows + 1) / 2 &&
    st.1.all (fun i => sectionOk (ws.getD i 0) (sectionAt ws i) rows) &&
    (rows % 2 == 0 || fldN (ws.getLastD 0) 32 32 == 0)

/-- A section exceeds an array (12 R349). -/
def sectionTooBig (h : Word) : Bool := decide (fldN h 52 12 > 2048) || decide (fldN h 36 7 > 64) || decide (fldN h 43 9 > 256)

/-- Widths of the nodes of a section, in order (12 R348). -/
def nodeWidths (nodes : List Word) : List Nat :=
  nodes.foldl (fun ws w =>
    let one (t : Nat) : Nat := if termSrc t = 0 then 0 else (if termSrc t ≤ 64 then 16 else ws.getD (termSrc t - 65) 0) + termShift t
    ws ++ [((nodeTerms w).map one).foldl Nat.max 0 + 2]) []

/-- Levels of the nodes of a section, in order (12 R354). -/
def nodeLevels (nodes : List Word) : List Nat :=
  nodes.foldl (fun ls w =>
    let one (t : Nat) : Nat := if termSrc t ≤ 64 then 0 else ls.getD (termSrc t - 65) 0
    ls ++ [((nodeTerms w).map one).foldl Nat.max 0 + 1]) []

/-- The deepest level of a tapped source of a section (12 R354). -/
def sectionDepth (S : EspSection) : Nat :=
  let ls := nodeLevels S.nodes
  (S.taps.map fun w => if fldN w 0 12 ≤ 64 then 0 else ls.getD (fldN w 0 12 - 65) 0).foldl Nat.max 0

/-- Row scales of an image (12 R346). -/
def scalesOf (ws : List Word) (rows start : Nat) : List (BitVec 32) :=
  (List.range rows).map fun r => (ws.getD (start + r / 2) 0).extractLsb' (32 * (r % 2)) 32

/-! ### Nodes and rows -/

/-- The value of a source from the lanes and the nodes before (12 R339, R344). -/
def srcVal (lanes nodes : List Int) (src : Nat) : Int :=
  if src = 0 then 0 else if src ≤ 64 then lanes.getD (src - 1) 0 else nodes.getD (src - 65) 0

/-- The values of a section's nodes (12 R339). -/
def nodeVals (S : EspSection) (lanes : List Int) : List Int :=
  S.nodes.foldl (fun vs w =>
    let one (t : Nat) : Int :=
      let v := srcVal lanes vs (termSrc t) * 2 ^ termShift t
      if termNeg t then -v else v
    vs ++ [((nodeTerms w).map one).foldl (· + ·) 0]) []

/-- The partials that a section gives its rows for a block: row and partial (01 R41, R42). -/
def sectionParts (S : EspSection) (eb : Int) (m : Option (List Int)) : List (Nat × Part) :=
  match m with
  | none => S.taps.map fun w => (fldN w 12 8, .nan)
  | some lanes =>
    let vs := nodeVals S lanes
    S.taps.map fun w => (fldN w 12 8, emit (srcVal lanes vs (fldN w 0 12)) (eb - 14))

/-- The partial of row `r`, folded in ascending array order (12 R353). -/
def rowPart (ps : List (List (Nat × Part))) (r : Nat) : Part :=
  let one (l : List (Nat × Part)) : Part := match l.find? fun x => x.1 == r with | some x => x.2 | none => .num 0 (-2047)
  match ps with
  | [] => .num 0 (-2047)
  | l :: ls => ls.foldl (fun p l => (combine p (one l)).1) (one l)

/-- The tokens of a vector (12 R353). -/
def vectorToks (rows : Nat) (ps : List (List (Nat × Part))) : List Token :=
  (List.range rows).flatMap (fun r =>
    let w := partWords (rowPart ps r)
    [dataTok 6 w.1, dataTok 6 w.2]) ++ [endTok 1]

/-! ### Vectors -/

/-- The arrays of the graph of a head. -/
def Esp.units (x : Esp) : List Nat := (List.range x.narr).map (x.head + ·)

/-- The arrays of a graph with their sections and items. -/
def State.graphItems (s : State) (cl : Nat) (us : List Nat) : List (EspSection × List EspItem) :=
  us.map fun u => ((s.esp cl u).sect, (s.esp cl u).items)

/-- Removes the first item of the arrays that `ok` names. -/
def State.popItems (s : State) (cl : Nat) (us : List Nat) (ok : EspItem → Bool) : State :=
  us.foldl (fun s u => s.modEsp cl u fun x => match x.items with
    | i :: rest => if ok i then { x with items := rest } else x
    | [] => x) s

/-- An item is a block. -/
def EspItem.isBlock : EspItem → Bool
  | .block _ _ => true
  | .marker _ => false

/-- The tokens of the vector at the front of every array. -/
def frontVector (rows : Nat) (xs : List (EspSection × List EspItem)) : List Token :=
  vectorToks rows (xs.map fun x => match x.2 with | .block eb m :: _ => sectionParts x.1 eb m | _ => [])

/-- Forms what the arrays of a graph give together, `fuel` times at most: vectors, merged markers, data dropped against a
marker; an abort discards every vector whose last row has not been sent, and leaves the marker of one that only waits for it
(12 R352, R353). -/
def State.formVectors (cl h : Nat) : Nat → State → State
  | 0, s => s
  | n + 1, s =>
    let H := s.esp cl h
    let xs := s.graphItems cl H.units
    let fronts := xs.filterMap fun x => x.2.head?
    if fronts.length < xs.length then s
    else if fronts.all EspItem.isBlock then
      let s1 := s.popItems cl H.units fun _ => true
      formVectors cl h n (s1.modEsp cl h fun x => { x with outq := x.outq ++ [(frontVector H.rows xs, true)] })
    else if fronts.all fun i => !i.isBlock then
      let rank := (fronts.map fun i => match i with | .marker r => r | _ => 0).foldl Nat.max 0
      let s1 := s.popItems cl H.units fun _ => true
      formVectors cl h n (s1.modEsp cl h fun x =>
        let unsent (g : List Token × Bool) : Bool := rank == 7 && g.2 && !g.1.all Token.isEnd
        let gone := (x.outq.filter unsent).length
        let q := x.outq.filter fun g => !unsent g
        { x with outq := q ++ [([endTok rank], false)], status := Nat.repeat (fun st => countIn st 16 16) gone x.status })
    else
      let s1 := s.popItems cl H.units EspItem.isBlock
      formVectors cl h n (s1.modEsp cl h fun x => { x with status := x.status ||| put 1 2 })

/-- Items that the arrays of a graph hold. -/
def State.itemCount (s : State) (cl : Nat) (us : List Nat) : Nat := us.foldl (fun n u => n + (s.esp cl u).items.length) 0

/-- Forms all that can be formed. -/
def State.form (s : State) (cl h : Nat) : State := s.formVectors cl h (s.itemCount cl (s.esp cl h).units)

/-! ### The input stream -/

/-- Word 1 of a graph's record (15 R400). -/
def espRecord (cl u cause : Nat) (vcount : BitVec 32) : Word :=
  put 0x12 56 ||| put cl 48 ||| put u 46 ||| put cause 40 ||| put vcount.toNat 0

/-- The region that holds a graph, with its die (12 R350, R362): the one whose context bound it, else the one that holds its
head's array (15 R407; log entry 43). -/
def State.espRegion (s : State) (cl : Nat) (x : Esp) : Option (Nat × Nat) :=
  if x.st = .free then none
  else
    let H := s.esp cl x.head
    match H.region with
    | some g => some (dieOf H.proc, g)
    | none => (s.regionOfOp cl (espOp x.head)).map fun g => (cl / 32, g)

/-- The graph of a head may move (12 R362; 15 R399; 16 R430). -/
def State.espLive (s : State) (cl u : Nat) (H : Esp) : Bool :=
  !s.eventHeld (cl / 32) (espRecord cl H.head 0 0) 46 &&
    (match s.espRegion cl H with
      | none => true
      | some x =>
        let R := s.region x.1 x.2
        R.st != .frozen && (match R.cut with | none => true | some k => k.records (opUnit cl (espOp u))))

/-- Vectors that array `u` holds between blocking and output (12 R354). -/
def State.espHeld (s : State) (cl u : Nat) : Nat :=
  ((s.esp cl u).items.filter EspItem.isBlock).length + ((s.esp cl (s.esp cl u).head).outq.filter (·.2)).length

/-- Completes the block of an array from the lanes gathered, missing ones +0 (12 R351, R352; 01 R41). -/
def Esp.close (x : Esp) : Esp :=
  let b := espBlock ((x.block ++ List.replicate x.sect.lanes 0).take x.sect.lanes)
  { x with block := [], items := x.items ++ [.block b.1 b.2] }

/-- An array takes a DATA token (12 R351). -/
def State.espData (s : State) (cl u : Nat) (t : Token) : State :=
  let x := s.esp cl u
  let lanes : List (BitVec 16) := if t.tag = 2 then (List.range 4).map (lane 16 t.payload) else [0, 0, 0, 0]
  let y : Esp := { x with block := x.block ++ lanes }
  let s1 := s.setEsp cl u (if x.sect.lanes ≤ y.block.length then y.close else y)
  if t.tag = 2 then s1 else s1.modEsp cl x.head fun h => { h with status := h.status ||| 1 }

/-- An array takes an end marker (12 R352). -/
def State.espMark (s : State) (cl u : Nat) (t : Token) : State :=
  let x := s.esp cl u
  let rank := markRank t.payload
  let s1 :=
    if x.block = [] then s
    else if rank = 7 then
      (s.setEsp cl u { x with block := [] }).modEsp cl x.head fun h => { h with status := countIn h.status 16 16 }
    else (s.setEsp cl u x.close).modEsp cl x.head fun h => { h with status := h.status ||| 2 }
  s1.modEsp cl u fun x => { x with items := x.items ++ [.marker rank] }

/-- ESP_TOKEN_TAKE (12 R351, R352; 10 R280). -/
def execEspTokenTake (cl u : Nat) (s : State) : Out :=
  let x := s.esp cl u
  let H := s.esp cl x.head
  let pop (s : State) : State := s.popOp cl (espOp u) 0
  if x.st ≠ .bound ∨ H.stopped = true ∨ s.espLive cl u H = false ∨ 4 ≤ s.espHeld cl u then .next s
  else match frontOf (s.inAt (.oper cl (espOp u) 0)).q with
    | none => .next s
    | some t => .next (match t.kind with
      | .permit => s
      | .ctrl => pop s
      | .data => ((pop s).espData cl u t).form cl x.head
      | .mark => if t.isEnd then ((pop s).espMark cl u t).form cl x.head else s)

/-! ### The output stream -/

/-- A completion of a graph: cause 0 end of stream, 1 unload (12 R360). -/
def State.espReport (s : State) (cl u : Nat) (H : Esp) (cause : Nat) : State :=
  if fldN H.bind 4 2 = 1 then
    s.postEvent (cl / 32) (fldN H.bind 2 2) (espRecord cl u cause H.vcount) (put (fldN H.bind 32 32) 0) 0
  else if fldN H.bind 4 2 = 2 then s.postEl H.proc 2 cause (fldN H.bind 2 2) (fldN H.bind 32 32 ||| u * 2 ^ 32)
  else s

/-- Releases a graph: the normaliser, the completion, and its arrays, whose STATUS stays (12 R357, R359, R361). -/
def State.espRelease (s : State) (cl h : Nat) : State :=
  let H := s.esp cl h
  let s1 := match H.nrm with
    | some j => s.setNrm cl j { s.nrm cl j with graph := none }
    | none => s
  let s2 := if H.st = .bound then s1.espReport cl h H 1 else s1
  H.units.foldl (fun s u => s.modEsp cl u fun x => { Esp.reset with status := x.status }) s2

/-- The end of a graph that a cancellation brings: a GUNLOAD of it that had begun responds as it would have (12 R357, R363);
`data` marks one that has. -/
def State.espEnd (s : State) (cl h : Nat) : State :=
  let n : Word := (s.esp cl h).vcount.zeroExtend 64
  let mine (r : Req) : Bool := r.kind == .gunload && r.data != [] && fldN r.a 23 8 == cl && fldN r.a 14 5 == h
  s.procs.foldl (fun s e => (e.2.parked.filter mine).foldl (fun s r => finishServed e.1 r (.word s n)) s) (s.espRelease cl h)

/-- ESP_ROW_OUTPUT (12 R353, R360): the head sends its next token; a cancelled graph ends once all is sent (12 R363). -/
def execEspRowOutput (cl u : Nat) (s : State) : Out :=
  let H := s.esp cl u
  if H.st = .free ∨ H.head ≠ u ∨ s.eventHeld (cl / 32) (espRecord cl u 0 0) 46 = true then .next s
  else match H.outq with
    | [] => .next (if H.closing then s.espEnd cl u else s)
    | ([], _) :: rest => .next (s.setEsp cl u { H with outq := rest })
    | (t :: ts, vec) :: rest =>
      if s.endRoom cl (espOp u) 0 t then
        let s1 := s.opSend cl (espOp u) 0 [t]
        if ts ≠ [] then .next (s1.setEsp cl u { H with outq := (ts, vec) :: rest })
        else
          let H1 : Esp := { H with outq := rest, vcount := if vec then H.vcount + 1 else H.vcount }
          let s2 := s1.setEsp cl u H1
          .next (if !vec && decide (3 ≤ markRank t.payload) then s2.espReport cl u H1 0 else s2)
      else .next s

/-! ### At issue -/

/-- Group's checks (12 R357; 15 R397). -/
def State.groupFault (s : State) (p : Nat) (job : Option Nat) (e : Word) : Option Flt :=
  if fldN e 32 32 ≠ 0 ∨ bitOf e 31 = true ∨ fldN e 19 4 ≠ 1 ∨ fldN e 14 5 > 3 ∨ fldN e 0 14 ≠ 0 then some fltBounds
  else if s.clusterOk p job (fldN e 23 8) = false then some fltProt
  else none

/-- GLOAD's issue faults (12 R357). -/
def gloadFaults (e : Env) (s : State) : Option Flt :=
  let job := s.jobOf e.p e.c
  match s.groupFault e.p job e.a with
  | some f => some f
  | none =>
    if aSlot e.b = 0 then some fltProt
    else if fldN e.b 0 3 ≠ 0 then some fltBounds
    else s.shortFault e.p job e.b 8 .load

/-- GBIND's issue faults (12 R357). -/
def gbindFaults (e : Env) (s : State) : Option Flt :=
  match s.groupFault e.p (s.jobOf e.p e.c) e.a with
  | some f => some f
  | none => if fldN e.b 8 24 ≠ 0 ∨ fldN e.b 0 2 ≠ 0 ∨ fldN e.b 4 2 = 3 then some fltBounds else none

/-- GUNLOAD's issue faults (12 R357). -/
def gunloadFaults (e : Env) (s : State) : Option Flt := s.groupFault e.p (s.jobOf e.p e.c) e.a

/-- GLOAD (12 R357). -/
def execGload (f : RForm) (s : State) : Out := issue (viewR 0xE5 f) (portEffect .gload modOf gloadFaults) s
/-- GBIND (12 R357). -/
def execGbind (f : RForm) (s : State) : Out := issue (viewR 0xE6 f) (portEffect .gbind modOf gbindFaults) s
/-- GUNLOAD (12 R357). -/
def execGunload (f : RForm) (s : State) : Out := issue (viewR 0xE7 f) (portEffect .gunload modOf gunloadFaults) s

/-! ### Serving -/

/-- GRAPH_WIDTH (16 R421). -/
def fltGraphWidth : Flt := { code := 11 }
/-- GRAPH_CAPACITY (16 R421). -/
def fltGraphCap : Flt := { code := 12 }

/-- A request of the graph instructions. -/
def ReqKind.graph : ReqKind → Bool
  | .gload | .gbind | .gunload => true
  | _ => false

/-- The arrays that a request concerns: those of the graph it names, and for a GLOAD all that its image may take, of which `b2`
holds the header once the request has begun and read it (12 R358; log entry 61). -/
def State.arraysOf (s : State) (r : Req) : List Nat :=
  let cl := fldN r.a 23 8
  let u := fldN r.a 14 5
  if r.kind = .gload then
    (List.range (if r.wide ≠ 0 ∧ fldN r.b2 48 16 = 1 then min 4 (fldN r.b2 40 8) else 4)).map (u + ·)
  else u :: (List.range 4).filter fun v => (s.esp cl v).st != .free && (s.esp cl v).head == u

/-- A request stands where it is performed, or is held in the middle of its reads by a page miss, an error or a domain
(12 R358). -/
def Req.unfinished (r : Req) (held : Bool) : Bool := r.kind.graph && (!held || r.code == 6 || r.code == 21 || r.code == 23)

/-- No earlier request to an array of the graph is still performed (12 R358). -/
def State.graphTurn (s : State) (r : Req) : Bool :=
  !(s.procs.any fun e =>
    ((e.2.parked.filter (·.unfinished false)) ++ e.2.held.filter (·.unfinished true)).any fun x =>
      x.rid != r.rid && fldN x.a 23 8 == fldN r.a 23 8 && (s.arraysOf x).any (s.arraysOf r).contains)

/-- An image in an object of another node is asked for its state first (22 R547); here its state is at hand. `f` gets the words
of the answer in hand and the state code. -/
def State.imageState (s : State) (p : Nat) (r : Req) (w : Nat) (f : Nat → Nat → Served) : Served :=
  if s.ownNode (wnNode w) then f 0 (objCode (s.obj (wnSerial w)).st)
  else match r.data with
    | [] => s.objectAtHome p r w 0
    | d :: _ => f 1 (fldN d 0 4)

/-- SEALED or DURABLE (07 R216). -/
def sealedCode (c : Nat) : Bool := c == 1 || c == 2

/-- Configures the arrays of a graph (12 R350, R357). -/
def State.installGraph (s : State) (cl u p serial : Nat) (ws : List Word) : State :=
  let h := ws.headD 0
  let narr := fldN h 40 8
  let st := sectionStarts ws narr 1
  let secs := st.1.map (sectionAt ws)
  let wmax := (secs.flatMap fun S => nodeWidths S.nodes).foldl Nat.max 0
  let depth := (secs.map sectionDepth).foldl Nat.max 0
  let base : Esp := { Esp.reset with st := .loaded, head := u, narr := narr, wmax := wmax, depth := depth, rows := ghRows h,
                                     scales := scalesOf ws (ghRows h) st.2, proc := p, region := (s.proc p).region,
                                     serial := serial }
  secs.zipIdx.foldl (fun s x => s.modEsp cl (u + x.2) fun y => { base with sect := x.1, status := y.status }) s

/-- GLOAD on its whole image (12 R357). -/
def State.gloadImage (s : State) (p : Nat) (r : Req) (w : Nat) (ws : List Word) : Served :=
  let cl := fldN r.a 23 8
  let u := fldN r.a 14 5
  let st := sectionStarts ws (fldN (ws.headD 0) 40 8) 1
  let secs := st.1.map (sectionAt ws)
  if st.1.any fun i => sectionTooBig (ws.getD i 0) then .fail s fltGraphCap r
  else if graphOk ws = false then .fail s fltBounds r
  else if (secs.flatMap fun S => nodeWidths S.nodes).any fun n => decide (n > 40) then .fail s fltGraphWidth r
  else
    let s1 := s.installGraph cl u p (if s.ownNode (wnNode w) then wnSerial w else 0) ws
    .word s1 (put (s1.esp cl u).depth 8 ||| put (s1.esp cl u).wmax 0)

/-- GLOAD once the object's state is known (12 R357): `k` words in hand are the answer of that question. -/
def State.gloadRead (s : State) (p : Nat) (r : Req) (w k code : Nat) : Served :=
  let cl := fldN r.a 23 8
  let u := fldN r.a 14 5
  s.readWords p r w 1 k fun hs s1 =>
    let h := hs.headD 0
    let narr := fldN h 40 8
    if sealedCode code = false then .fail s1 fltProt r
    else if fldN h 48 16 ≠ 1 ∨ narr = 0 ∨ narr > 4 then .fail s1 fltBounds r
    else if u + narr > 4 then .fail s1 fltGraphCap r
    else if (List.range narr).any fun j => (s1.esp cl (u + j)).st != .free then .fail s1 fltProt r
    else if fldN h 0 32 = 0 then .fail s1 fltBounds r
    else
      let q : Req := { r with b2 := h }
      s1.readWords p q w (fldN h 0 32) k fun ws s2 => s2.gloadImage p q w ws

/-- GLOAD (12 R357, R358; 24 R537). -/
def serveGload : Server := fun p r s =>
  if s.graphTurn r = false then .wait s
  else if s.reduced then .fail s fltGraphCap r
  else match (if r.wide ≠ 0 then .ok r.wide else s.resolveHandle (r.job.getD 0) r.b 8) with
    | .error x => .fail s x r
    | .ok w =>
      let q : Req := { r with wide := w }
      s.imageState p q w fun k code => s.gloadRead p { q with b2 := 0 } w k code

/-- A normaliser that a graph may bind now (12 R355). -/
def State.nrmIdle (s : State) (cl j : Nat) : Bool := (s.inAt (.oper cl (nrmOp j) 0)).q.isEmpty && (s.nrm cl j).w0.isNone

/-- Binds a normaliser to a graph (12 R355). -/
def State.bindNrm (s : State) (cl j h : Nat) (H : Esp) : State :=
  let x := s.nrm cl j
  s.setNrm cl j { x with ctrl := 5, row := 0, graph := some h
                         table := H.scales.zipIdx.foldl (fun m y => m.set 0 y.2 y.1) x.table }

/-- GBIND (12 R355, R357). -/
def serveGbind : Server := fun p r s =>
  let cl := fldN r.a 23 8
  let u := fldN r.a 14 5
  let H := s.esp cl u
  let j := fldN r.b 6 1
  if s.graphTurn r = false then .wait s
  else if H.st ≠ .loaded ∨ H.head ≠ u ∨ H.stopped = true then .fail s fltProt r
  else if bitOf r.b 7 && (s.nrm cl j).graph.isSome then .fail s fltProt r
  else if bitOf r.b 7 && !s.nrmIdle cl j then .park s r
  else
    let s1 := if bitOf r.b 7 then s.bindNrm cl j u H else s
    let H1 : Esp := { H with st := .bound, bind := r.b, status := 0, vcount := 0, proc := p, region := (s.proc p).region,
                             nrm := if bitOf r.b 7 then some j else none }
    .ack (H.units.foldl (fun s v => s.modEsp cl v fun x => { x with st := .bound, status := 0 }) (s1.setEsp cl u H1))

/-- GUNLOAD (12 R357): it waits for the vectors already blocked; `data` marks that it has begun. -/
def serveGunload : Server := fun _ r s =>
  let cl := fldN r.a 23 8
  let u := fldN r.a 14 5
  let H := s.esp cl u
  if s.graphTurn r = false then .wait s
  else if H.st = .free ∨ H.head ≠ u ∨ (H.stopped = true ∧ r.data = []) then .word s 0xFFFFFFFFFFFFFFFF
  else if H.outq = [] then .word (s.espRelease cl u) (H.vcount.zeroExtend 64)
  else .park (s.setEsp cl u { H with stopped := true }) { r with data := [1] }

/-- A graph of a cancelled region ends (12 R363). -/
def State.espCancel (s : State) (cl u : Nat) : State :=
  let H := s.esp cl u
  if H.st = .free ∨ H.head ≠ u then s
  else if H.outq = [] then s.espEnd cl u
  else s.setEsp cl u { H with stopped := true, closing := true }

/-! ### Registers -/

/-- A register of an array (12 R361): none where nothing is assigned. -/
def espReg (x : Esp) (u reg : Nat) : Option Word :=
  let hd := x.st != .free && x.head == u
  let sc (i : Nat) : Word := (x.scales.getD i 0).zeroExtend 64
  if reg = 0 then
    some (if x.st = .free then 0
      else put (if x.st = .bound then 2 else 1) 0 ||| put x.head 2 ||| put x.narr 4 ||| put x.sect.nodes.length 8 |||
        put x.sect.taps.length 20 ||| put x.sect.lanes 29 ||| put x.wmax 36 ||| put x.depth 44)
  else if reg = 1 then some (if hd || x.st == .free then x.status else 0)
  else if reg = 2 then some (if hd && x.st == .bound then x.bind else 0)
  else if reg = 3 then some (if hd then x.vcount.zeroExtend 64 else 0)
  else if 4 ≤ reg ∧ reg ≤ 131 then
    some (if hd then sc (2 * (reg - 4)) ||| (sc (2 * (reg - 4) + 1) <<< 32) else 0)
  else none

end Sys2Proof.Machine
end

