-- ==== Sys2Proof/Machine/Permits.lean ====
section
/-! DEFINITION. Keys and permits (13 R365-R367, R376-R377, R387): the key table of a die, KLEND, and the sweep that takes
permits back. -/

namespace Sys2Proof.Machine

/-- Key `k` of die `d`. -/
def State.key (s : State) (d k : Nat) : Key := (s.die d).keys.get Key.reset k
/-- Writes key `k` of die `d`. -/
def State.setKey (s : State) (d k : Nat) (x : Key) : State :=
  s.modDie d fun D => { D with keys := D.keys.set Key.reset k x }

/-- A key becomes FREE with a TAINT bit; a reservation mark stays (13 R367, R374). -/
def State.freeKey (s : State) (d k : Nat) (taint : Bool) : State :=
  s.setKey d k { Key.reset with taint := taint, res := (s.key d k).res }

/-- A key lies in the range of a job on a die (13 R366, 15 R402). -/
def State.keyInRange (s : State) (d job k : Nat) : Bool :=
  let w := s.ctlReg d (4 * (job % 256) + 1)
  decide (fldN w 0 12 ≤ k) && decide (k < fldN w 0 12 + fldN w 16 13)

/-- A lent key returns (13 R376, R377): it is FREE, and a NOTE is posted with its code. -/
def State.returnKey (s : State) (d k : Nat) (taint : Bool) (code : Nat) : State :=
  let x := s.key d k
  if x.st ≠ .lent then s
  else
    let s1 := s.freeKey d k taint
    match x.note with
    | none => s1
    | some n => s1.postEl n.1 5 code n.2 k

/-! ### The sweep -/

/-- A token is a permit of one of some keys. -/
def permitOf (ks : List Nat) (t : Token) : Bool := t.kind == .permit && ks.contains (fldN t.payload 0 12)
/-- Key and TAINT of a permit. -/
def permitPair (t : Token) : Nat × Bool := (fldN t.payload 0 12, bitOf t.payload 12)
/-- An entry is such a permit. -/
def entryPermit (ks : List Nat) (e : Entry) : Bool := match e with | .tok t => permitOf ks t | .resv _ => false
/-- Key and TAINT of the permits among entries. -/
def permitsIn (ks : List Nat) (q : List Entry) : List (Nat × Bool) :=
  q.filterMap fun e => match e with | .tok t => if permitOf ks t then some (permitPair t) else none | .resv _ => none
/-- Entries without such permits. -/
def noPermits (ks : List Nat) (q : List Entry) : List Entry := q.filter fun e => !entryPermit ks e
/-- The permit on a link. -/
def linkPermits (ks : List Nat) (t : Option Token) : List (Nat × Bool) :=
  match t with | some t => if permitOf ks t then [permitPair t] else [] | none => []
/-- A link without such a permit. -/
def noLink (ks : List Nat) (t : Option Token) : Option Token := t.filter fun t => !permitOf ks t

/-- The permits of an input channel. -/
def InChan.permits (ks : List Nat) (c : InChan) : List (Nat × Bool) := permitsIn ks c.q ++ linkPermits ks c.link
/-- An input channel without them. -/
def InChan.strip (ks : List Nat) (c : InChan) : InChan := { c with q := noPermits ks c.q, link := noLink ks c.link }

/-- The permits an element holds: its hold set's are tainted (13 R377). -/
def Proc.permits (ks : List Nat) (P : Proc) : List (Nat × Bool) :=
  (P.hold.filterMap fun h => if ks.contains h.key.toNat then some (h.key.toNat, true) else none) ++
    P.ins.toList.flatMap (InChan.permits ks) ++ P.outs.toList.flatMap (permitsIn ks)
/-- An element without them. -/
def Proc.strip (ks : List Nat) (P : Proc) : Proc :=
  { P with hold := P.hold.filter (fun h => !ks.contains h.key.toNat), ins := P.ins.map (InChan.strip ks),
           outs := P.outs.map (noPermits ks) }

/-- The permits in a router. -/
def Router.permits (ks : List Nat) (R : Router) : List (Nat × Bool) :=
  R.inq.toList.flatMap fun q => q.filterMap fun x => if permitOf ks x.tok then some (permitPair x.tok) else none
/-- Number of a router input in `inq`. -/
def inqIdx : RouterIn → Nat
  | .mesh d => d % 4
  | .el j => 4 + j % 4
  | .att p i => 8 + 4 * (p % 2) + i % 4
/-- A router without them; an input whose held head is taken holds nothing. -/
def Router.strip (ks : List Nat) (R : Router) : Router :=
  { R with
    inq := R.inq.map fun q => q.filter fun x => !permitOf ks x.tok
    stuck := R.stuck.filter fun y => match (vget R.inq (inqIdx y.1)).head? with | some x => !permitOf ks x.tok | none => false }

/-- The permits at the operators and routers of a cluster that lie at the routers `here` names. -/
def Cluster.permits (ks : List Nat) (here : Nat → Bool) (C : Cluster) : List (Nat × Bool) :=
  (C.opIn.flatMap fun e => if here (e.1 / 4 % 16) then e.2.permits ks else []) ++
  (C.opOut.flatMap fun e => if here (e.1 / 4 % 16) then permitsIn ks e.2 else []) ++
  (C.routers.flatMap fun e => if here e.1 then e.2.permits ks else [])
/-- A cluster without them. -/
def Cluster.strip (ks : List Nat) (here : Nat → Bool) (C : Cluster) : Cluster :=
  { C with
    opIn := C.opIn.foldl (fun m e => if here (e.1 / 4 % 16) then m.set InChan.reset e.1 (e.2.strip ks) else m) C.opIn
    opOut := C.opOut.foldl (fun m e => if here (e.1 / 4 % 16) then m.set [] e.1 (noPermits ks e.2) else m) C.opOut
    routers := C.routers.foldl (fun m e => if here e.1 then m.set Router.reset e.1 (e.2.strip ks) else m) C.routers }

/-- The element of a port, or the one at its router; a tile has none. -/
def portElem : InPort → Option Nat
  | .elem e _ => some e
  | .oper cl k _ => some (16 * cl + k / 4 % 16)
  | .tile _ _ _ => none

/-- A caught token that waits to enter a channel is such a permit, at a port whose element `sel` names (16 R444). -/
def Caught.permit (ks : List Nat) (sel : Nat → Bool) (x : Caught) : Bool :=
  match x with
  | .token port t => permitOf ks t && (match portElem port with | some e => sel e | none => false)
  | _ => false
/-- Its key and TAINT. -/
def Caught.pair (x : Caught) : Nat × Bool := match x with | .token _ t => permitPair t | _ => (0, false)

/-- The permits of some keys at the elements of die `d` that `sel` names, with what lies at their routers (13 R377). -/
def State.sweptPermits (s : State) (d : Nat) (ks : List Nat) (sel : Nat → Bool) : List (Nat × Bool) :=
  (s.procs.flatMap fun e => if e.1 < 4096 ∧ dieOf e.1 = d ∧ sel e.1 = true then e.2.permits ks else []) ++
  (s.clusters.flatMap fun e => if e.1 / 32 = d then e.2.permits ks (fun r => sel (16 * e.1 + r)) else []) ++
  ((s.die d).regions.flatMap fun g => (g.2.entering.filter (Caught.permit ks sel)).map Caught.pair) ++
  ((s.die d).lends.filterMap fun x => if sel x.1 && permitOf ks x.2.2 then some (permitPair x.2.2) else none)

/-- Takes those permits away. -/
def State.sweep (s : State) (d : Nat) (ks : List Nat) (sel : Nat → Bool) : State :=
  let s1 := s.procs.foldl (fun s e => if e.1 < 4096 ∧ dieOf e.1 = d ∧ sel e.1 = true then s.modProc e.1 (Proc.strip ks) else s) s
  let s2 := s.clusters.foldl (fun s e =>
    if e.1 / 32 = d then s.modCluster e.1 (Cluster.strip ks fun r => sel (16 * e.1 + r)) else s) s1
  s2.modDie d fun D =>
    { D with
      lends := D.lends.filter fun x => !(sel x.1 && permitOf ks x.2.2)
      regions := D.regions.map fun g => (g.1, { g.2 with entering := g.2.entering.filter fun x => !x.permit ks sel }) }

/-- The lent keys of a job on a die. -/
def State.lentKeys (s : State) (d job : Nat) : List Nat :=
  (s.die d).keys.filterMap fun e => if e.2.st = .lent ∧ e.2.job = job then some e.1 else none

/-- CANCEL takes back the lent keys of a job whose permits lie at some elements (13 R377). -/
def State.returnPermits (s : State) (d job : Nat) (sel : Nat → Bool) : State :=
  let ks := s.lentKeys d job
  (s.sweptPermits d ks sel).foldl (fun s x => s.returnKey d x.1 x.2 1) (s.sweep d ks sel)

/-- The end of a job on a die: its lent keys are FREE with TAINT 1, and their permits are discarded (13 R377). -/
def State.endKeys (s : State) (d job : Nat) : State :=
  let ks := s.lentKeys d job
  let s1 := ks.foldl (fun s k => s.freeKey d k true) (s.sweep d ks fun _ => true)
  s1.modDie d fun D =>
    { D with tileIn := D.tileIn.foldl (fun m e => m.set InChan.reset e.1 (e.2.strip ks)) D.tileIn }

/-! ### KLEND -/

/-- Element `e` stands in a region of a job. -/
def State.elemOfJob (s : State) (e job : Nat) : Bool := match s.regionOf e with | some R => R.job == job | none => false

/-- KLEND's issue faults of the lend and query forms (13 R387, R388; 15 R397). -/
def klendFaults (lend : Bool) (e : Env) (s : State) : Option Flt :=
  let d := dieOf e.p
  match s.jobOf e.p e.c with
  | none => some fltProt
  | some j =>
    if fldN e.a 12 52 ≠ 0 then some fltKeyRange
    else if lend = true ∧ (fldN e.b 21 43 ≠ 0 ∨ fldN e.b 18 2 ≠ 0 ∨ fldN e.b 12 4 ≠ 0) then some fltBounds
    else if lend = true ∧ (dieOf (fldN e.b 0 12) ≠ d ∨ s.elemOfJob (fldN e.b 0 12) j = false) then some fltProt
    else if s.keyInRange d j (fldN e.a 0 12) then none
    else some fltKeyRange

/-- KLEND (13 R387). -/
def execKlend (f : RForm) (s : State) : Out := issue (viewR 0xA7 f) (portEffect .klend modOf (klendFaults true)) s

/-- KLEND.q (13 R387). -/
def execKlendQ (f : RForm) (s : State) : Out := issue (viewR 0xA7 f) (portEffect .klendQ modOf (klendFaults false)) s

/-- KLEND.ret (13 R376, R387): a core has no hold set and faults; an element's entry goes at issue; its TAINT travels as the request's mode. -/
def execKlendRet (f : RForm) (s : State) : Out :=
  issue (viewR 0xA7 f) (fun e s =>
    if isCore e.p = true ∨ (s.jobOf e.p e.c).isNone = true then .error fltProt
    else if fldN e.a 12 52 ≠ 0 then .error fltKeyRange
    else match (s.proc e.p).hold.find? fun k => k.key.toNat == fldN e.a 0 12 with
      | none => .error fltProt
      | some k =>
        .ok ((s.modProc e.p fun P => { P with hold := P.hold.erase k }).pushReq e .klendRet (if k.taint then 1 else 0), .none)) s

/-- HOLDER of a key that unit `p` lends (13 R387). -/
def lender (p : Nat) : BitVec 16 := BitVec.ofNat 16 (if isCore p then 512 + (p - 4096) % 4 else p % 512)

/-- The context a return is noted to; a control core has no event lane (13 R376, 15 R548). -/
def noteOf (p : Nat) (r : Req) : Option (Nat × Nat) := if bitOf r.b 20 && !isCore p then some (p, r.ctx) else none

/-- A key is lent: the permit sets out for its channel (13 R376). -/
def State.lendKey (s : State) (p : Nat) (r : Req) (k : Nat) : State :=
  let d := dieOf p
  let x := s.key d k
  let t : Token := { kind := .permit, tag := 0, payload := put (if x.taint then 1 else 0) 12 ||| put k 0 }
  (s.setKey d k { st := .lent, taint := false, holder := lender p, job := r.job.getD 0, res := false, note := noteOf p r }).modDie d
    fun D => { D with lends := D.lends ++ [(fldN r.b 0 12, fldN r.b 16 2, t)] }

/-- KLEND at the dispatcher (13 R387). -/
def serveKlend : Server := fun p r s =>
  let k := fldN r.a 0 12
  let x := s.key (dieOf p) k
  match x.st with
  | .held => .word s 1
  | .lent => .word s 2
  | .free => if x.res then .word s 3 else .word (s.lendKey p r k) 0

/-- KLEND.ret at the dispatcher (13 R376, R387). -/
def serveKlendRet : Server := fun p r s => .word (s.returnKey (dieOf p) (fldN r.a 0 12) (r.mode % 2 == 1) 0) 0

/-- The code of a key's state (13 R365). -/
def keyCode : KeyState → Nat
  | .free => 0
  | .held => 1
  | .lent => 2

/-- The key word (13 R387). -/
def keyWord (x : Key) : Word :=
  put (if x.st = .free then 0xFFFF else x.holder.toNat) 48 ||| put (if x.res then 1 else 0) 3 |||
    put (if x.taint then 1 else 0) 2 ||| put (keyCode x.st) 0

/-- KLEND.q (13 R387). -/
def serveKlendQ : Server := fun p r s => .word s (keyWord (s.key (dieOf p) (fldN r.a 0 12)))

end Sys2Proof.Machine
end

