-- ==== Sys2Proof/Machine/Router.lean ====
section
/-! DEFINITION. Routers (10 R301-R307; 14 R389) with their watchpoints (16 R449): ROUTE_TOKEN, and the ways out of a router as
MARK and the completion of a region need them. -/

namespace Sys2Proof.Machine

/-! ### Geometry -/

/-- The router that mesh port `d` of a router joins: 0 W, 1 S, 2 E, 3 N (14 R389); none at the outer edge of the die. -/
def meshNext (cl r d : Nat) : Option (Nat × Nat) :=
  let row := cl % 32 / 8 * 4 + r / 4
  let col := cl % 8 * 4 + r % 4
  let go (row col : Nat) : Option (Nat × Nat) := some (cl / 32 * 32 + row / 4 * 8 + col / 4, row % 4 * 4 + col % 4)
  match d with
  | 0 => if col = 0 then none else go row (col - 1)
  | 1 => if row = 15 then none else go (row + 1) col
  | 2 => if col = 31 then none else go row (col + 1)
  | _ => if row = 0 then none else go (row - 1) col

/-- The input of the edge tile that the outer mesh port `d` of a router joins, that of the tile whose own port it is or else any: the
ports of a die are numbered W and E by row, then N and S by column (14 R389, log entry 10). -/
def tileAt (cl r d : Nat) : InPort :=
  let row := cl % 32 / 8 * 4 + r / 4
  let col := cl % 8 * 4 + r % 4
  let n := match d with | 0 => row | 2 => 16 + row | 3 => 32 + col | _ => 64 + col
  let x := Config.edgeInput (96 * (cl / 32) + n) % 32
  .tile (cl / 32) (((tilePorts (cl / 32)).findIdx? fun m => m == n).getD (x / 2)) (x % 2)

/-- Where a bit of a route entry sends a token: another router's input, an input channel, or nowhere. -/
inductive Egress where
  | mesh (cl r d : Nat)
  | chan (port : InPort)
  | nowhere
  deriving DecidableEq, Repr

/-- The way out that bit `b` of a route entry names (10 R302). One that names an attachment without an operator has never room
(log entry 124). -/
def egressOf (cl r b : Nat) : Egress :=
  if b < 4 then
    match meshNext cl r b with
    | some x => .mesh x.1 x.2 ((b + 2) % 4)
    | none => .chan (tileAt cl r b)
  else if b < 8 then .chan (.elem (16 * cl + r) (b - 4))
  else
    let k := 16 * ((b - 8) / 4) + r
    if k ≤ 26 then .chan (.oper cl k ((b - 8) % 4)) else .nowhere

/-- The bits set in a route entry. -/
def entryBits (e : BitVec 16) : List Nat := (List.range 16).filter fun b => e.getLsbD b

/-! ### Inputs -/

/-- Number of a router input. -/
def rinIdx (x : RouterIn) : Nat := inqIdx x

/-- The operator or element of a router input: its number among the units of a cut. -/
def srcUnit (cl r : Nat) : RouterIn → Nat
  | .mesh _ => 2 ^ 20
  | .el _ => 16 * cl + r
  | .att p _ => opUnit cl (16 * p + r)

/-- The output channel behind a router input. -/
def State.srcChan (s : State) (cl r : Nat) : RouterIn → List Entry
  | .mesh _ => []
  | .el j => vget (s.proc (16 * cl + r)).outs j
  | .att p i => s.opOut cl (16 * p + r) i

/-- The cut markers that wait at a source port. -/
def Router.marksAt (R : Router) (src : RouterIn) : List Token := (R.marks.filter fun x => x.1 == src).map (·.2)

/-- What leaves by a source port, in order: its cut markers, then its output channel (16 R430). -/
def State.srcPort (s : State) (cl r : Nat) (src : RouterIn) : List Entry :=
  ((s.router cl r).marksAt src).map .tok ++ s.srcChan cl r src

/-- Removes the first of what leaves by a source port. -/
def State.popSrc (s : State) (cl r : Nat) (src : RouterIn) : State :=
  let R := s.router cl r
  if (R.marksAt src).isEmpty then
    match src with
    | .mesh _ => s
    | .el j => s.modOut (16 * cl + r) j List.tail
    | .att p i => s.modOpOut cl (16 * p + r) i List.tail
  else s.setRouter cl r { R with marks := R.marks.eraseP fun x => x.1 == src }

/-- The tag of a source port for the router's position (10 R303). -/
def Router.outTag (R : Router) (src : RouterIn) : BitVec 8 :=
  (R.outtag.get 0 (rinIdx src - 4)).extractLsb' (8 * R.pos.toNat) 8

/-- A source port of a matrix engine or an Espalier array, whose results leave a frozen region (11 R336, 12 R362). -/
def engineOut (r : Nat) : RouterIn → Bool
  | .att p _ => decide ((opKind (16 * p + r)).1 < 2)
  | _ => false

/-- A token may leave a source port: its unit's region is not frozen, and what the unit has recorded stays but for its cut
marker (15 R418, 16 R430). -/
def State.mayLeave (s : State) (cl r : Nat) (src : RouterIn) (t : Token) : Bool :=
  match s.regionAt cl r with
  | none => true
  | some g =>
    let R := s.region (cl / 32) g
    t.isCut || ((R.st != .frozen || engineOut r src) && (match R.cut with | none => true | some k => !k.recorded.contains (srcUnit cl r src)))

/-- The progress ports of a watchdog word (16 R446). -/
def isProgressPort (wd : Word) (cbase cl r port : Nat) : Bool :=
  (List.range 3).any fun i =>
    fldN wd (16 * i) 4 == port && port != 15 && fldN wd (16 * i + 4) 4 == r && fldN wd (16 * i + 8) 8 + cbase == cl % 32

/-- A token leaves a progress port: the watchdog's timer restarts (16 R447). -/
def State.progress (s : State) (cl r : Nat) (src : RouterIn) : State :=
  match s.regionAt cl r with
  | none => s
  | some g =>
    let R := s.region (cl / 32) g
    if isProgressPort R.wd R.cbase cl r (rinIdx src - 4) then
      s.modRegion (cl / 32) g fun R => { R with wdStart := s.tai }
    else s

/-- A token leaves its source port for the router's input, which holds 2, under the tag of this cycle (10 R303, R304). -/
def State.pull (s : State) (cl r : Nat) (src : RouterIn) : State :=
  match frontOf (s.srcPort cl r src) with
  | none => s
  | some t =>
    let R := s.router cl r
    if (vget R.inq (rinIdx src)).length < 2 ∧ s.mayLeave cl r src t = true then
      ((s.popSrc cl r src).enterRouter cl r (rinIdx src)
        { route := R.outTag src, tok := t, sender := (s.regionAt cl r).map fun g => (cl / 32, g), ent := none, saved := [] }).progress cl r src
    else s

/-! ### Leaving -/

/-- A way out that a token still takes: not an input for which an image holds the token (16 R441). -/
def RTok.takes (x : RTok) : Egress → Bool
  | .chan port => !x.saved.contains port
  | _ => true

/-- A way out has space (10 R304). -/
def State.egressRoom (s : State) : Egress → Bool
  | .mesh cl r d => decide ((vget (s.router cl r).inq d).length < 2)
  | .chan port => (s.inAt port).link.isNone
  | .nowhere => false

/-- A token goes out. -/
def State.sendOut (s : State) (x : RTok) : Egress → State
  | .mesh cl r d => s.enterRouter cl r d x
  | .chan port => s.modInAt port fun c => { c with link := some x.tok, linkSrc := x.sender }
  | .nowhere => s

/-! ### Routes as they stand -/

/-- The routers that a token of a tag passes, from a worklist of routers. -/
def State.spread (s : State) (tag : BitVec 8) : Nat → List (Nat × Nat) → List (Nat × Nat) → List (Nat × Nat)
  | 0, _, seen => seen
  | _ + 1, [], seen => seen
  | n + 1, x :: todo, seen =>
    if seen.contains x then s.spread tag n todo seen
    else
      let R := s.router x.1 x.2
      let next := (entryBits (R.entryOf tag)).filterMap fun b =>
        match egressOf x.1 x.2 b with | .mesh c r _ => some (c, r) | _ => none
      s.spread tag n (todo ++ next) (seen ++ [x])

/-- The input channels that a token of a tag reaches from a router, by the entries as they stand (16 R428). -/
def State.reaches (s : State) (cl r : Nat) (tag : BitVec 8) : List InPort :=
  (s.spread tag 4096 [(cl, r)] []).flatMap fun x =>
    let R := s.router x.1 x.2
    (entryBits (R.entryOf tag)).filterMap fun b =>
      match egressOf x.1 x.2 b with | .chan p => some p | _ => none

/-- The routers that a token of a tag passes, from a worklist of routers with the hops to each, nearest first. -/
def State.spreadHops (s : State) (tag : BitVec 8) : Nat → List ((Nat × Nat) × Nat) → List ((Nat × Nat) × Nat) → List ((Nat × Nat) × Nat)
  | 0, _, seen => seen
  | _ + 1, [], seen => seen
  | n + 1, x :: todo, seen =>
    if seen.any (fun y => y.1 == x.1) then s.spreadHops tag n todo seen
    else
      let next := (entryBits ((s.router x.1.1 x.1.2).entryOf tag)).filterMap fun b =>
        match egressOf x.1.1 x.1.2 b with | .mesh c r _ => some ((c, r), x.2 + 1) | _ => none
      s.spreadHops tag n (todo ++ next) (seen ++ [x])

/-- The hops that a token in a router still has to an input channel that it reaches. -/
def State.hops (s : State) (cl r : Nat) (x : RTok) (port : InPort) : Nat :=
  let bits := entryBits (x.ent.getD ((s.router cl r).entryOf x.route))
  if bits.any (fun b => egressOf cl r b == .chan port) then 0
  else
    let start := bits.filterMap fun b => match egressOf cl r b with | .mesh c q _ => some ((c, q), 1) | _ => none
    match (s.spreadHops x.route 4096 start []).find? fun y =>
      (entryBits ((s.router y.1.1 y.1.2).entryOf x.route)).any fun b => egressOf y.1.1 y.1.2 b == .chan port with
    | some y => y.2
    | none => 0

/-- The input channels that a token in a router still reaches: by the entry it entered under, then by the entries as they
stand. -/
def State.tokReaches (s : State) (cl r : Nat) (x : RTok) : List InPort :=
  ((entryBits (x.ent.getD ((s.router cl r).entryOf x.route))).flatMap fun b =>
    match egressOf cl r b with
    | .chan p => [p]
    | .mesh c q _ => s.reaches c q x.route
    | .nowhere => []).filter fun p => !x.saved.contains p

/-! ### Going out -/

/-- The effect of a CTRL payload on a router (10 R306). -/
def Router.control (R : Router) (w : Word) : Router :=
  let gen : BitVec 8 := fld w 0 8
  if gen = R.lastgen then R
  else { R with pos := if bitOf w 10 then fld w 8 2 else R.pos + 1, lastgen := gen }

/-- A region records a cut. -/
def State.cutAt (s : State) (d : Nat) (g : Option Nat) : Bool :=
  match g with
  | none => false
  | some g => (s.region d g).cut.isSome

/-- A CTRL token has left: the position changes, when no cut of the region is in progress (10 R306, 16 R429). -/
def State.controlled (s : State) (cl r : Nat) (t : Token) : State :=
  if t.kind ≠ .ctrl then s
  else
    let R := s.router cl r
    s.setRouter cl r (if s.cutAt (cl / 32) (s.regionAt cl r) then { R with pending := R.pending ++ [t.payload &&& 0x7FF] }
      else R.control t.payload)

/-- A token waits at its router for a cut of the router's region: a CTRL token while the image is written, as its record of the
router is made; and during a SAVE a token that counts as caught (16 R429, R441; log entry 96). -/
def State.cutHolds (s : State) (cl r : Nat) (x : RTok) : Bool :=
  match s.regionAt cl r with
  | none => false
  | some g => match (s.region (cl / 32) g).cut with
    | none => false
    | some c => (x.tok.kind == .ctrl && c.image.isSome) ||
      (decide (2 ≤ c.kind) && (s.tokReaches cl r x).any fun p => match p with | .tile _ _ _ => false | _ => true)

/-- OP0 and OP1 of a held token (10 R304). -/
def heldFault (code cause : Nat) (t : Token) : Flt :=
  let k : Nat := match t.kind with | .data => 0 | .mark => 1 | .permit => 2 | .ctrl => 3
  { code := code, cause := cause, op0 := some t.payload, op1 := some (put k 3 ||| put t.tag.toNat 0) }

/-- Target word of a router: KIND 3 (16 R423). The position is the one by which the token was routed (10 R304). -/
def State.routerTarget (s : State) (cl r : Nat) (x : RTok) : Word :=
  put 3 61 ||| put (cl / 32) 58 ||| put ((s.regionAt cl r).getD 0) 52 ||| put cl 0 ||| put r 8 |||
    put (if x.ent.isSome then x.pos else (s.router cl r).pos).toNat 12 ||| put x.route.toNat 16

/-- Target word of a watchpoint: KIND 5 (16 R423). -/
def State.wpTarget (s : State) (cl r w : Nat) : Word :=
  put 5 61 ||| put (cl / 32) 58 ||| put ((s.regionAt cl r).getD 0) 52 ||| put cl 0 ||| put r 8 ||| put w 12

/-- The token at a router input is held by a fault that freezes the region (10 R304, 16 R449). -/
def State.holdTok (s : State) (cl r : Nat) (src : RouterIn) (w : Option Nat) (f : Flt) (target : Word) : State :=
  let R := s.router cl r
  (s.setRouter cl r { R with stuck := R.stuck ++ [(src, w)] }).freezeBy (cl / 32) (s.regionAt cl r) f target

/-! ### Watchpoints -/

/-- PORT of a bit of a route entry (16 R449). -/
def wpPort (b : Nat) : Nat := if 8 ≤ b then b - 8 else if 4 ≤ b then b + 4 else 15 - b

/-- Number of a token's kind (06 R171). -/
def Kind.code : Kind → Nat
  | .data => 0
  | .mark => 1
  | .permit => 2
  | .ctrl => 3

/-- Watchpoint `w` of a router matches a token about to leave by `bits` (16 R449). -/
def Router.wpMatch (R : Router) (w : Nat) (bits : List Nat) (t : Token) : Bool :=
  let ctl := R.wp.get 0 (3 * w)
  let mask := R.wp.get 0 (3 * w + 2)
  bitOf ctl 31 && bits.any (fun b => wpPort b == fldN ctl 16 4) && bitOf ctl (8 + t.tag.toNat) &&
    bitOf ctl (4 + t.kind.code) && (t.payload &&& mask) == (R.wp.get 0 (3 * w + 1) &&& mask)

/-- STOP acts: in DEBUG mode and not together with SECURE (24 R542, R543). -/
def State.stopsActs (s : State) : Bool := s.debugMode && !s.secureMode

/-- The watchpoints, in order, met by a token about to leave: each that matches counts once for the token, and the first that
stops it holds it. -/
def State.watch (s : State) (cl r : Nat) (src : RouterIn) (bits : List Nat) (t : Token) : List Nat → State × Option Nat
  | [] => (s, none)
  | w :: ws =>
    let R := s.router cl r
    if R.wpMatch w bits t && !R.passWp.contains (src, w) then
      let ctl := R.wp.get 0 (3 * w)
      let ctl' : Word := (ctl &&& 0x0000FFFFFFFFFFFF) ||| put (satInc 16 (fldN ctl 48 16)) 48
      let s1 := s.setRouter cl r { R with wp := R.wp.set 0 (3 * w) ctl', passWp := R.passWp ++ [(src, w)] }
      if bitOf ctl 30 && s.stopsActs then (s1, some w) else s1.watch cl r src bits t ws
    else s.watch cl r src bits t ws

/-! ### The step -/

/-- The head of a router input, with its rest, taken out (10 R304). -/
def State.popRin (s : State) (cl r : Nat) (src : RouterIn) : State :=
  let R := s.router cl r
  s.setRouter cl r { R with
    inq := vset R.inq (rinIdx src) (vget R.inq (rinIdx src)).tail
    passWp := R.passWp.filter fun x => x.1 != src }

/-- The head of a router input leaves, waits, or is held (10 R304, R306; 16 R449). -/
def State.routeHead (s : State) (cl r : Nat) (src : RouterIn) : State :=
  let R := s.router cl r
  match vget R.inq (rinIdx src) with
  | [] => s
  | x :: _ =>
    if (R.stuck.any fun y => y.1 == src) || s.cutHolds cl r x then s
    else
      let e := x.ent.getD (R.entryOf x.route)
      if e = 0 then s.holdTok cl r src none (heldFault 7 0 x.tok) (s.routerTarget cl r x)
      else
        let bits := entryBits e
        let outs := (bits.map (egressOf cl r)).filter x.takes
        if outs.all s.egressRoom then
          let w := s.watch cl r src bits x.tok [0, 1]
          match w.2 with
          | some n => w.1.holdTok cl r src (some n) (heldFault 18 2 x.tok) (s.wpTarget cl r n)
          | none => (outs.foldl (fun s o => s.sendOut x o) (w.1.popRin cl r src)).controlled cl r x.tok
        else s

/-- ROUTE_TOKEN (10 R304): a token leaves its source port while the router's input has room, and the head of the input is
routed. -/
def execRouteToken (cl r : Nat) (src : RouterIn) (s : State) : Out := .next ((s.pull cl r src).routeHead cl r src)

/-! ### Held tokens -/

/-- Releases a held token. One held for an entry of 0 is routed by the entry now in force (16 R426); one that a watchpoint held
passes as it was routed. -/
def State.unstick (s : State) (cl r : Nat) (x : RouterIn × Option Nat) : State :=
  let R := s.router cl r
  let again (q : List RTok) : List RTok := match q with | [] => [] | y :: ys => { y with ent := none } :: ys
  s.setRouter cl r { R with
    stuck := R.stuck.erase x
    inq := if x.2.isNone then vset R.inq (rinIdx x.1) (again (vget R.inq (rinIdx x.1))) else R.inq }

/-- Discards a held token (16 R426). -/
def State.discardStuck (s : State) (cl r : Nat) (x : RouterIn × Option Nat) : State := (s.unstick cl r x).popRin cl r x.1

end Sys2Proof.Machine
end

