-- ==== Sys2Proof/Machine/Params.lean ====
section
/-! DEFINITION. Parameter registers (10 R282-R288, R291, R296, R298, R300, R307; 11 R331; 12 R361; 16 R449), OPCFG and OPRD
(10 R308-R310). -/

namespace Sys2Proof.Machine

/-- OPCFG (10 R309): never faults. -/
def execOpcfg (f : RForm) (s : State) : Out := issue (viewR 0xE8 f) (portEffect .opcfg modOf noFault) s
where noFault (_ : Env) (_ : State) : Option Flt := none
/-- OPRD (10 R309): never faults. -/
def execOprd (f : RForm) (s : State) : Out := issue (viewR 0xE9 f) (portEffect .oprd modOf noFault) s
where noFault (_ : Env) (_ : State) : Option Flt := none

/-- What an operator address names (10 R278, R282): an operator of a cluster by its order, a router, or an edge unit. -/
inductive OpName where
  | oper (cl k : Nat)
  | router (cl r : Nat)
  | edge (d kind unit : Nat)
  deriving DecidableEq, Repr

/-- The unit an operator address names, when it names one (10 R282). -/
def opName (a : Word) : Option OpName :=
  let kind := fldN a 19 4
  let unit := fldN a 14 5
  if fldN a 32 32 ≠ 0 ∨ fldN a 12 2 ≠ 0 then none
  else if bitOf a 31 then
    if fldN a 23 5 ≠ 0 ∨ edgeUnits kind ≤ unit then none else some (.edge (fldN a 28 3) kind unit)
  else if kind = 12 then (if unit < 16 then some (.router (fldN a 23 8) unit) else none)
  else (opIndex kind unit).map fun k => .oper (fldN a 23 8) k

/-- The die of a named unit. -/
def OpName.die : OpName → Nat
  | .oper cl _ => cl / 32
  | .router cl _ => cl / 32
  | .edge d _ _ => d

/-- The unit lies where the job holds a region, or on the die of a core that acts for none (10 R309, 15 R397). -/
def State.opMine (s : State) (p : Nat) (job : Option Nat) (n : OpName) : Bool :=
  match job with
  | none => isCore p && n.die == dieOf p
  | some j => match n with
    | .oper cl _ => s.jobInCluster j cl
    | .router cl _ => s.jobInCluster j cl
    | .edge d _ _ => (List.range 32).any fun c => s.jobInCluster j (32 * d + c)

/-- A running region holds an operator (10 R283). -/
def State.opRuns (s : State) (cl k : Nat) : Bool :=
  match s.regionOfOp cl k with
  | none => false
  | some g => (s.region (cl / 32) g).st == .running

/-! ### Reading -/

/-- COUNT of a counter: of a bound one, the words of its copy's oldest position that has not fired (10 R298). -/
def State.cntCount (s : State) (x : Cnt) : Nat :=
  match x.copy with
  | none => x.count
  | some id => match s.copy id with
    | none => 0
    | some c => match c.active.find? fun y => y.p == (if x.visible then c.firedV else c.fired) with
      | some y => if x.visible then y.vis.length else y.done.length
      | none => 0

/-- A register of a normaliser (10 R286). -/
def nrmReg (x : Nrm) (reg : Nat) : Option Word :=
  if reg = 0 then some x.ctrl
  else if reg = 1 then some x.scale
  else if reg = 2 then some (x.row.zeroExtend 64)
  else if reg = 3 then some x.status
  else if 16 ≤ reg ∧ reg ≤ 143 then
    some ((x.table.get 0 (2 * (reg - 16) + 1)) ++ (x.table.get 0 (2 * (reg - 16))))
  else none

/-- A register of a converter (10 R288). -/
def cvtReg (x : Cvt) (reg : Nat) : Option Word :=
  if reg = 0 then some x.ctrl
  else if reg = 1 then some x.map
  else if reg = 2 then some x.status
  else if 8 ≤ reg ∧ reg ≤ 39 then some (ofLanes 16 ((List.range 4).map fun i => x.codebook.get 0 (4 * (reg - 8) + i)))
  else none

/-- A register of a sparse-update unit (10 R291). -/
def suuReg (x : Suu) (reg : Nat) : Option Word :=
  if reg = 0 then some x.ctrl else if reg = 1 then some x.op else if reg = 2 then some x.status else none

/-- A register of a reducer (10 R296). -/
def redReg (x : Red) (reg : Nat) : Option Word := if reg = 0 then some x.ctrl else if reg = 1 then some x.status else none

/-- A register of a counter (10 R298). -/
def State.cntReg (s : State) (x : Cnt) (reg : Nat) : Option Word :=
  if reg = 0 then some (x.ctrl ||| put (if x.copy.isSome then 1 else 0) 1)
  else if reg = 1 then some x.words
  else if reg = 2 then some (put (s.cntCount x) 0)
  else if reg = 3 then some (put (x.next % 2 ^ 32) 0)
  else if reg = 4 then some (match x.copy with | some id => put 1 10 ||| put id 0 | none => 0)
  else none

/-- A register of a router (10 R307, 16 R449). -/
def rtrReg (R : Router) (reg : Nat) : Option Word :=
  if reg < 1024 then some ((R.table.get 0 reg).zeroExtend 64)
  else if reg = 1024 then some (put R.pos.toNat 0 ||| put R.lastgen.toNat 8)
  else if 1032 ≤ reg ∧ reg ≤ 1043 then some ((R.outtag.get 0 (reg - 1032)).zeroExtend 64)
  else if 1048 ≤ reg ∧ reg ≤ 1053 then some (R.wp.get 0 (reg - 1048))
  else none

/-- A register of an operator of a cluster. -/
def State.operReg (s : State) (cl k reg : Nat) : Option Word :=
  let u := (opKind k).2
  match (opKind k).1 with
  | 0 => mxReg (s.mx cl u) reg
  | 1 => espReg (s.esp cl u) u reg
  | 2 => gaReg (s.mx cl u) reg
  | 3 => nrmReg (s.nrm cl u) reg
  | 4 => cvtReg (s.cvt cl u) reg
  | 5 => suuReg (s.suu (.cluster cl u)) reg
  | 9 => s.cntReg (s.cnt cl u) reg
  | _ => redReg (s.cluster cl).red reg

/-- A parameter register: none where nothing is assigned. -/
def State.paramReg (s : State) (n : OpName) (reg : Nat) : Option Word :=
  match n with
  | .oper cl k => s.operReg cl k reg
  | .router cl r => rtrReg (s.router cl r) reg
  | .edge d kind unit =>
    if kind = 5 then suuReg (s.suu (.edge d unit)) reg
    else if kind = 7 then
      (let x := s.coalAt d unit
       if reg = 0 then some x.ctrl else if reg = 1 then some x.status else none)
    else none

/-- OPRD (10 R309). -/
def serveOprd : Server := fun p r s =>
  match opName r.a with
  | none => .word s 0
  | some n => .word s (if s.opMine p r.job n then (s.paramReg n (fldN r.a 0 12)).getD 0 else 0)

/-! ### Writing -/

/-- What a write comes to: the status of 10 R309 other than 0, or the state with the register written. -/
abbrev Written := Except Nat State

/-- A write of a frozen register. -/
def frozenWrite (runs : Bool) (s : State) : Written := if runs then .error 3 else .ok s

/-- A write to a normaliser (10 R286; 12 R355). -/
def State.nrmWrite (s : State) (cl j reg : Nat) (b : Word) (runs : Bool) : Written :=
  let x := s.nrm cl j
  let held := runs || x.graph.isSome
  if reg = 0 then frozenWrite held (s.setNrm cl j { x with ctrl := b &&& 7 })
  else if reg = 1 then .ok (s.setNrm cl j { x with scale := b &&& 0xFFFFFFFF })
  else if reg = 3 then .ok (s.setNrm cl j { x with status := 0 })
  else if 16 ≤ reg ∧ reg ≤ 143 then
    let i := 2 * (reg - 16)
    frozenWrite held (s.setNrm cl j { x with table := (x.table.set 0 i (b.setWidth 32)).set 0 (i + 1) (fld b 32 32) })
  else .error 1

/-- A write to a converter (10 R288). -/
def State.cvtWrite (s : State) (cl j reg : Nat) (b : Word) (runs : Bool) : Written :=
  let x := s.cvt cl j
  if reg = 0 then frozenWrite runs (s.setCvt cl j { x with ctrl := b &&& 1 })
  else if reg = 1 then .ok (s.setCvt cl j { x with map := b &&& 0xFFFFFFFF })
  else if reg = 2 then .ok (s.setCvt cl j { x with status := 0 })
  else if 8 ≤ reg ∧ reg ≤ 39 then
    .ok (s.setCvt cl j { x with
      codebook := (List.range 4).foldl (fun m i => m.set 0 (4 * (reg - 8) + i) (lane 16 b i)) x.codebook })
  else .error 1

/-- A write to a sparse-update unit (10 R291): EN and ORDERED are frozen, MERGE and WAIT live. -/
def State.suuWrite (s : State) (u : SuuId) (reg : Nat) (b : Word) (runs : Bool) : Written :=
  let x := s.suu u
  if reg = 0 then frozenWrite (runs && (b &&& 3) != (x.ctrl &&& 3)) (s.setSuu u { x with ctrl := b &&& 0xFF07 })
  else if reg = 1 then .ok (s.setSuu u { x with op := b &&& 0xF })
  else if reg = 2 then .ok (s.setSuu u { x with status := 0 })
  else .error 1

/-- A write to the reducer (10 R296). -/
def State.redWrite (s : State) (cl reg : Nat) (b : Word) (runs : Bool) : Written :=
  let x := (s.cluster cl).red
  if reg = 0 then frozenWrite runs (s.setRed cl { x with ctrl := b &&& 0x7F })
  else if reg = 1 then .ok (s.setRed cl { x with status := 0 })
  else .error 1

/-- A write to a counter (10 R298). -/
def State.cntWrite (s : State) (cl j reg : Nat) (b : Word) (runs : Bool) : Written :=
  let x := s.cnt cl j
  let held := runs || x.copy.isSome
  if reg = 0 then frozenWrite held (s.setCnt cl j { x with ctrl := b &&& 0x1FF5 })
  else if reg = 1 then frozenWrite held (s.setCnt cl j { x with words := b &&& 0x1FFFFFFFF })
  else .error 1

/-- A write to a router (10 R307, 16 R449): a write of WPCTL clears COUNT. -/
def State.rtrWrite (s : State) (cl r reg : Nat) (b : Word) : Written :=
  let R := s.router cl r
  if reg < 1024 then .ok (s.setRouter cl r { R with table := R.table.set 0 reg (b.setWidth 16) })
  else if 1032 ≤ reg ∧ reg ≤ 1043 then
    .ok (s.setRouter cl r { R with outtag := R.outtag.set 0 (reg - 1032) (b.setWidth 32) })
  else if 1048 ≤ reg ∧ reg ≤ 1053 then
    .ok (s.setRouter cl r { R with wp := R.wp.set 0 (reg - 1048) (if reg = 1048 ∨ reg = 1051 then b &&& 0xC00FFFF0 else b) })
  else .error 1

/-- A write to a parameter register, once Check has passed (10 R283, R284, R309). -/
def State.paramWrite (s : State) (n : OpName) (reg : Nat) (b : Word) : Written :=
  match n with
  | .router cl r => s.rtrWrite cl r reg b
  | .edge d kind unit =>
    if kind = 5 then s.suuWrite (.edge d unit) reg b false
    else if kind = 7 then
      (let x := s.coalAt d unit
       if reg = 0 then .ok (s.setCoal d unit { x with ctrl := b &&& 0xFF01 })
       else if reg = 1 then .ok (s.setCoal d unit { x with status := 0 })
       else .error 1)
    else .error 2
  | .oper cl k =>
    let u := (opKind k).2
    let runs := s.opRuns cl k
    match (opKind k).1 with
    | 3 => s.nrmWrite cl u reg b runs
    | 4 => s.cvtWrite cl u reg b runs
    | 5 => s.suuWrite (.cluster cl u) reg b runs
    | 8 => s.redWrite cl reg b runs
    | 9 => s.cntWrite cl u reg b runs
    | _ => .error 2

/-- OPCFG (10 R309). -/
def serveOpcfg : Server := fun p r s =>
  match opName r.a with
  | none => .word s 1
  | some n =>
    if s.opMine p r.job n = false then .word s 4
    else match s.paramWrite n (fldN r.a 0 12) r.b with
      | .ok s1 => .ack s1
      | .error c => .word s (put c 0)

end Sys2Proof.Machine
end

