-- ==== Sys2Proof/Machine/Work.lean ====
section
/-! DEFINITION. Dispatch and the work levels (13 R368-R375, R378-R386): submissions, decisions, delivery, completion, the work
counters, and cancellation. -/

namespace Sys2Proof.Machine

/-! ### Counters -/

/-- Key of the counter of a level and an index; the job stands in [23:16] for units and phases. -/
def cKey (lvl job idx : Nat) : Nat := 2 ^ 24 * lvl + (if lvl = 0 ∨ lvl = 3 then 65536 * job else 0) + idx
/-- Key of a unit's counter: the phase the task was accepted in stands above, since indices begin again in each (13 R369). -/
def unitKey (job idx phase : Nat) : Nat := 2 ^ 27 * phase + cKey 0 job idx
/-- Key of a task's counter. -/
def Task.key (t : Task) : Nat := unitKey t.job t.idx t.phase
/-- LEVEL of a counter's key. -/
def keyLevel (k : Nat) : Nat := k / 2 ^ 24 % 8
/-- INDEX of a counter's key. -/
def keyIndex (k : Nat) : Nat := k % 65536

/-- A work counter of a die. Those of level 0 are tasks (13 R378-R379): a stream copy, which the table of 00 R6 calls a unit
too, ends by its own completion alone and has no counter (log entry 118). -/
def State.counter (s : State) (d k : Nat) : Counter := (s.die d).counters.get Counter.reset k
/-- Writes a work counter of a die. -/
def State.setCounter (s : State) (d k : Nat) (c : Counter) : State :=
  s.modDie d fun D => { D with counters := D.counters.set Counter.reset k c }

/-- The die and key of the counter above (13 R379): a launch's graph may stand on another die after a restore (16 R443). -/
def Counter.above (c : Counter) (d k : Nat) : Option (Nat × Nat) :=
  match keyLevel k with
  | 0 => some (d, cKey 1 0 c.up)
  | 1 => some (c.up / 64, cKey 2 0 (c.up % 64))
  | 2 => some (d, cKey 3 c.job c.up)
  | 3 => some (d, cKey 4 0 c.job)
  | _ => none

/-- A level exists. -/
def Counter.exists (c : Counter) : Bool := c.st != 3
/-- A counter is OPEN. -/
def Counter.isOpen (c : Counter) : Bool := c.st == 0

/-- The work identifier of a counter (13 R378). -/
def workId (d k : Nat) : Nat := keyLevel k * 2 ^ 29 + d * 2 ^ 24 + keyIndex k

/-- `.arm`'s EL token: CODE 0 for DONE, 1 for CANCELLED (13 R386). -/
def State.postArm (s : State) (d k st : Nat) (x : Nat × Nat) : State := s.postEl x.1 4 (st - 1) x.2 (workId d k)

/-- A counter reaches 0 with a state, 1 DONE or 2 CANCELLED, and posts the EL tokens armed on it (13 R380, R386). -/
def State.settle (s : State) (d k st : Nat) : State :=
  let c := s.counter d k
  c.armed.foldl (fun s x => s.postArm d k st x) (s.setCounter d k { c with count := 0, st := st, armed := [] })

/-- A counter falls by 1, and one that reaches 0 makes the level above fall (13 R379, R380); five levels stand at most. -/
def State.fallN (s : State) (d k : Nat) : Nat → State
  | 0 => s
  | n + 1 =>
    let c := s.counter d k
    if c.isOpen = false then s
    else if 1 < c.count then s.setCounter d k { c with count := c.count - 1 }
    else
      let s1 := s.settle d k (if c.canc > 0 then 2 else 1)
      match c.above d k with
      | none => s1
      | some x => s1.fallN x.1 x.2 n
/-- A counter falls by 1 (13 R379, R380). -/
def State.fall (s : State) (d k : Nat) : State := s.fallN d k 5

/-- A counter goes to 0 at once, and the level above falls (13 R379). -/
def State.closeCounter (s : State) (d k st : Nat) : State :=
  match (s.counter d k).above d k with
  | none => s.settle d k st
  | some x => (s.settle d k st).fall x.1 x.2

/-! ### Records -/

/-- STATUS of a counter's record (13 R380). -/
def Counter.status (c : Counter) : Nat := if c.moved.isSome then 2 else if c.st = 2 then 1 else 0

/-- Words 1 to 3 of a counter's record (15 R400). -/
def Counter.record (c : Counter) (d k : Nat) : List Word :=
  [put 0x14 56 ||| put (keyLevel k) 53 ||| put d 50 ||| put c.status 48 ||| put (min c.canc 0xFFFF) 32 ||| put (keyIndex k) 0,
   if keyLevel k ≤ 1 then c.user else 0, BitVec.ofNat 64 (c.moved.getD 0)]

/-- The core that owns a level (13 R380, 15 R402, R415). -/
def State.ownerOf (s : State) (d k : Nat) : Nat :=
  let c := s.counter d k
  if keyLevel k ≤ 2 then c.owner else fldN (s.ctlReg d (4 * c.job)) 1 2

/-- A counter whose entry is taken anew while its record waits leaves the record with the event source (15 R399). -/
def State.keepRecord (s : State) (d k : Nat) : State :=
  let c := s.counter d k
  if c.exists = false ∨ c.isOpen = true ∨ c.posted = true then s
  else
    let w := c.record d k
    s.postEvent d (s.ownerOf d k) (w.getD 0 0) (w.getD 1 0) (w.getD 2 0)

/-- Opens a counter: one that waits above counts it (13 R379). -/
def State.openCounter (s : State) (d k count : Nat) (user : Word) (owner job up : Nat) : State :=
  let c : Counter := { st := 0, count := count, canc := 0, user := user, owner := owner, job := job, up := up, armed := [],
                       moved := none, posted := false }
  let s1 := (s.keepRecord d k).setCounter d k c
  match c.above d k with
  | none => s1
  | some x => s1.setCounter x.1 x.2 { s1.counter x.1 x.2 with count := (s1.counter x.1 x.2).count + 1 }

/-- A cancelled unit counts at its own level and at every level above (13 R380). -/
def State.cancUp (s : State) (d k : Nat) : Nat → State
  | 0 => s
  | n + 1 =>
    let c := s.counter d k
    let s1 := s.setCounter d k { c with canc := c.canc + 1 }
    match c.above d k with
    | none => s1
    | some x => s1.cancUp x.1 x.2 n

/-- PHASE of a job on a die (15 R402). -/
def State.jobPhase (s : State) (d job : Nat) : Nat := fldN (s.ctlReg d (4 * job)) 4 16
/-- JCTL.V (15 R402). -/
def State.jobExists (s : State) (d job : Nat) : Bool := bitOf (s.ctlReg d (4 * job)) 0
/-- JCTL.CLOSING (15 R402). -/
def State.jobClosing (s : State) (d job : Nat) : Bool := bitOf (s.ctlReg d (4 * job)) 3

/-- Writes PHASE and CLOSING of a job's JCTL (15 R402, R409). -/
def State.setPhase (s : State) (d job phase : Nat) (closing : Bool) : State :=
  let w := s.ctlReg d (4 * job) &&& 0xFFFFFFFFFFF00007
  s.setCtlReg d (4 * job) (w ||| put (phase % 65536) 4 ||| put (if closing then 1 else 0) 3)

/-- The tasks of a job that have ended, and their units, leave the tables: indices begin again at 0 (13 R369). -/
def State.dropEnded (s : State) (d job : Nat) : State :=
  s.modDie d fun D => { D with
    tasks := D.tasks.filter (fun t => t.job != job || (t.st != .done && t.st != .cancelled))
    counters := D.counters.filter fun e => !(keyLevel e.1 == 0 && e.2.job == job && e.2.posted) }

/-- A job is created on a die: its phase 0 opens (15 R403). -/
def State.openJob (s : State) (d job : Nat) : State :=
  let s1 := (s.dropEnded d job).openCounter d (cKey 4 0 job) 1 0 0 job 0
  (s1.openCounter d (cKey 3 job 0) 1 0 0 job 0).setPhase d job 0 false

/-- A level below a counter is still to post its record to the same core: it came to 0 first, and a core's records are in
order (15 R399, log entry 47). -/
def State.belowOpen (s : State) (d k : Nat) : Bool :=
  (List.range 8).any fun dd => (s.die dd).counters.any fun e =>
    e.2.exists && !e.2.posted && e.2.above dd e.1 == some (d, k) &&
      coreUnit dd (s.ownerOf dd e.1) == coreUnit d (s.ownerOf d k)

/-- A phase's record is posted: PHASE rises, CLOSING clears, indices restart, and the next phase opens while the job exists
(13 R369, 15 R409). -/
def State.nextPhase (s : State) (d job : Nat) : State :=
  let s1 := s.dropEnded d job
  let n := (s1.jobPhase d job + 1) % 65536
  let s2 := s1.setPhase d job n false
  if s2.jobExists d job then s2.openCounter d (cKey 3 job n) 1 0 0 job 0 else s2

/-- WORK_COUNTER_DONE (13 R380, 15 R399, R409): a counter at 0 posts its record once the owner's queue has room; after a phase's
record the next phase begins. -/
def execWorkCounterDone (d lvl k : Nat) (s : State) : Out :=
  let key := 2 ^ 24 * lvl + k
  let c := s.counter d key
  let u := coreUnit d (s.ownerOf d key)
  if c.exists = false ∨ c.isOpen = true ∨ c.posted = true ∨ s.belowOpen d key = true ∨ (s.proc u).evq.length ≥ 1024 then .next s
  else
    let v := s.view (dieUnit d)
    let s1 := v.2.modProc u fun P => { P with evq := P.evq ++ [v.1 :: c.record d key] }
    let s2 := s1.setCounter d key { c with posted := true }
    .next (if lvl = 3 ∧ c.job < 256 ∧ keyIndex key = s2.jobPhase d c.job then s2.nextPhase d c.job else s2)

/-! ### Submissions (13 R368, R383, R384) -/

/-- The region a submission names (13 R383). -/
def submitRegion (s : State) (p : Nat) (b : Word) : Nat := if isCore p then fldN b 32 6 else (s.proc p).region.getD 0

/-- The graph counter of region `g` of die `d` is open for a job. -/
def State.graphOpen (s : State) (d g job : Nat) : Bool :=
  let c := s.counter d (cKey 2 0 g)
  c.isOpen && c.job == job

/-- The issue faults of TSUBMIT and LAUNCH (13 R383; 15 R397). -/
def submitFaults (launch : Bool) (e : Env) (s : State) : Option Flt :=
  let n := fldN e.b 0 16
  match s.jobOf e.p e.c with
  | none => some fltProt
  | some j =>
    if fldN e.a 0 6 ≠ 0 ∨ fldN e.b 38 26 ≠ 0 ∨ fldN e.b 27 5 ≠ 0 ∨ fldN e.b 16 8 ≠ 0 ∨ n = 0 ∨ (launch = false ∧ n > 256) ∨
        (isCore e.p = false ∧ fldN e.b 32 6 ≠ 0) then some fltBounds
    else
      let d := fldN e.b 24 3
      let g := submitRegion s e.p e.b
      if s.graphOpen d g j = false ∨ (s.region d g).st = .free ∨ (s.region d g).job ≠ j then some fltProt
      else s.shortFault e.p (some j) e.a (64 * (if launch then 1 else n)) .load

/-- TSUBMIT (13 R383). -/
def execTsubmit (f : RForm) (s : State) : Out := issue (viewR 0xA3 f) (portEffect .tsubmit modOf (submitFaults false)) s

/-- LAUNCH (13 R383). -/
def execLaunch (f : RForm) (s : State) : Out := issue (viewR 0xA4 f) (portEffect .launch modOf (submitFaults true)) s

/-- The keys a descriptor declares (13 R368). -/
def descKeys (w : List Word) : List Nat := (List.range (min (fldN (w.getD 0 0) 53 3) 4)).map fun i => fldN (w.getD 1 0) (16 * i) 12

/-- The predecessor entries of a descriptor that are valid, as they stand (13 R368). -/
def descPreds (w : List Word) : List Nat :=
  [fldN (w.getD 4 0) 0 32, fldN (w.getD 4 0) 32 32, fldN (w.getD 5 0) 0 32, fldN (w.getD 5 0) 32 32]

/-- The index a predecessor entry names, from the batch's first index. -/
def predIndex (base x : Nat) : Nat := if x / 2 ^ 30 % 2 = 1 then base + x % 65536 else x % 65536

/-- A descriptor is not well formed (13 R368, R383): `i` is its position, `base` the first index of the batch. -/
def descMalformed (launch : Bool) (base i : Nat) (w : List Word) : Bool :=
  let w0 := w.getD 0 0
  let nkey := fldN w0 53 3
  let ks := descKeys w
  decide (nkey > 4) || ks.eraseDups.length != ks.length || decide (fldN w0 41 9 + fldN w0 32 9 > 511) || w.getD 7 0 != 0 ||
  (List.range 4).any (fun j => if j < nkey then fldN (w.getD 1 0) (16 * j + 12) 4 != 0 else fldN (w.getD 1 0) (16 * j) 16 != 0) ||
  (w.getD 3 0 != 0 && (launch || !bitOf w0 56)) ||
  (descPreds w).any fun x =>
    if x / 2 ^ 31 = 0 then x != 0
    else x / 2 ^ 16 % 2 ^ 14 != 0 ||
      (if x / 2 ^ 30 % 2 = 1 then launch || decide (i ≤ x % 65536) else decide (base ≤ x % 65536))

/-- KEY_SPAN (16 R421). -/
def fltKeySpan : Flt := { code := 13 }

/-- The path faults of one descriptor, in their order (13 R383). -/
def State.descFault (s : State) (launch : Bool) (d job base i : Nat) (w : List Word) : Option Flt :=
  let w0 := w.getD 0 0
  if descMalformed launch base i w then some fltBounds
  else if fldN w0 53 3 > 0 ∧ fldN w0 50 3 ≠ d then some fltKeySpan
  else if (descKeys w).any fun k => !s.keyInRange d job k then some fltKeyRange
  else if (List.range (fldN w0 32 9 + 1)).any fun i => !s.elemOfJob (512 * d + fldN w0 41 9 + i) job then some fltProt
  else none

/-- The next task index of a job on a die: above those of its phase (13 R369). -/
def State.nextIndex (s : State) (d job : Nat) : Nat :=
  (s.die d).tasks.foldl (fun n t => if t.job = job ∧ t.phase = s.jobPhase d job then Nat.max n (t.idx + 1) else n) 0

/-- The task of a descriptor (13 R368, R383): instance `inst` of a LAUNCH has the words W0 and `inst`. -/
def taskOf (job idx phase li base : Nat) (inst : Option Nat) (w : List Word) (acc : Nat) : Task :=
  let w0 := w.getD 0 0
  { job := job, idx := idx, phase := phase, launch := li, sel := fld w0 57 7, len2 := inst.isSome || bitOf w0 56, keys := descKeys w,
    tbase := fldN w0 41 9, tcnt := fldN w0 32 9, cost := fldN w0 0 32, w0 := w.getD 2 0,
    w1 := match inst with | some i => BitVec.ofNat 64 i | none => w.getD 3 0
    preds := (descPreds w).filterMap fun x => if x / 2 ^ 31 = 1 then some (predIndex base x) else none
    user := w.getD 6 0, rp := 0, pass := 0, st := .waiting, acc := acc }

/-- Task `u` of a phase graph names task `t` of the same as a predecessor (13 R368). -/
def Task.follows (u t : Task) : Bool := u.job == t.job && u.phase == t.phase && u.preds.contains t.idx

/-- The remaining path of a task from its successors, which follow it (13 R370). -/
def rpOf (t : Task) (later : List Task) : Nat :=
  min (t.cost + later.foldl (fun n u => if u.follows t then Nat.max n u.rp else n) 0) (2 ^ 48 - 1)

/-- RP of every task of a job, from the last one back (13 R370). -/
def withRp (job : Nat) (ts : List Task) : List Task :=
  ts.foldr (fun t later => (if t.job = job then { t with rp := rpOf t later } else t) :: later) []

/-- A free launch entry, the lowest (14 R391; 13 R379). -/
def State.freeLaunch (s : State) (d : Nat) : Option Nat :=
  (List.range 4096).find? fun i => let c := s.counter d (cKey 1 0 i); !c.exists || c.posted

/-- Changes the task with an acceptance number on a die. -/
def State.modTask (s : State) (d acc : Nat) (f : Task → Task) : State :=
  s.modDie d fun D => { D with tasks := D.tasks.map fun t => if t.acc = acc then f t else t }

/-- The task with an acceptance number on a die. -/
def State.task (s : State) (d acc : Nat) : Option Task := (s.die d).tasks.find? fun t => t.acc == acc

/-- Some predecessor of a task has a state that `f` does not rule out. -/
def State.anyPred (s : State) (d : Nat) (t : Task) (f : TaskSt → Bool) : Bool :=
  (s.die d).tasks.any fun u => t.follows u && f u.st

/-- The marks of a reservation end (13 R372). -/
def State.clearRes (s : State) (d : Nat) : State :=
  s.modDie d fun D => { D with res := none, keys := D.keys.foldl (fun m e => m.set Key.reset e.1 { e.2 with res := false }) D.keys }

/-- The task's unit is counted down as cancelled, and a reservation it holds ends (13 R372, R381). -/
def State.dropTask (s : State) (d : Nat) (t : Task) : State :=
  let s1 := (s.modTask d t.acc fun t => { t with st := .cancelled }).cancUp d t.key 5
  let s2 := if (s.die d).res = some t.acc then s1.clearRes d else s1
  s2.fall d t.key

/-- Undispatched tasks of a job that `sel` names, or that depend on a cancelled one, are removed, in index order
(13 R371, R381). -/
def State.dropWaiting (s : State) (d job : Nat) (sel : Task → Bool) : State :=
  (s.die d).tasks.foldl (fun s t =>
    if t.job = job ∧ t.st = .waiting ∧ (sel t || s.anyPred d t (· == .cancelled)) = true then s.dropTask d t else s) s

/-- Inserts the tasks of a submission as one launch (13 R383). -/
def State.insertTasks (s : State) (d job g li n base : Nat) (launch : Bool) (ws : List Word) : State :=
  let owner := (s.counter d (cKey 2 0 g)).owner
  let acc := (s.die d).acc
  let desc (i : Nat) : List Word := if launch then ws.take 8 else (ws.drop (8 * i)).take 8
  let ph := s.jobPhase d job
  let ts := (List.range n).map fun i => taskOf job (base + i) ph li base (if launch then some i else none) (desc i) (acc + i)
  let s1 := s.openCounter d (cKey 1 0 li) 0 (ws.getD 6 0) owner job (64 * d + g)
  let s2 := ts.foldl (fun s t => s.openCounter d t.key 1 t.user owner job li) s1
  let s3 := s2.modDie d fun D => { D with tasks := withRp job (D.tasks ++ ts), acc := acc + n }
  s3.dropWaiting d job fun _ => false

/-- TSUBMIT and LAUNCH at the dispatcher (13 R383, R384). A graph that has closed since issue is refused as one that is closing
(log entry 94). -/
def serveSubmit : Server := fun p r s =>
  let launch := r.kind == .launch
  let n := fldN r.b 0 16
  let d := fldN r.b 24 3
  let j := r.job.getD 0
  s.viaDesc p r r.a (8 * (if launch then 1 else n)) fun ws r s =>
    let base := s.nextIndex d j
    let g := submitRegion s p r.b
    match (List.range (if launch then 1 else n)).findSome? fun i =>
        s.descFault launch d j base i ((ws.drop (8 * i)).take 8) with
    | some f => .fail s f r
    | none =>
      if s.graphOpen d g j = false then .word s (put 1 63 ||| put 3 48)
      else if 65535 < base + n then .word s (put 1 63 ||| put 1 48)
      else match s.freeLaunch d with
        | none => .word s (put 1 63 ||| put 2 48)
        | some li =>
          if s.jobClosing d j then .word s (put 1 63 ||| put 3 48)
          else .word (s.insertTasks d j g li n base launch ws) (put li 32 ||| put base 0)

/-! ### Decisions (13 R371-R374) -/

/-- A task is ready (13 R371). -/
def State.taskReady (s : State) (d : Nat) (t : Task) : Bool :=
  t.st == .waiting && !s.anyPred d t (· != .done)

/-- Open tasks of an element, with the packets dispatched to it and not yet taken (13 R373). -/
def State.openTasksOf (s : State) (e : Nat) : Nat :=
  let P := s.proc e
  P.openTasks.length + ((s.die (dieOf e)).delivery.get [] e).length +
    (P.lanes.toList.map fun l => l.countP fun k => k.task != 0xFFFF).sum

/-- Target elements of a task, lowest first. -/
def Task.targets (t : Task) (d : Nat) : List Nat := (List.range (t.tcnt + 1)).map fun i => 512 * d + t.tbase + i

/-- Room (13 R372). -/
def State.room (s : State) (d : Nat) (t : Task) : Bool := (t.targets d).any fun e => decide (s.openTasksOf e < 32)

/-- Every key of a task is FREE, and reserved for no other (13 R372). -/
def State.keysFree (s : State) (d : Nat) (t : Task) : Bool :=
  t.keys.all fun k => let x := s.key d k; x.st == .free && (!x.res || (s.die d).res == some t.acc)

/-- The target with the fewest open tasks (13 R372). -/
def State.leastOpen (s : State) : List Nat → Nat
  | [] => 0
  | [e] => e
  | e :: es => let f := s.leastOpen es; if s.openTasksOf e ≤ s.openTasksOf f then e else f

/-- Dispatch (13 R372). -/
def State.dispatch (s : State) (d : Nat) (t : Task) : State :=
  let tb := t.keys.zipIdx.foldl (fun n x => if (s.key d x.1).taint then n + 2 ^ x.2 else n) 0
  let s1 := if (s.die d).res = some t.acc then s.clearRes d else s
  let s2 := t.keys.foldl (fun s k => s.setKey d k
    { st := .held, taint := false, holder := BitVec.ofNat 16 t.idx, job := t.job, res := (s.key d k).res, note := none }) s1
  let e := s2.leastOpen (t.targets d)
  let n : NetPkt := { src := 4128 + d, dst := e, job := t.job,
                      pkt := { sel := t.sel, len2 := t.len2, w0 := t.w0, w1 := if t.len2 then t.w1 else 0,
                               task := BitVec.ofNat 16 t.idx, taint := BitVec.ofNat 4 tb } }
  (s2.modTask d t.acc fun t => { t with st := .dispatched e }).modDie d fun D =>
    { D with delivery := D.delivery.set [] e (D.delivery.get [] e ++ [n]) }

/-- The task with the largest RP; ties go to the one accepted first (13 R372). -/
def bestTask (a b : Task) : Task := if b.rp > a.rp ∨ (b.rp = a.rp ∧ b.acc < a.acc) then b else a
/-- The task accepted first. -/
def oldestTask (a b : Task) : Task := if b.acc < a.acc then b else a
/-- The choice among tasks. -/
def pickTask (f : Task → Task → Task) : List Task → Option Task
  | [] => none
  | t :: ts => some (ts.foldl f t)

/-- The marks of the reservation slot (13 R372). -/
def State.markRes (s : State) (d : Nat) (t : Task) : State :=
  t.keys.foldl (fun s k => let x := s.key d k; if x.st = .free then s.setKey d k { x with res := true } else s) s

/-- What a decision does after the dispatch of `t`, one of the tasks `R` that were ready at its start: the others are passed over
for their keys, and the oldest of `R` may take the reservation; where that is `t` itself, none does (log entry 95). -/
def State.afterDispatch (s : State) (d : Nat) (R : List Task) (t : Task) : State :=
  let s1 := R.foldl (fun s u =>
    if u.acc = t.acc ∨ s.keysFree d u = true then s
    else s.modTask d u.acc fun u => { u with pass := min (u.pass + 1) 64 }) s
  match (pickTask oldestTask R).bind fun o => s1.task d o.acc with
  | none => s1
  | some o =>
    if (s1.die d).res = none ∧ o.acc ≠ t.acc ∧ o.pass = 64 ∧ (o.keys.any fun k => (s1.key d k).st != .free) = true then
      s1.modDie d fun D => { D with res := some o.acc }
    else s1

/-- DISPATCH_DECIDE (13 R372). -/
def execDispatchDecide (d : Nat) (s : State) : Out :=
  let R := (s.die d).tasks.filter fun t => s.taskReady d t
  let resTask := (s.die d).res.bind fun x => s.task d x
  let s1 := match resTask with | some t => s.markRes d t | none => s
  match resTask.filter fun t => (t.keys.all fun k => (s1.key d k).st == .free) && s1.room d t with
  | some t => .next (s1.dispatch d t)
  | none =>
    match pickTask bestTask (R.filter fun t => (s1.die d).res != some t.acc && s1.keysFree d t && s1.room d t) with
    | none => .next s1
    | some t => .next ((s1.dispatch d t).afterDispatch d R t)

/-- TASK_DELIVERY (13 R373, 06 R183, 15 R412): the oldest packet for an element enters its handler lane, or waits. -/
def execTaskDelivery (d e : Nat) (s : State) : Out :=
  match (s.die d).delivery.get [] e with
  | [] => .next s
  | n :: rest =>
    let P := s.proc e
    let x := P.sels.get Sel.reset n.pkt.sel.toNat
    if x.v = true ∧ (vget P.lanes x.handler.toNat).length < 4 ∧ s.laneOpen e = true then
      match s.throttle d 16 1072 with
      | none => .next s
      | some s1 => .next ((s1.modDie d fun D => { D with delivery := D.delivery.set [] e rest }).modProc e fun P =>
          { P with lanes := vset P.lanes x.handler.toNat (vget P.lanes x.handler.toNat ++ [n.pkt]) })
    else .next s

/-- The task that unit `p` has ended, with its die: the unit's own, or one whose task a restore has moved to it (16 R443). -/
def State.endedTask (s : State) (d p job idx : Nat) : Option (Nat × Task) :=
  (d :: List.range 8).findSome? fun dt =>
    ((s.die dt).tasks.find? fun t => t.job == job && t.idx == idx && t.st == .dispatched p).map fun t => (dt, t)

/-- UNIT_COMPLETE (06 R201, 13 R374): every earlier access of the context is acknowledged at die scope; the keys are FREE and
the unit falls. An access that stands in an image is performed after its RESTORE (16 R443). -/
def execUnitComplete (d k : Nat) (s : State) : Out :=
  match (s.die d).completing[k]? with
  | none => .next s
  | some c =>
    if s.awaits c.proc c.ctx c.before 2 false || ((savedAt c.proc).isSome && c.before != 0) then .next s
    else
      let s1 := s.modDie d fun D => { D with completing := D.completing.eraseIdx k }
      match s1.endedTask d c.proc c.job c.task with
      | none => .next s1
      | some (dt, t) =>
        .next (((t.keys.foldl (fun s k => s.freeKey dt k false) s1).modTask dt t.acc fun t => { t with st := .done }).fall dt t.key)

/-! ### Levels -/

/-- A work identifier is malformed (13 R378, R385). -/
def workIdBad (a : Word) : Bool := fldN a 32 32 != 0 || fldN a 27 2 != 0 || fldN a 16 8 != 0 || decide (fldN a 29 3 > 4)

/-- CANCEL's and WCOUNT's issue fault (13 R385, R386). -/
def workFaults (e : Env) (_ : State) : Option Flt := if workIdBad e.a then some fltBounds else none

/-- CANCEL (13 R385). -/
def execCancel (f : RForm) (s : State) : Out := issue (viewR 0xA5 f) (portEffect .cancel modOf workFaults) s
/-- WCOUNT (13 R386). -/
def execWcount (f : RForm) (s : State) : Out := issue (viewR 0xA6 f) (portEffect .wcount modOf workFaults) s

/-- The counter that a level and an index name on a die: of the job, or of any where no job acts (13 R378, 15 R397). -/
def State.findLevel (s : State) (d lvl idx : Nat) (job : Option Nat) : Option Nat :=
  let ok (k j : Nat) : Bool := let c := s.counter d k; c.exists && (match job with | some x => x == j | none => true)
  match lvl with
  | 1 => let k := cKey 1 0 idx; if ok k (s.counter d k).job then some k else none
  | 2 => let k := cKey 2 0 idx; if idx < 64 ∧ ok k (s.counter d k).job = true then some k else none
  | 4 => let k := cKey 4 0 idx; if idx < 256 ∧ ok k idx = true then some k else none
  | _ =>
    let key (j : Nat) : Nat := if lvl = 0 then unitKey j idx (s.jobPhase d j) else cKey lvl j idx
    match job with
    | some j => if ok (key j) j then some (key j) else none
    | none => ((List.range 256).map key).find? fun k => (s.counter d k).exists

/-- The counter word (13 R386). -/
def counterWord (k : Nat) (c : Counter) : Word :=
  put c.st 62 ||| put (if keyLevel k = 0 then 0 else min c.canc 0xFFFF) 32 ||| put (c.count % 2 ^ 32) 0

/-- WCOUNT at the dispatcher (13 R386). -/
def serveWcount : Server := fun p r s =>
  let d := fldN r.a 24 3
  match s.findLevel d (fldN r.a 29 3) (fldN r.a 0 16) r.job with
  | none => .word s (put 3 62)
  | some k =>
    let c := s.counter d k
    let s1 :=
      if r.mode % 2 = 0 ∨ isCore p = true then s
      else if c.isOpen then s.setCounter d k { c with armed := c.armed ++ [(p, r.ctx)] }
      else s.postArm d k c.st (p, r.ctx)
    .word s1 (counterWord k c)

/-! ### Cancellation (13 R381) -/

/-- A task of die `dt` lies at or below a level of die `d` (13 R381). -/
def State.taskBelow (s : State) (d k dt : Nat) (t : Task) : Bool :=
  let idx := keyIndex k
  let L := s.counter dt (cKey 1 0 t.launch)
  let G := s.counter (L.up / 64) (cKey 2 0 (L.up % 64))
  t.st != .done && t.st != .cancelled && t.job == (s.counter d k).job &&
  match keyLevel k with
  | 0 => dt == d && t.key == k
  | 1 => dt == d && t.launch == idx
  | 2 => L.up == 64 * d + idx
  | 3 => L.up / 64 == d && G.up == idx
  | _ => L.up / 64 == d

/-- Element `e` holds a task of die `dt` that was dispatched to it: its packet waits for the element or in one of its lanes, or its
open-task table names it, in a region of the task's job. After the task's region has been released or saved, another may hold the
element, which runs nothing of the task (13 R381). -/
def State.runsTask (s : State) (dt e : Nat) (t : Task) : Bool :=
  let P := s.proc e
  let mine (k : TaskPkt) : Bool := k.task.toNat == t.idx
  match P.region with
  | none => false
  | some g =>
    let R := s.region (dieOf e) g
    R.job == t.job &&
      (P.openTasks.any (fun o => o.task.toNat == t.idx) || P.lanes.toList.any (fun l => l.any mine) ||
        ((s.die dt).delivery.get [] e).any (fun n => n.job == t.job && mine n.pkt) ||
        R.entering.any fun x => match x with | .packet f k => f == e && mine k | _ => false)

/-- The elements that hold the dispatched tasks below a level. -/
def State.elemsBelow (s : State) (d k : Nat) : List Nat :=
  (List.range 8).flatMap fun dt => (s.die dt).tasks.filterMap fun t =>
    match t.st with | .dispatched e => if s.taskBelow d k dt t && s.runsTask dt e t then some e else none | _ => none

/-- The regions that CANCEL of a level freezes: die and number (13 R381). -/
def State.regionsBelow (s : State) (d k : Nat) : List (Nat × Nat) :=
  let idx := keyIndex k
  let job := (s.counter d k).job
  match keyLevel k with
  | 0 | 1 => ((s.elemsBelow d k).filterMap fun e => (s.proc e).region.map fun g => (dieOf e, g)).eraseDups
  | 2 => [(d, idx)]
  | 3 => (List.range 64).filterMap fun g =>
      let c := s.counter d (cKey 2 0 g)
      if c.isOpen && c.job == job && c.up == idx then some (d, g) else none
  | _ => (List.range 64).filterMap fun g => if (s.region d g).st ≠ .free ∧ (s.region d g).job = job then some (d, g) else none

/-- Takes a dispatched packet back wherever it waits, or marks its open-task entry, while the element still holds the task
(13 R381, 06 R188). -/
def State.withdraw (s : State) (d e : Nat) (t : Task) : State :=
  let mine (k : TaskPkt) : Bool := k.task.toNat == t.idx
  let kept := ((s.die d).delivery.get [] e).filter fun n => !(n.job == t.job && mine n.pkt)
  let waits (x : Caught) : Bool := match x with | .packet f k => f == e && mine k | _ => false
  let s0 := s.modDie d fun D => { D with delivery := D.delivery.set [] e kept }
  let s1 := match (s0.proc e).region with
    | none => s0
    | some g => s0.modRegion (dieOf e) g fun R => { R with entering := R.entering.filter fun x => !waits x }
  if s.runsTask d e t = false then s1
  else s1.modProc e fun P =>
    let lanes := P.lanes.map fun l => l.filter fun k => !mine k
    { P with
      lanes := lanes
      head := P.head.filter fun h => match (vget P.lanes h.val).head? with | some k => !mine k | none => false
      openTasks := P.openTasks.map fun o => if o.task.toNat = t.idx then { o with cancelled := true } else o }

/-- A dispatched task not yet completed is cancelled: its keys are FREE and tainted (13 R367, R381). -/
def State.cancelDispatched (s : State) (d : Nat) (t : Task) : State :=
  match t.st with
  | .dispatched e => (t.keys.foldl (fun s k => s.freeKey d k true) (s.withdraw d e t)).dropTask d t
  | _ => s

/-- CANCELLED (16 R421, R424). -/
def fltCancelled (w : Nat) : Flt := { code := 20, op0 := some (BitVec.ofNat 64 w), op1 := some 0 }

/-- CANCEL acts on a region: a RUNNING one freezes and posts its record (16 R424). -/
def State.cancelRegion (s : State) (wid : Nat) (x : Nat × Nat) : State :=
  let R := s.region x.1 x.2
  match R.st with
  | .running =>
    (s.modRegion x.1 x.2 fun R => { R with st := .frozen, held := R.held ++ [regionTarget x.1 x.2] }).raiseOther x.1 (fltCancelled wid) R.job true
      (regionTarget x.1 x.2)
  | _ => s

/-- A SAVED region that CANCEL ends is FREE, and its graph counter closes, after the units below have been counted (13 R380, R381;
16 R443). -/
def State.endSaved (s : State) (x : Nat × Nat) : State :=
  if (s.region x.1 x.2).st = .saved then (s.modRegion x.1 x.2 fun _ => Region.reset).closeCounter x.1 (cKey 2 0 x.2) 2 else s

/-- The ML reservations of requests are filled with acknowledgements (07 R225, 20 R491). -/
def Proc.fillAcks (P : Proc) (rs : List Req) : Proc := { P with ml := rs.foldl (fun m r => mlFill m r.rid [0, 0] 0) P.ml }

/-- The held requests and waiting reads of a unit have their reservations filled with acknowledgements, its path faults are
resolved, and reads held for want of a waiter entry take those it leaves (07 R225, 09 R261, 16 R427, 20 R491). -/
def State.cancelHeld (s : State) (p : Nat) : State :=
  let path (x : CtxFault) : Bool := match x.kind with | .path _ => true | _ => false
  let s1 := s.modProc p fun P =>
    { P.fillAcks P.held with held := [], ctxs := P.ctxs.map fun C => { C with faults := C.faults.filter fun x => !path x } }
  s1.clusters.foldl (fun s e =>
    let mine := (e.2.waiters ++ e.2.waitq).filter fun x => x.proc == p
    if mine.isEmpty then s
    else
      let s1 := (s.modProc p fun P => P.fillAcks (mine.map Waiter.req)).modCluster e.1 fun C =>
        { C with waiters := C.waiters.filter (fun x => x.proc != p), waitq := C.waitq.filter fun x => x.proc != p }
      s1.admitWaiters e.1 (s1.cluster e.1).waitq.length) s1

/-- A unit's region is one of these. -/
def State.regionIn (s : State) (rs : List (Nat × Nat)) (p : Nat) : Bool :=
  !isCore p && (match (s.proc p).region with | some g => rs.contains (dieOf p, g) | none => false)

/-- CANCEL on the engines of some regions: templates, graphs and copies (11 R337, 12 R363, 09 R277). -/
def State.cancelEngines (s : State) (rs : List (Nat × Nat)) : State :=
  let s1 := s.clusters.foldl (fun s e =>
    let s1 := e.2.mx.foldl (fun s u => u.2.tmpl.foldl (fun s t =>
      match t.2 with
      | some T => (match T.region with
        | some g => if rs.contains (dieOf T.proc, g) then s.mxCancel e.1 u.1 t.1 else s
        | none => s)
      | none => s) s) s
    e.2.esp.foldl (fun s u =>
      match s.espRegion e.1 u.2 with
      | some x => if rs.contains x then s.espCancel e.1 u.1 else s
      | none => s) s1) s
  (List.range 8).foldl (fun s d => (s.die d).copies.foldl (fun s c =>
    match c.2 with
    | some x => if x.live && x.stopping.isNone && s.regionIn rs x.proc then
        s.modCopy (128 * d + c.1) fun c => c.stop x.proc (2 ^ 64)
      else s
    | none => s) s) s1

/-- Cancel (13 R381) of the level with counter `k` of die `d`; at job level the job's plans are dropped (19 R469). -/
def State.cancelLevel (s : State) (d k : Nat) : State :=
  let lvl := keyLevel k
  let job := (s.counter d k).job
  let rs := s.regionsBelow d k
  let below (s : State) (dt : Nat) (t : Task) : Bool := s.taskBelow d k dt t
  let dies := List.range 8
  let disp := dies.flatMap fun dt => (s.die dt).tasks.filterMap fun t =>
    match t.st with | .dispatched _ => if below s dt t then some (dt, t) else none | _ => none
  let s1 := dies.foldl (fun s1 dt => s1.dropWaiting dt job fun t => below s dt t) s
  let s2 := rs.foldl (fun s x => s.cancelRegion (workId d k) x) s1
  let s3 := disp.foldl (fun s x => s.cancelDispatched x.1 x.2) s2
  let s4 := dies.foldl (fun s dt => s.dropWaiting dt job fun _ => false) s3
  let s5 := if lvl ≥ 2 then
      rs.foldl State.endSaved ((rs.map (·.1)).eraseDups.foldl (fun s x => s.returnPermits x job fun e => s.regionIn rs e) s4)
    else s4
  let s6 := if lvl = 4 then s5.plans.foldl (fun s e => match e.2 with
      | some p => if p.job = job then s.dropPlan e.1 else s
      | none => s) s5 else s5
  (s6.procs.map (·.1)).foldl (fun s p => if s.regionIn rs p then s.cancelHeld p else s) (s6.cancelEngines rs)

/-- A region to be frozen has a cut or a restore in progress: CANCEL, like FREEZE, waits for its end (16 R435). -/
def State.cutBelow (s : State) (d k : Nat) : Bool := (s.regionsBelow d k).any fun x => (s.region x.1 x.2).busy

/-- The counters that CANCEL of a work identifier names, with their dies: every die's at job level (13 R385). -/
def State.levelsOf (s : State) (a : Word) (job : Option Nat) : List (Nat × Nat) :=
  let lvl := fldN a 29 3
  (if lvl = 4 then List.range 8 else [fldN a 24 3]).filterMap fun d =>
    (s.findLevel d lvl (fldN a 0 16) job).map fun k => (d, k)

/-- CANCEL at the dispatcher (13 R385). -/
def serveCancel : Server := fun _ r s =>
  let ls := s.levelsOf r.a r.job
  let live := ls.filter fun x => (s.counter x.1 x.2).isOpen
  if live.any fun x => s.cutBelow x.1 x.2 then .wait s
  else if ls.isEmpty then .word s 2
  else if live.isEmpty then .word s 1
  else .word (live.foldl (fun s x => s.cancelLevel x.1 x.2) s) 0

end Sys2Proof.Machine
end

