-- ==== Sys2Proof/Machine/Regions.lean ====
section
/-! DEFINITION. Regions (15 R404-R409, R415-R419, R549): loading, starting, freezing, releasing and completing them. -/

namespace Sys2Proof.Machine

/-! ### The order at the region table (15 R416) -/

/-- A request has its turn at the region table of die `d`: none that arrived before it waits there. -/
def State.tableTurn (s : State) (d rid : Nat) : Bool := match (s.die d).tableq with | [] => true | x :: _ => x == rid
/-- A request waits at the region table, in arrival order. -/
def State.joinTable (s : State) (d rid : Nat) : State :=
  s.modDie d fun D => { D with tableq := if D.tableq.contains rid then D.tableq else D.tableq ++ [rid] }
/-- A request has acted at the region table. -/
def State.leaveTable (s : State) (d rid : Nat) : State := s.modDie d fun D => { D with tableq := D.tableq.filter (· != rid) }

/-- The instructions of chapter 15 act on a die's region table one at a time in arrival order (15 R416): one that waits holds back
those that arrive after it. -/
def inTurn (f : Server) : Server := fun p r s =>
  let d := dieOf p
  if s.tableTurn d r.rid = false then .wait (s.joinTable d r.rid)
  else match f p r s with
    | .done s1 ws tag => .done (s1.leaveTable d r.rid) ws tag
    | .fail s1 x q => .fail (s1.leaveTable d r.rid) x q
    | .wait s1 => .wait (s1.joinTable d r.rid)
    | .park s1 q => .park (s1.joinTable d r.rid) q

/-! ### Loading (15 R415) -/

/-- The elements a region's records place at a cluster base: region-relative cluster and element (15 R407). -/
def namedElems (rs : List ImgRec) : List (Nat × Nat) := (rs.filter fun x => x.typ == 2).map fun x => (x.cl, x.el)
/-- The clusters a region's records name, region-relative: those of its elements, routers and tiles (15 R405, R407). -/
def namedClusters (rs : List ImgRec) : List Nat :=
  ((rs.filter fun x => 2 ≤ x.typ && x.typ ≤ 6).map ImgRec.cl).eraseDups

/-- Absolute number of a region-relative element. -/
def placeElem (d cbase : Nat) (x : Nat × Nat) : Nat := 512 * d + 16 * (cbase + x.1) + x.2

/-- A region of a job other than `job` holds an element of the cluster. -/
def State.otherJobIn (s : State) (job cl : Nat) : Bool :=
  (s.die (cl / 32)).regions.any fun e =>
    e.2.st != .free && e.2.st != .saved && e.2.job != job && e.2.clusters.contains cl

/-- The placement conflicts (15 R407, R415; 24 R537: a failed die holds no region). -/
def State.placeBad (s : State) (d job cbase : Nat) (rs : List ImgRec) : Bool :=
  (s.die d).failed ||
  (namedClusters rs).any (fun c => decide (cbase + c > 31) || s.otherJobIn job (32 * d + cbase + c)) ||
  (namedElems rs).any fun x => (s.proc (placeElem d cbase x)).region.isSome

/-- The TILE words of a region-relative cluster: frame and tag (15 R405). -/
def tileWords (rs : List ImgRec) (c : Nat) : List (Nat × BitVec 2) :=
  (rs.filter fun x => x.typ == 6 && x.cl == c).flatMap fun x => x.body.map fun w => (fldN w 16 10, fld w 0 2)

/-- A named cluster is reset, unless the job holds another region there (15 R415, 09 R252, 16 R436). -/
def State.loadCluster (s : State) (d g job cbase : Nat) (rs : List ImgRec) (c : Nat) : State :=
  let n := 32 * d + cbase + c
  let shared := (s.die d).regions.any fun e =>
    e.1 != g && e.2.st != .free && e.2.st != .saved && e.2.job == job && e.2.clusters.contains n
  let tiles (C : Cluster) : Cluster := (tileWords rs c).foldl (fun C y => C.setTile y.1 y.2) C
  if shared then s.modCluster n tiles
  else
    (s.clearBytes (syncAddr n 0) 4096).modCluster n fun C =>
      tiles { C with tiles := [], tags := [], dirty := 0, cdirty := 0,
                     badWords := C.badWords.filter fun o => decide (o < syncBase) }

/-- Writes the ROUTER records of a region (15 R405, 10 R307). -/
def State.loadRouters (s : State) (d cbase : Nat) (rs : List ImgRec) : State :=
  (rs.filter fun x => x.typ == 5).foldl (fun s x =>
    x.body.foldl (fun s w =>
      match s.rtrWrite (32 * d + cbase + x.cl) x.el (fldN w 36 12) (put (fldN w 0 32) 0) with
      | .ok s1 => s1
      | .error _ => s) s) s

/-- What a relocated register moves by (15 R415). -/
def placeShift (d cbase : Nat) : Word := put (32 * d + cbase) 22

/-- The region an image's records describe, once placed (15 R406, R407; 16 R446). -/
def regionOfRecs (rs : List ImgRec) (d job cbase rsel image : Nat) (st : RegState) : Region :=
  let reg := rs.find? fun x => x.typ == 1
  let elems := (namedElems rs).map (placeElem d cbase)
  { Region.reset with
    st := st, job := job, cbase := cbase, elems := elems
    clusters := (namedClusters rs).map fun c => 32 * d + cbase + c
    replayable := match reg with | some x => bitOf x.head 32 | none => false
    image := image, rsel := rsel, wd := match reg with | some x => x.body.getD 0 0 | none => 0 }

/-- Loads the elements, clusters and routers of a region (15 R415). -/
def State.loadUnits (s : State) (d g job cbase : Nat) (rs : List ImgRec) : State :=
  let reloc := relocWords rs
  let s1 := (namedClusters rs).foldl (fun s c => s.loadCluster d g job cbase rs c) s
  let s2 := (namedElems rs).foldl (fun s x =>
    s.modProc (placeElem d cbase x) (loadElement rs reloc (placeShift d cbase) x.1 x.2 g)) s1
  s2.loadRouters d cbase rs

/-- The checks of CFGLOAD that give a status, but for its image's (15 R415), where `all` are the records of the
image and `rs` those of the region: 0 when the region may be loaded. -/
def State.loadStatus (s : State) (d job cbase g : Nat) (all rs : List ImgRec) : Nat :=
  if s.minimal = true ∨ s.jobExists d job = false then 6
  else if s.jobClosing d job then 3
  else if (s.region d g).st ≠ .free then 4
  else if s.placeBad d job cbase rs then 5
  else if (badSlot all).isSome then 1
  else 0

/-- The load itself: region `g` becomes LOADED and its graph counter opens (15 R415, 13 R379). -/
def State.loadRegion (s : State) (d g job cbase rsel image owner : Nat) (rs : List ImgRec) : State :=
  let s0 : State := if s.tableHome.get 0 job = 0 then { s with tableHome := s.tableHome.set 0 job (d + 1) } else s
  let s1 := s0.loadUnits d g job cbase rs
  let s2 := s1.modRegion d g fun _ => regionOfRecs rs d job cbase rsel image .loaded
  s2.openCounter d (cKey 2 0 g) 1 0 owner job (s2.jobPhase d job)

/-- The configuration-error event (02 R69, 15 R400): reason, element, slot, region and whether it is a CTL word. The element of a
word that the placement would carry past the last cluster keeps the 12 bits of its field. -/
def State.postConfigError (s : State) (d core reason elem slot g : Nat) (ctl : Bool) (img : Word) (idx : Nat) : State :=
  s.postEvent d core
    (put 1 56 ||| put 1 48 ||| put reason 45 ||| put (elem % 4096) 33 ||| put slot 28 ||| put g 22 ||| put (if ctl then 1 else 0) 21)
    img (BitVec.ofNat 64 idx)

/-- Posts the event of the first slot word of an image that fails Check, its element as the load would place it. -/
def State.postBadSlot (s : State) (d core cbase g : Nat) (rs : List ImgRec) (img : Word) : State :=
  match badSlot rs with
  | none => s
  | some x => s.postConfigError d core (check false x.2.2.1) (512 * d + 16 * cbase + x.1) x.2.1 g false img x.2.2.2

/-- CFGLOAD's issue fault (15 R415). -/
def cfgloadFaults (e : Env) (_ : State) : Option Flt :=
  if aSlot e.a = 0 ∨ fldN e.a 0 3 ≠ 0 ∨ fldN e.b 30 34 ≠ 0 ∨ fldN e.b 14 2 ≠ 0 ∨ fldN e.b 6 2 ≠ 0 then some fltBounds else none

/-- CFGLOAD (15 R413, R415). -/
def execCfgload (f : RForm) (s : State) : Out := issue (viewR 0xF5 f) (portEffect .cfgload modOf cfgloadFaults) s

/-- The status word of CFGLOAD (15 R416). -/
def loadWord (st g : Nat) : Word := put st 56 ||| put g 0

/-- CFGLOAD with CTL 1: the core's local memory is written (15 R415). -/
def State.loadCtl (s : State) (p : Nat) (rs : List ImgRec) : State :=
  (rs.filter fun x => x.typ == 8).foldl (fun s x =>
    s.mwrite (localKey p (x.body.getD 0 0).toNat) ((x.body.drop 1).flatMap (bytesOf 8))) s

/-- CFGLOAD on its whole image at wide address `w` (15 R415, R416). -/
def State.cfgImage (s : State) (p : Nat) (r : Req) (w : Nat) (ws : List Word) : Served :=
  let d := dieOf p
  let job := fldN r.b 16 8
  let cbase := fldN r.b 8 5
  let g := fldN r.b 0 6
  let core := (p - 4096) % 4
  match parseImage ws with
  | none => .word s (loadWord 2 g)
  | some all =>
    if hasRegion all (fldN r.b 24 6) = false then .word s (loadWord 2 g)
    else if bitOf r.b 13 then
      match badCtl all with
      | some x => .word (s.postConfigError d core (check true x.1) 0 0 0 true r.a x.2) (loadWord 1 g)
      | none => .word (s.loadCtl p all) (loadWord 0 g)
    else
      let rs := regionRecs all (fldN r.b 24 6)
      let st := s.loadStatus d job cbase g all rs
      if st = 0 then .word (s.loadRegion d g job cbase (fldN r.b 24 6) w core rs) (loadWord 0 g)
      else .word (if st = 1 then s.postBadSlot d core cbase g all r.a else s) (loadWord st g)

/-- Reads a launch image whole, once its object's state is known: `k` words in hand answer that question (15 R415). -/
def State.readImage (s : State) (p : Nat) (r : Req) (w k : Nat) (bad : State → Served) (f : List Word → State → Served) :
    Served :=
  s.readWords p r w 1 k fun hs s1 =>
    if fldN (hs.headD 0) 0 32 = 0 then bad s1 else s1.readWords p r w (fldN (hs.headD 0) 0 32) k f

/-- CFGLOAD at the die's region table (15 R397, R415). -/
def cfgloadServed : Server := fun p r s =>
  let q : Req := { r with job := some (fldN r.b 16 8) }
  if s.minimal = true ∧ bitOf r.b 13 = false then .word s (loadWord 6 (fldN r.b 0 6)) else
  match (if q.wide ≠ 0 then .ok q.wide else s.resolveHandle (fldN r.b 16 8) r.a 8) with
  | .error x => .fail s x q
  | .ok w =>
    let q : Req := { q with wide := w }
    s.imageState p q w fun k code =>
      if sealedCode code = false then .fail s fltProt q
      else s.readImage p q w k (fun s1 => .word s1 (loadWord 2 (fldN r.b 0 6))) fun ws s1 => s1.cfgImage p q w ws

/-- CFGLOAD in its turn (15 R416). -/
def serveCfgload : Server := inTurn cfgloadServed

/-! ### RUN (15 R417) -/

/-- An element as RUN of its region starts it: the start leaves the contexts' dirty bits (16 R436). -/
def startElement (P : Proc) : Proc :=
  { P with
    ctxs := Vector.ofFn fun k =>
      let C := P.ctx k.val
      if P.slots.any fun x => (x.2.word.map fun w => (fld w 62 2).toNat) == some k.val then { C with rstate := .run } else C
    slots := P.slots.map (fun x => (x.1, { x.2 with w := 0 })), last := 3, ptr := 0 }

/-- RUN of a LOADED region. -/
def State.startRegion (s : State) (d g : Nat) : State :=
  let R := s.region d g
  (R.elems.foldl (fun s e => s.modProc e startElement) s).modRegion d g fun R => { R with st := .running, wdStart := s.tai }

/-- RUN of a region (15 R417). -/
def execRun (f : RForm) (s : State) : Out := issue (viewR 0xF6 f) (portEffect .run modOf noFaults) s

/-- RUN of a context of a control core, the same word with a[63] = 1 (15 R417). -/
def execRunContext (f : RForm) (s : State) : Out := issue (viewR 0xF6 f) (portEffect .run modOf noFaults) s

/-- RUN of a core's context: its status and effect (15 R417). In minimal mode only core 0 is in service (24 R539; log entry 114). -/
def State.runContext (s : State) (d : Nat) (a b : Word) : Nat × State :=
  if fldN a 10 53 ≠ 0 ∨ fldN a 2 6 ≠ 0 then (3, s)
  else
    let p := coreUnit d (fldN a 8 2)
    let c := fldN a 0 2
    if s.minimal = true ∧ fldN a 8 2 ≠ 0 then (1, s)
    else if (s.ctx p c).rstate ≠ .halt then (1, s)
    else if b.toNat > 0x3FFF8 ∨ fldN b 0 3 ≠ 0 then (2, s)
    else (0, s.modCtx p c fun C => { C with pc := b.setWidth 19, rstate := .run })

/-- RUN at the region table (15 R417). -/
def runServed : Server := fun p r s =>
  let d := dieOf p
  if bitOf r.a 63 then
    let x := s.runContext d r.a r.b
    .word x.2 (put x.1 0)
  else if fldN r.a 6 58 ≠ 0 then .word s 3
  else match (s.region d (fldN r.a 0 6)).st with
    | .loaded => .word (s.startRegion d (fldN r.a 0 6)) 0
    | .running => .word s 1
    | _ => .word s 2

/-- RUN in its turn (15 R416). -/
def serveRun : Server := inTurn runServed

/-! ### FREEZE, THAW and release (15 R418, R549) -/

/-- FREEZE (15 R418). -/
def execFreeze (f : RForm) (s : State) : Out := issue (viewR 0xF7 f) (portEffect .freeze modOf noFaults) s
/-- FREEZE.rel (15 R418). -/
def execFreezeRel (f : RForm) (s : State) : Out := issue (viewR 0xF7 f) (portEffect .freezeRel modOf noFaults) s
/-- THAW (15 R418). -/
def execThaw (f : RForm) (s : State) : Out := issue (viewR 0xF8 f) (portEffect .thaw modOf noFaults) s

/-- A FROZEN region runs again, unless `freeze.rel` has acted on it (15 R416, R418). -/
def State.thawRegion (s : State) (d g : Nat) : State :=
  s.modRegion d g fun R => if R.rel then { R with held := [] } else { R with st := .running, held := [] }

/-- A RUNNING region freezes. -/
def State.freezeRegion (s : State) (d g : Nat) : State := s.modRegion d g fun R => { R with st := .frozen }

/-- FREEZE at the region table: during a cut it waits (15 R418, 16 R435). -/
def freezeServed : Server := fun p r s =>
  let d := dieOf p
  let g := fldN r.a 0 6
  if fldN r.a 6 58 ≠ 0 then .word s 3
  else if (s.region d g).busy then .wait s
  else match (s.region d g).st with
    | .running => .word (s.freezeRegion d g) 0
    | .frozen => .word s 1
    | _ => .word s 2

/-- FREEZE in its turn (15 R416). -/
def serveFreeze : Server := inTurn freezeServed

/-- THAW at the region table (15 R418). -/
def thawServed : Server := fun p r s =>
  let d := dieOf p
  let g := fldN r.a 0 6
  if fldN r.a 6 58 ≠ 0 then .word s 3
  else if (s.region d g).busy then .wait s
  else if (s.region d g).st = .frozen then .word (s.thawRegion d g) 0
  else .word s 2

/-- THAW in its turn (15 R416). -/
def serveThaw : Server := inTurn thawServed

/-- A copy bound by a context of one of these regions is live, or has a request left. -/
def State.copiesLive (s : State) (rs : List (Nat × Nat)) : Bool :=
  s.dies.any fun d => d.2.copies.any fun c => match c.2 with
    | some x => (x.live || !x.reqs.isEmpty) && s.regionIn rs x.proc
    | none => false

/-- A template of one of these regions has an operation past its entry or waits to be taken away, or a graph of one has a vector
(15 R408). -/
def State.enginesBusy (s : State) (rs : List (Nat × Nat)) : Bool :=
  s.clusters.any fun e =>
    (e.2.mx.any fun u => u.2.tmpl.any fun t => match t.2 with
      | some T => (match T.region with | some g => rs.contains (dieOf T.proc, g) && (u.2.active t.1 || T.closing) | none => false)
      | none => false) ||
    (e.2.esp.any fun u => match s.espRegion e.1 u.2 with
      | some x => rs.contains x && (u.2.outq != [] || u.2.items != [])
      | none => false)

/-- Every access of a region's contexts, copies and engines is performed or released (20 R492, 21 R506), and every result
outstanding has been delivered (04 R111). -/
def State.regionQuiet (s : State) (d g : Nat) : Bool :=
  (s.region d g).elems.all (fun e => let P := s.proc e; P.reqs.isEmpty && P.parked.isEmpty && P.held.isEmpty &&
    P.ctxs.toList.all fun C => C.outst.isEmpty) &&
  !s.copiesLive [(d, g)] && !s.enginesBusy [(d, g)]

/-- An element as its release leaves it (15 R418). -/
def releaseElement (P : Proc) : Proc :=
  { P with
    slots := [], ins := P.ins.map (fun c => { c with q := [], link := none, linkSrc := none }), outs := Vector.replicate 4 []
    lanes := Vector.replicate 8 [], head := none, ml := [], el := [], elHeld := [], resps := [], openTasks := [], hold := []
    ctxs := P.ctxs.map fun C => { C with rstate := .halt, outst := [], faults := [], stepOver := [] }
    region := none }

/-- Packets that wait for released elements are discarded (15 R549): those sent by TSEND, and those of other graphs' tasks in the
dispatcher's delivery queues, which no cancellation of this graph has withdrawn (log entry 109). -/
def State.dropSent (s : State) (es : List Nat) : State :=
  let keep (n : NetPkt) : Bool := !es.contains n.dst
  let s1 := (s.procs.map (·.1)).foldl (fun s p =>
    if (s.proc p).taskOut.all keep then s else s.modProc p fun P => { P with taskOut := P.taskOut.filter keep }) s
  (List.range 8).foldl (fun s d => s.modDie d fun D =>
    { D with net := D.net.filter keep, delivery := es.foldl (fun m e => m.set [] e []) D.delivery }) s1

/-- Releases the units of a region; the region itself is the caller's (15 R418, 16 R433). -/
def State.releaseUnits (s : State) (d g : Nat) : State :=
  let es := (s.region d g).elems
  es.foldl (fun s e => s.modProc e releaseElement) (s.dropSent es)

/-- The operators a region holds: cluster and number (15 R407). -/
def Region.ops (R : Region) : List (Nat × Nat) :=
  R.elems.flatMap fun e => ([e % 16, e % 16 + 16].filter fun k => decide (k ≤ 26)).map fun k => (e / 16, k)

/-- The stream updates of a region are performed before its release completes: the windows of its sparse-update units close, and a
count token that finds no room goes with the region (20 R492; 10 R292). -/
def State.flushWindows (s : State) (d g : Nat) : State :=
  (s.region d g).ops.foldl (fun s x =>
    if (opKind x.2).1 = 5 then
      let u := SuuId.cluster x.1 (opKind x.2).2
      match s.closeWindow u with | some s1 => s1 | none => s.applyWindow u
    else s) s

/-- `freeze.rel` of a region: cancelled as at graph level, and FREE once every access of it is performed
(15 R418, R549; 20 R492). -/
def State.releaseRegion (s : State) (d g : Nat) : Option State :=
  if s.regionQuiet d g then
    let s1 := (s.releaseUnits d g).modRegion d g fun _ => Region.reset
    let k := cKey 2 0 g
    some (if (s1.counter d k).isOpen then s1.closeCounter d k 2 else s1)
  else none

/-- `freeze.rel` at the region table (15 R418): once it has acted, nothing but its end changes the region's state. -/
def freezeRelServed : Server := fun p r s =>
  let d := dieOf p
  let g := fldN r.a 0 6
  let R := s.region d g
  if fldN r.a 6 58 ≠ 0 then .word s 3
  else if R.busy then .wait s
  else match R.st with
    | .loaded | .frozen | .done =>
      let s1 := ((s.cancelLevel d (cKey 2 0 g)).flushWindows d g).modRegion d g fun R => { R with rel := true }
      match s1.releaseRegion d g with
      | some s2 => .word s2 0
      | none => .wait s1
    | _ => .word s 2

/-- `freeze.rel` in its turn (15 R416). -/
def serveFreezeRel : Server := inTurn freezeRelServed

/-! ### BARRIER (15 R409, R419) -/

/-- BARRIER (15 R419). -/
def execBarrier (f : RForm) (s : State) : Out := issue (viewR 0xFC f) (portEffect .barrier modOf noFaults) s

/-- BARRIER at the die (15 R409, R419). A nonzero a[63:8] names no job (log entry 26). -/
def barrierServed : Server := fun p r s =>
  let d := dieOf p
  let j := fldN r.a 0 8
  if fldN r.a 8 56 ≠ 0 ∨ s.jobExists d j = false then .word s (put 1 17)
  else
    let ph := s.jobPhase d j
    if s.jobClosing d j then .word s (put ph 0 ||| put 1 16)
    else .word ((s.setPhase d j ph true).fall d (cKey 3 j ph)) (put ph 0)

/-- BARRIER in its turn (15 R416). -/
def serveBarrier : Server := inTurn barrierServed

/-! ### REGION_COMPLETE (15 R408) -/

/-- An input channel holds nothing and no link offers it anything. -/
def InChan.idle (c : InChan) : Bool := c.q.isEmpty && c.link.isNone

/-- An element keeps its region from completing (15 R408). -/
def Proc.busy (P : Proc) : Bool :=
  (P.ctxs.toList.any fun C => C.rstate != .halt) || !(P.ins.toList.all InChan.idle) || !(P.outs.toList.all List.isEmpty) ||
  !(P.lanes.toList.all List.isEmpty) || !P.ml.isEmpty || !P.el.isEmpty || !P.reqs.isEmpty || !P.parked.isEmpty ||
  !P.held.isEmpty || !P.resps.isEmpty || !P.openTasks.isEmpty || !P.taskOut.isEmpty

/-- The routers of a region, as cluster and router. -/
def Region.routers (R : Region) : List (Nat × Nat) := R.elems.map fun e => (e / 16, e % 16)

/-- An operator of a region holds a token or a reservation, or its link offers one. -/
def State.opsBusy (s : State) (R : Region) : Bool :=
  R.routers.any fun x =>
    let C := s.cluster x.1
    (C.opIn.any fun e => e.1 / 4 % 16 == x.2 && !e.2.idle) || (C.opOut.any fun e => e.1 / 4 % 16 == x.2 && !e.2.isEmpty)

/-- The input channel of a port belongs to a region. -/
def State.portIn (s : State) (d g : Nat) (port : InPort) : Bool := s.portRegion port == (d, some g)

/-- A token in a router came from a region, or goes to it (15 R408). -/
def State.tokenOf (s : State) (d g : Nat) (cl r : Nat) (x : RTok) : Bool :=
  x.sender == some (d, g) || (s.tokReaches cl r x).any (s.portIn d g)

/-- A token sent by a region, or on its way to one, stands in a router or on a link, and so does a task packet, which is a token
(15 R408; log 44). -/
def State.travelling (s : State) (d g : Nat) : Bool :=
  (s.clusters.any fun e => e.1 / 32 == d &&
    ((e.2.routers.any fun y => y.2.inq.toList.any fun q => q.any fun x => s.tokenOf d g e.1 y.1 x) ||
     e.2.opIn.any fun y => y.2.link.isSome && y.2.linkSrc == some (d, g))) ||
  (s.procs.any fun e => e.2.ins.toList.any fun c => c.link.isSome && c.linkSrc == some (d, g)) ||
  ((s.die d).tileIn.any fun y => y.2.link.isSome && y.2.linkSrc == some (d, g)) ||
  ((s.die d).lends.any fun x => (s.proc x.1).region == some g) ||
  (s.die d).net.any fun n => (s.proc n.src).region == some g || (s.proc n.dst).region == some g

/-- A waiting SYNCRD of a unit. -/
def State.syncWaits (s : State) (p : Nat) : Bool := s.clusters.any fun e => (e.2.waiters ++ e.2.waitq).any fun x => x.proc == p

/-- A RUNNING region is complete (15 R408). -/
def State.regionDone (s : State) (d g : Nat) : Bool :=
  let R := s.region d g
  R.st == .running && R.cut.isNone && R.entering.isEmpty && R.elems.all (fun e => !(s.proc e).busy && !s.syncWaits e) &&
    !s.opsBusy R && !s.copiesLive [(d, g)] && !s.enginesBusy [(d, g)] && !s.travelling d g

/-- REGION_COMPLETE (15 R408, 13 R379): the region is DONE and its graph counter falls. -/
def execRegionComplete (d g : Nat) (s : State) : Out :=
  if s.regionDone d g then .next ((s.modRegion d g fun R => { R with st := .done }).fall d (cKey 2 0 g)) else .next s

end Sys2Proof.Machine
end

