-- ==== Sys2Proof/Machine/Control.lean ====
section
/-! DEFINITION. Control cores (15 R392-R403, R410-R414): branches and pops, the event queues and the mailbox, and the control
page's writes that no other chapter gives. -/

namespace Sys2Proof.Machine

/-! ### Branches and pops (15 R414) -/

/-- The target of a relative branch, when it lies in local memory (15 R398, R414). -/
def branchTarget (pc : BitVec 19) (disp : BitVec 28) : Option (BitVec 19) :=
  let t : Int := pc.toNat + 8 * disp.toInt
  if 0 ≤ t ∧ t ≤ 0x3FFF8 then some (BitVec.ofInt 19 t) else none

/-- BR (15 R414). -/
def execBr (f : BForm) (s : State) : Out :=
  issue (viewB 0xF0 f) (fun e s =>
    match branchTarget e.C.pc f.disp with
    | none => .error fltBounds
    | some t => .ok (s, { pc := some t })) s

/-- BRL (15 R414): the link goes to x15. -/
def execBrl (f : BForm) (s : State) : Out :=
  issue (viewB 0xF1 f) (fun e s =>
    match branchTarget e.C.pc f.disp with
    | none => .error fltBounds
    | some t =>
      .ok (s.modCtx e.p e.c fun C => { C with x := vset C.x 15 ((e.C.pc.zeroExtend 64) + 8) }, { pc := some t })) s

/-- BX (15 R414). -/
def execBx (f : RForm) (s : State) : Out :=
  issue (viewR 0xF2 f) (fun e s =>
    if fldN e.a 18 46 ≠ 0 ∨ fldN e.a 0 3 ≠ 0 then .error fltBounds else .ok (s, { pc := some (e.a.setWidth 19) })) s

/-- What a pop delivers: the oldest record, or zeros. -/
def popRes (n : Nat) (q : List (List Word)) : Res :=
  match q with
  | [] => { vals := List.replicate n 0, cond := false }
  | r :: _ => { vals := (List.range n).map (r.getD · 0), cond := true }

/-- EVPOP (15 R414): a dequeue of EQ by the same word is the same removal. -/
def execEvpop (f : RForm) (s : State) : Out :=
  issue (viewR 0xF3 f) (fun e s =>
    let s1 := if (dqChans e.sh e.v).contains 6 then s else s.modProc e.p fun P => { P with evq := P.evq.tail }
    .ok (s1, popRes 4 (e.pre.proc e.p).evq)) s

/-- MBXPOP (15 R414): a dequeue of MB by the same word is the same removal. -/
def execMbxpop (f : RForm) (s : State) : Out :=
  issue (viewR 0xF4 f) (fun e s =>
    let d := dieOf e.p
    let s1 := if (dqChans e.sh e.v).contains 4 then s else s.modDie d fun D => { D with mailbox := D.mailbox.tail }
    .ok (s1, popRes 8 (e.pre.die d).mailbox)) s

/-! ### Queues (15 R399, R401) -/

/-- EVENT_RECORD_POST (15 R399): held record `k` of a die enters its core's queue when that has room. -/
def execEventRecordPost (d k : Nat) (s : State) : Out :=
  match (s.die d).evPend[k]? with
  | none => .next s
  | some r =>
    let u := coreUnit d r.core
    if (s.proc u).evq.length < 1024 then
      .next ((s.modDie d fun D => { D with evPend := D.evPend.eraseIdx k }).modProc u fun U => { U with evq := U.evq ++ [r.words] })
    else .next s

/-- A fault record with its SEQ (16 R422). -/
def withSeq (n : Nat) (ws : List Word) : List Word :=
  ws.zipIdx.map fun x => if x.2 = 1 then x.1 ||| put (n % 2 ^ 16) 0 else x.1

/-- FAULT_RECORD (15 R401, 16 R422): the oldest waiting record enters the mailbox when that has room. -/
def execFaultRecord (d : Nat) (s : State) : Out :=
  match (s.die d).faultPend with
  | [] => .next s
  | r :: rest =>
    if (s.die d).mailbox.length < 256 then
      .next (s.modDie d fun D =>
        { D with faultPend := rest, mailbox := D.mailbox ++ [withSeq D.mailSeq r], mailSeq := D.mailSeq + 1 })
    else .next s

/-! ### Islands (15 R410; 24 R537, R542) -/

/-- THROTTLE's level, when it has effect (24 R541, R543). -/
def State.throttleLevel (s : State) : Nat := if s.minimal then 0 else fldN (s.pkgReg 1080) 4 2

/-- The point that a write of POINT `n` sets: none when it is ignored. -/
def State.islandPoint (s : State) (n : Nat) : Option Nat :=
  if n > 4 ∨ (s.reduced = true ∧ n ≠ 2) then none else some (Nat.max n s.throttleLevel)

/-- Begins an island's change of point; nothing changes when it runs at that point already. -/
def State.setIsland (s : State) (d c n : Nat) : State :=
  if fldN (s.ctlReg d (1024 + c)) 0 3 = n then s
  else (s.setCtlReg d (1024 + c) (put 1 8 ||| put n 0)).modDie d fun D =>
    { D with islandBusy := if D.islandBusy.contains c then D.islandBusy else D.islandBusy ++ [c] }

/-- ISLAND_WRITE (15 R410). -/
def execIslandWrite (p k : Nat) (s : State) : Out :=
  match s.ctlStore p k with
  | none => .next s
  | some (r, n) =>
    if 1024 ≤ n ∧ n < 1056 then
      .next ((match s.islandPoint (fldN r.b 0 3) with
        | some m => s.setIsland (dieOf p) (n - 1024) m
        | none => s).ctlDone p r)
    else .next s

/-- ISLAND_CHANGE_DONE (15 R410). -/
def execIslandChangeDone (cl : Nat) (s : State) : Out :=
  let d := cl / 32
  let c := cl % 32
  if (s.die d).islandBusy.contains c then
    .next ((s.setCtlReg d (1024 + c) (s.ctlReg d (1024 + c) &&& 7)).modDie d fun D =>
      { D with islandBusy := D.islandBusy.filter (· != c) })
  else .next s

/-! ### Jobs (15 R402, R403) -/

/-- A job holds a region on a die. -/
def State.jobHolds (s : State) (d job : Nat) : Bool :=
  (s.die d).regions.any fun e => e.2.st != .free && e.2.job == job

/-- The KEYIDX of a job created in SECURE mode: the one it has on another die, or the lowest that no job holds and no page uses
(19 R476, log entry 27). -/
def State.newKeyIdx (s : State) (job : Nat) : Nat :=
  match s.jobKeys.find? fun e => e.1 % 256 == job with
  | some e => e.2
  | none =>
    (((List.range 255).map (· + 1)).find? fun k =>
      !(s.jobKeys.any fun e => e.2 == k) && !(s.leaves.any fun l => l.2.v && l.2.keyidx == k)).getD 0

/-- The effect of JCTL's V bit changing (15 R403, 13 R377, 19 R476). The job's handle table keeps what it holds (log entry
103). -/
def State.jobChange (s : State) (d job : Nat) (was now : Bool) : State :=
  if !was && now then
    let s1 : State := if s.secureMode then { s with jobKeys := s.jobKeys.set 0 (256 * d + job) (s.newKeyIdx job) } else s
    s1.openJob d job
  else if was && !now then
    let s1 : State := { s with jobKeys := s.jobKeys.set 0 (256 * d + job) 0 }
    (s1.fall d (cKey 4 0 job)).endKeys d job
  else s

/-- A write of JCTL (15 R402, R403; 24 R539). -/
def State.writeJctl (s : State) (d job : Nat) (b : Word) : State :=
  let old := s.ctlReg d (4 * job)
  let v := if s.minimal then bitOf old 0 else bitOf b 0
  if bitOf old 0 && !v && s.jobHolds d job then s
  else
    let w := (old &&& 0xFFFF8) ||| (b &&& 0x100006) ||| boolWord v
    (s.setCtlReg d (4 * job) w).jobChange d job (bitOf old 0) v

/-- JCTL_WRITE (15 R403). -/
def execJctlWrite (p k : Nat) (s : State) : Out :=
  match s.ctlStore p k with
  | none => .next s
  | some (r, n) => if n < 1024 ∧ n % 4 = 0 then .next ((s.writeJctl (dieOf p) (n / 4) r.b).ctlDone p r) else .next s

/-- Two key ranges overlap. -/
def rangesMeet (x y : Word) : Bool :=
  fldN x 16 13 != 0 && fldN y 16 13 != 0 && decide (fldN x 0 12 < fldN y 0 12 + fldN y 16 13) &&
    decide (fldN y 0 12 < fldN x 0 12 + fldN x 16 13)

/-- A write of JKEYS is ignored (15 R403). -/
def State.jkeysIgnored (s : State) (d job : Nat) (b : Word) : Bool :=
  decide (fldN b 0 12 + fldN b 16 13 > 4096) ||
  ((List.range 256).any fun j => j != job && s.jobExists d j && rangesMeet b (s.ctlReg d (4 * j + 1))) ||
  ((s.die d).keys.any fun e => e.2.st != .free && s.keyInRange d job e.1)

/-- JKEYS_WRITE (15 R403). -/
def execJkeysWrite (p k : Nat) (s : State) : Out :=
  match s.ctlStore p k with
  | none => .next s
  | some (r, n) =>
    let d := dieOf p
    if n < 1024 ∧ n % 4 = 1 then
      .next ((if s.jkeysIgnored d (n / 4) r.b then s else s.setCtlReg d n (r.b &&& 0x1FFF0FFF)).ctlDone p r)
    else .next s

/-- JTRUST_WRITE (15 R402, 22 R514; 24 R542: without SECURE only DTAG 0 can be written). -/
def execJtrustWrite (p k : Nat) (s : State) : Out :=
  match s.ctlStore p k with
  | none => .next s
  | some (r, n) =>
    if n < 1024 ∧ n % 4 = 3 then
      .next ((if fldN r.b 0 16 ≠ 0 ∧ s.secureMode = false then s else s.setCtlReg (dieOf p) n (r.b &&& 0xFFFF)).ctlDone p r)
    else .next s

/-! ### The other registers -/

/-- Registers whose writes have a row of their own. -/
def ownRow (n : Nat) : Bool :=
  (n < 1024 && n % 4 != 2) || (1024 ≤ n && n < 1056) || n == 1080 || n == 1104 || n == regDbgData

/-- The bits of a register that a write sets; none for a reserved or read-only one (15 R395, R402; 16 R448; 19 R483; 22 R532;
log entry 28). -/
def writeMask (n : Nat) : Word :=
  if n < 1024 ∧ n % 4 = 2 then BitVec.allOnes 64
  else if 1056 ≤ n ∧ n ≤ 1072 then 0xFFFFFFFF
  else if n = 1088 then 0xFFFF00000000FF01
  else if n = 1090 then 7
  else if n = 1106 then 0xFFFF
  else if n = 1129 ∨ n = 1130 then BitVec.allOnes 64
  else if n = 1131 then 3
  else if 1136 ≤ n ∧ n < 1264 then
    (if n % 8 < 4 then BitVec.allOnes 64 else if n % 8 = 4 then 0x800000FF0000003F else 0)
  else if 1264 ≤ n ∧ n < 1328 then BitVec.allOnes 64
  else if n = 2048 then 0xC00001FF0000031F
  else if 2304 ≤ n ∧ n < 2560 then 0x1FFFFF
  else 0

/-- A write of APCMD starts its command, unless one runs (22 R518, R532). -/
def State.startAp (s : State) (b : Word) : State :=
  let old := s.pkgReg 1128
  if bitOf old 63 then s else s.setPkgReg 1128 ((old &&& 0xF0) ||| (b &&& 0xFF0F) ||| put 1 63)

/-- A write of a register that has no row of its own. -/
def State.writeReg (s : State) (d n : Nat) (b : Word) : State :=
  if n = 1128 then s.startAp b
  else
    let m := writeMask n
    if m = 0 then s
    else if isPkgReg n then s.setPkgReg n (b &&& m)
    else s.setCtlReg d n (b &&& m)

/-- CONTROL_REGISTER_WRITE (15 R395, R402). -/
def execControlRegisterWrite (p k : Nat) (s : State) : Out :=
  match s.ctlStore p k with
  | none => .next s
  | some (r, n) => if ownRow n then .next s else .next ((s.writeReg (dieOf p) n r.b).ctlDone p r)

end Sys2Proof.Machine
end

