-- ==== Sys2Proof/Machine/SaveWords.lean ====
section
/-! DEFINITION. The contents of the save records whose layout the manual does not give (16 R437: CHANNELS, TABLES, the internal
state of OPERATOR, ENGINE, and COPY after its descriptor) as words, with the proof that the words give the contents back. How
a record's words stand is the implementation's (`Config.layout`, log entry 8); that they hold these contents is R437's. -/

namespace Sys2Proof.Machine

/-- A writing of values as words, each of which tells where it ends, with its reading. -/
structure Ser (α : Type) where
  enc : α → List Word
  dec : List Word → Option (α × List Word)
  back : ∀ a ws, dec (enc a ++ ws) = some (a, ws)

namespace Ser
variable {α β : Type}

/-- A word. -/
def word : Ser Word where
  enc w := [w]
  dec ws := match ws with | [] => none | w :: ws => some (w, ws)
  back _ _ := rfl

/-- A value written as another from which it can be had back. -/
def conv (S : Ser β) (f : α → β) (g : β → α) (h : ∀ a, g (f a) = a) : Ser α where
  enc a := S.enc (f a)
  dec ws := (S.dec ws).map fun x => (g x.1, x.2)
  back a ws := by simp [S.back, h]

/-- Two values, one after the other. -/
def pair (A : Ser α) (B : Ser β) : Ser (α × β) where
  enc x := A.enc x.1 ++ B.enc x.2
  dec ws := (A.dec ws).bind fun x => (B.dec x.2).map fun y => ((x.1, y.1), y.2)
  back x ws := by simp [List.append_assoc, A.back, B.back]

/-- One of two kinds of values, told apart by a word. -/
def sum (A : Ser α) (B : Ser β) : Ser (α ⊕ β) where
  enc x := match x with | .inl a => 0 :: A.enc a | .inr b => 1 :: B.enc b
  dec ws := match ws with
    | [] => none
    | w :: ws => if w = 0 then (A.dec ws).map fun x => (.inl x.1, x.2) else (B.dec ws).map fun x => (.inr x.1, x.2)
  back x ws := by cases x <;> simp [A.back, B.back]

/-- The words of a list: each item after a 1, and 0 at the end. -/
def encList (A : Ser α) : List α → List Word
  | [] => [0]
  | a :: l => 1 :: (A.enc a ++ encList A l)
/-- The list of words, of fewer than `fuel` items. -/
def decList (A : Ser α) : Nat → List Word → Option (List α × List Word)
  | 0, _ => none
  | _ + 1, [] => none
  | n + 1, w :: ws =>
    if w = 0 then some ([], ws)
    else (A.dec ws).bind fun x => (decList A n x.2).map fun y => (x.1 :: y.1, y.2)

theorem decList_encList (A : Ser α) (l : List α) : ∀ n, l.length < n → ∀ ws, decList A n (encList A l ++ ws) = some (l, ws) := by
  induction l with
  | nil => intro n h ws; obtain ⟨n, rfl⟩ := Nat.exists_eq_succ_of_ne_zero (by omega : n ≠ 0); rfl
  | cons a l ih =>
    intro n h ws
    obtain ⟨n, rfl⟩ := Nat.exists_eq_succ_of_ne_zero (by omega : n ≠ 0)
    simp [encList, decList, List.append_assoc, A.back, ih n (by simpa using h)]

theorem length_encList (A : Ser α) (l : List α) : l.length < (encList A l).length := by
  induction l with
  | nil => simp [encList]
  | cons a l ih => simp [encList]; omega

/-- A list. -/
def list (A : Ser α) : Ser (List α) where
  enc := encList A
  dec ws := decList A (ws.length + 1) ws
  back l ws := decList_encList A l _ (by have := length_encList A l; simp; omega) ws

/-- A value that may be absent. -/
def option (A : Ser α) : Ser (Option α) :=
  (list A).conv Option.toList List.head? (by intro a; cases a <;> rfl)

/-- The digits of a number, 64 bits each, lowest first, `fuel` at most. -/
def natWords : Nat → Nat → List Word
  | 0, _ => []
  | f + 1, n => if n = 0 then [] else BitVec.ofNat 64 n :: natWords f (n / 2 ^ 64)
/-- The number of digits. -/
def ofWords : List Word → Nat
  | [] => 0
  | w :: ws => w.toNat + 2 ^ 64 * ofWords ws

theorem ofWords_natWords (f : Nat) : ∀ n, n ≤ f → ofWords (natWords f n) = n := by
  induction f with
  | zero => intro n h; obtain rfl : n = 0 := by omega
            rfl
  | succ f ih =>
    intro n h
    by_cases h0 : n = 0
    · simp [natWords, ofWords, h0]
    · simp only [natWords, h0, if_false, ofWords, BitVec.toNat_ofNat]
      rw [ih _ (by omega)]
      omega

/-- A number, as its digits. -/
def nat : Ser Nat := (list word).conv (fun n => natWords n n) ofWords (fun n => ofWords_natWords n n (Nat.le_refl n))

/-- An integer: its sign and its size. -/
def int : Ser Int :=
  (pair nat nat).conv (fun i => (i.toNat, (-i).toNat)) (fun x => (x.1 : Int) - x.2) (by intro i; simp only; omega)
/-- A bit vector. -/
def bits (n : Nat) : Ser (BitVec n) := nat.conv BitVec.toNat (BitVec.ofNat n) (by intro a; simp)
/-- A truth value. -/
def bool : Ser Bool := nat.conv Bool.toNat (· == 1) (by intro b; cases b <;> rfl)
/-- A number below 8. -/
def fin8 : Ser (Fin 8) := nat.conv Fin.val (fun n => Fin.ofNat 8 n) (by intro a; simp)
/-- A vector. -/
def vec (d : α) (n : Nat) (A : Ser α) : Ser (Vector α n) :=
  (list A).conv Vector.toList (fun l => Vector.ofFn fun i => l.getD i.val d)
    (by intro v; ext i h; simp [List.getD_eq_getElem?_getD])
/-- A map. -/
def kmap (A : Ser α) : Ser (KMap α) := list (pair nat A)

/-- The value that a whole list of words stands for, where they are what it is written as. -/
def read (A : Ser α) (ws : List Word) : Option α :=
  match A.dec ws with
  | some (a, []) => if A.enc a = ws then some a else none
  | _ => none

theorem read_enc (A : Ser α) (a : α) : A.read (A.enc a) = some a := by
  have h := A.back a []
  rw [List.append_nil] at h
  simp [read, h]

end Ser

/-- A map of pairs in any order, the last of a key standing. -/
def KMap.ofList {α : Type} [DecidableEq α] (d : α) (l : List (Nat × α)) : KMap α := l.foldl (fun m x => m.set d x.1 x.2) []

/-! ### Channels -/

open Ser in
/-- A token. -/
def serToken : Ser Token :=
  (pair (bits 2) (pair (bits 3) word)).conv
    (fun t => ((match t.kind with | .data => 0 | .mark => 1 | .permit => 2 | .ctrl => 3), t.tag, t.payload))
    (fun x => { kind := if x.1 = 0 then .data else if x.1 = 1 then .mark else if x.1 = 2 then .permit else .ctrl, tag := x.2.1, payload := x.2.2 })
    (by rintro ⟨k, t, p⟩; cases k <;> rfl)

open Ser in
/-- A channel entry. -/
def serEntry : Ser Entry :=
  (sum serToken nat).conv (fun e => match e with | .tok t => .inl t | .resv i => .inr i)
    (fun x => match x with | .inl t => .tok t | .inr i => .resv i) (by intro e; cases e <;> rfl)

open Ser in
/-- An input channel: its entries, CHCONF and DRANK. What its link offers is no part of a record. -/
def serIn : Ser (List Entry × BitVec 19 × BitVec 3) := pair (list serEntry) (pair (bits 19) (bits 3))

/-- The part of an input channel that a record holds. -/
def InChan.part (c : InChan) : List Entry × BitVec 19 × BitVec 3 := (c.q, c.conf, c.drank)
/-- The input channel of the part that a record holds. -/
def inOf (x : List Entry × BitVec 19 × BitVec 3) : InChan := { q := x.1, link := none, linkSrc := none, conf := x.2.1, drank := x.2.2 }

open Ser in
/-- A task packet. -/
def serPkt : Ser TaskPkt :=
  (pair (bits 7) (pair bool (pair word (pair word (pair (bits 16) (bits 4)))))).conv
    (fun k => (k.sel, k.len2, k.w0, k.w1, k.task, k.taint))
    (fun x => { sel := x.1, len2 := x.2.1, w0 := x.2.2.1, w1 := x.2.2.2.1, task := x.2.2.2.2.1, taint := x.2.2.2.2.2 }) (fun _ => rfl)

open Ser in
/-- A packet on its way. -/
def serNet : Ser NetPkt :=
  (pair nat (pair nat (pair nat serPkt))).conv (fun n => (n.src, n.dst, n.job, n.pkt))
    (fun x => { src := x.1, dst := x.2.1, job := x.2.2.1, pkt := x.2.2.2 }) (fun _ => rfl)

open Ser in
/-- An ML entry. -/
def serMl : Ser MlEntry :=
  (pair nat (pair nat (pair nat (pair (option word) (pair (bits 3) bool))))).conv
    (fun e => (e.ctx, e.rid, e.part, e.val, e.tag, e.acq))
    (fun x => { ctx := x.1, rid := x.2.1, part := x.2.2.1, val := x.2.2.2.1, tag := x.2.2.2.2.1, acq := x.2.2.2.2.2 }) (fun _ => rfl)

/-- The operations of requests by number. -/
def reqKinds : List ReqKind :=
  [.ld, .st, .stp, .ldacq, .strel, .fence, .flush, .ldw, .stw, .pref, .atom, .cas,
   .alloc, .free, .seal, .persist, .hbind, .hexp, .hshort, .hdrop, .objq, .planLoad, .planStep, .planDrop, .evict,
   .syncadd, .syncrd, .syncset, .sfree, .sbind, .scancel,
   .mxbind, .mxbindCb, .mxbindFree, .mxpri, .mxstat, .gload, .gbind, .gunload, .opcfg, .oprd,
   .tsubmit, .launch, .cancel, .wcount, .klend, .klendRet, .klendQ, .coll, .rekey,
   .cfgload, .run, .freeze, .freezeRel, .thaw, .barrier, .mark, .save, .restore, .resume]

open Ser in
/-- The operation of a request. -/
def serKind : Ser ReqKind :=
  nat.conv (fun k => reqKinds.findIdx (· == k)) (fun n => reqKinds.getD n .ld) (by intro k; cases k <;> rfl)

open Ser in
/-- A request. -/
def serReq : Ser Req :=
  (pair (pair nat (pair nat (pair nat (pair word (pair serKind (pair word (pair word (pair word word))))))))
    (pair (pair nat (pair (option nat) (pair nat (pair nat (pair nat bool)))))
      (pair nat (pair bool (pair (list word) (option nat)))))).conv
    (fun r => ((r.rid, r.ctx, r.slot, r.word, r.kind, r.a, r.a2, r.b, r.b2), (r.mode, r.job, r.resp, r.code, r.wide, r.flying),
      (r.stage, r.resent, r.data, r.miss)))
    (fun x => match x with
      | ((rid, ctx, slot, word, kind, a, a2, b, b2), (mode, job, resp, code, wide, flying), (stage, resent, data, miss)) =>
        { rid := rid, ctx := ctx, slot := slot, word := word, kind := kind, a := a, a2 := a2, b := b, b2 := b2, mode := mode
          job := job, resp := resp, code := code, wide := wide, flying := flying, stage := stage, resent := resent, data := data
          miss := miss }) (fun _ => rfl)

open Ser in
/-- A fault that a context holds. -/
def serFault : Ser CtxFault :=
  (pair (pair nat nat) (pair nat (pair nat (pair word nat)))).conv
    (fun f => ((match f.kind with | .issue => (0, 0) | .path r => (1, r) | .brk => (2, 0) | .fetch => (3, 0)), f.code, f.slot, f.word, f.job))
    (fun x => { kind := match x.1 with | (0, _) => .issue | (1, r) => .path r | (2, _) => .brk | _ => .fetch
                code := x.2.1, slot := x.2.2.1, word := x.2.2.2.1, job := x.2.2.2.2 })
    (by rintro ⟨k, c, s, w, j⟩; cases k <;> rfl)

/-- What CHANNELS holds of a unit (16 R437): in0-in3, o0-o3, the handler lanes of TL, ML, EL and the task-out queue in the order
of 06 R167, the held requests whose reservations are among them, and the faults and BRK passes of each context. -/
abbrev ChannelPart :=
  Vector (List Entry × BitVec 19 × BitVec 3) 4 × Vector (List Entry) 4 × Vector (List TaskPkt) 8 × List MlEntry × List Word ×
    List NetPkt × List Req × Vector (List CtxFault × List Nat) 4

open Ser in
/-- The words of CHANNELS. -/
def serChannels : Ser ChannelPart :=
  pair (vec ([], 0, 0) 4 serIn) (pair (vec [] 4 (list serEntry)) (pair (vec [] 8 (list serPkt)) (pair (list serMl) (pair (list word)
    (pair (list serNet) (pair (list serReq) (vec ([], []) 4 (pair (list serFault) (list nat)))))))))

/-- What CHANNELS holds of a unit. -/
def Proc.channelPart (P : Proc) : ChannelPart :=
  (P.ins.map InChan.part, P.outs, P.lanes, P.ml, P.el, P.taskOut, P.held, P.ctxs.map fun C => (C.faults, C.stepOver))
/-- A unit with what CHANNELS holds. -/
def unitOfChannels (x : ChannelPart) : Proc :=
  { Proc.reset with
    ins := x.1.map inOf, outs := x.2.1, lanes := x.2.2.1, ml := x.2.2.2.1, el := x.2.2.2.2.1, taskOut := x.2.2.2.2.2.1
    held := x.2.2.2.2.2.2.1
    ctxs := x.2.2.2.2.2.2.2.map fun y => { Ctx.reset with faults := y.1, stepOver := y.2 } }

/-! ### Tables -/

/-- What TABLES holds of a unit (16 R437): CHCONF, the selector table, the hold set, the open-task table, W of each slot, LAST,
PTR and TRACECTL, with the owners and the head of TL that the selection state of 06 R185 has besides. -/
abbrev TablePart :=
  Vector (BitVec 19) 4 × KMap Sel × List Permit × List OpenTask × KMap Nat × BitVec 2 × BitVec 3 × TraceCtl × Vector (BitVec 2) 8 ×
    Option (Fin 8)

open Ser in
/-- A selector-table entry. -/
def serSel : Ser Sel :=
  (pair bool (pair (bits 2) (bits 3))).conv (fun s => (s.v, s.ctx, s.handler)) (fun x => { v := x.1, ctx := x.2.1, handler := x.2.2 })
    (fun _ => rfl)

open Ser in
/-- A held permit. -/
def serPermit : Ser Permit :=
  (pair (bits 12) bool).conv (fun p => (p.key, p.taint)) (fun x => { key := x.1, taint := x.2 }) (fun _ => rfl)

open Ser in
/-- An open-task entry. -/
def serOpen : Ser OpenTask :=
  (pair (bits 16) bool).conv (fun t => (t.task, t.cancelled)) (fun x => { task := x.1, cancelled := x.2 }) (fun _ => rfl)

open Ser in
/-- TRACECTL. -/
def serTrace : Ser TraceCtl :=
  (pair (bits 32) (pair (bits 2) (pair bool bool))).conv (fun t => (t.lost, t.core, t.drop, t.en))
    (fun x => { lost := x.1, core := x.2.1, drop := x.2.2.1, en := x.2.2.2 }) (fun _ => rfl)

open Ser in
/-- The words of TABLES. -/
def serTables : Ser TablePart :=
  pair (vec 0 4 (bits 19)) (pair (kmap serSel) (pair (list serPermit) (pair (list serOpen) (pair (kmap nat) (pair (bits 2)
    (pair (bits 3) (pair serTrace (pair (vec 0 8 (bits 2)) (option fin8)))))))))

/-- What TABLES holds of a unit. -/
def Proc.tablePart (P : Proc) : TablePart :=
  (P.ins.map (·.conf), P.sels, P.hold, P.openTasks, (P.slots.filter fun x => x.2.w != 0).map (fun x => (x.1, x.2.w)), P.last, P.ptr,
    P.trace, P.owners, P.head)
/-- A unit with what TABLES holds. -/
def unitOfTables (x : TablePart) : Proc :=
  { Proc.reset with
    ins := x.1.map fun c => { InChan.reset with conf := c }
    sels := KMap.ofList Sel.reset x.2.1, hold := x.2.2.1, openTasks := x.2.2.2.1
    slots := KMap.ofList Slot.reset (x.2.2.2.2.1.map fun y => (y.1, { Slot.reset with w := y.2 }))
    last := x.2.2.2.2.2.1, ptr := x.2.2.2.2.2.2.1, trace := x.2.2.2.2.2.2.2.1, owners := x.2.2.2.2.2.2.2.2.1
    head := x.2.2.2.2.2.2.2.2.2 }

/-! ### Operators -/

open Ser in
/-- A normaliser. -/
def serNrm : Ser Nrm :=
  (pair word (pair word (pair (bits 8) (pair word (pair (kmap (bits 32)) (pair (option word) (option nat))))))).conv
    (fun x => (x.ctrl, x.scale, x.row, x.status, x.table, x.w0, x.graph))
    (fun x => { ctrl := x.1, scale := x.2.1, row := x.2.2.1, status := x.2.2.2.1, table := x.2.2.2.2.1, w0 := x.2.2.2.2.2.1
                graph := x.2.2.2.2.2.2 }) (fun _ => rfl)

open Ser in
/-- A port. -/
def serPort : Ser InPort :=
  (pair nat (pair nat (pair nat nat))).conv
    (fun p => match p with | .elem e ch => (0, e, ch, 0) | .oper cl k i => (1, cl, k, i) | .tile d g i => (2, d, g, i))
    (fun x => if x.1 = 0 then .elem x.2.1 x.2.2.1 else if x.1 = 1 then .oper x.2.1 x.2.2.1 x.2.2.2 else .tile x.2.1 x.2.2.1 x.2.2.2)
    (by intro p; cases p <;> rfl)

open Ser in
/-- A steered token. -/
def serSteer : Ser SteerTok :=
  (pair serToken (pair serPort (pair nat nat))).conv (fun x => (x.tok, x.port, x.id, x.cbslot))
    (fun x => { tok := x.1, port := x.2.1, id := x.2.2.1, cbslot := x.2.2.2 }) (fun _ => rfl)

open Ser in
/-- A converter. -/
def serCvt : Ser Cvt :=
  (pair word (pair word (pair word (pair (kmap (bits 16)) (pair (list (bits 32)) (pair (list serToken) (pair (list serSteer) bool))))))).conv
    (fun x => (x.ctrl, x.map, x.status, x.codebook, x.gathered, x.pend, x.steerQ, x.streamTurn))
    (fun x => { ctrl := x.1, map := x.2.1, status := x.2.2.1, codebook := x.2.2.2.1, gathered := x.2.2.2.2.1, pend := x.2.2.2.2.2.1
                steerQ := x.2.2.2.2.2.2.1, streamTurn := x.2.2.2.2.2.2.2 }) (fun _ => rfl)

open Ser in
/-- One update of a window. -/
def serUpd : Ser Upd :=
  (pair nat (pair nat (pair word (pair (option (pair nat nat)) bool)))).conv (fun x => (x.loc, x.op, x.val, x.src, x.merge))
    (fun x => { loc := x.1, op := x.2.1, val := x.2.2.1, src := x.2.2.2.1, merge := x.2.2.2.2 }) (fun _ => rfl)

open Ser in
/-- A sparse-update unit. -/
def serSuu : Ser Suu :=
  (pair word (pair word (pair word (pair (list serUpd) nat)))).conv (fun x => (x.ctrl, x.op, x.status, x.win, x.lastAt))
    (fun x => { ctrl := x.1, op := x.2.1, status := x.2.2.1, win := x.2.2.2.1, lastAt := x.2.2.2.2 }) (fun _ => rfl)

open Ser in
/-- A counter. -/
def serCnt : Ser Cnt :=
  (pair word (pair word (pair nat (pair nat (pair (option nat) bool))))).conv
    (fun x => (x.ctrl, x.words, x.count, x.next, x.copy, x.visible))
    (fun x => { ctrl := x.1, words := x.2.1, count := x.2.2.1, next := x.2.2.2.1, copy := x.2.2.2.2.1, visible := x.2.2.2.2.2 })
    (fun _ => rfl)

open Ser in
/-- The reducer. -/
def serRed : Ser Red := (pair word word).conv (fun x => (x.ctrl, x.status)) (fun x => { ctrl := x.1, status := x.2 }) (fun _ => rfl)

/-- What OPERATOR holds of a cluster after the parameter registers: the operator's channels and internal state (16 R437). -/
abbrev OperPart :=
  KMap (List Entry × BitVec 19 × BitVec 3) × KMap (List Entry) × KMap Nrm × KMap Cvt × KMap Suu × KMap Cnt × Red

open Ser in
/-- The words of OPERATOR's internal state. -/
def serOper : Ser OperPart :=
  pair (kmap serIn) (pair (kmap (list serEntry)) (pair (kmap serNrm) (pair (kmap serCvt) (pair (kmap serSuu) (pair (kmap serCnt) serRed)))))

/-- What OPERATOR holds of a cluster that holds the operator alone. -/
def Cluster.operPart (C : Cluster) : OperPart :=
  (C.opIn.map (fun x => (x.1, x.2.part)), C.opOut, C.nrm, C.cvt, C.suu, C.cnt, C.red)
/-- The cluster with what OPERATOR holds. -/
def clusterOfOper (x : OperPart) : Cluster :=
  { Cluster.reset with
    opIn := KMap.ofList InChan.reset (x.1.map fun y => (y.1, inOf y.2))
    opOut := KMap.ofList [] x.2.1
    nrm := KMap.ofList Nrm.reset (x.2.2.1.map fun y => (y.1, { y.2 with table := KMap.ofList 0 y.2.table }))
    cvt := KMap.ofList Cvt.reset (x.2.2.2.1.map fun y => (y.1, { y.2 with codebook := KMap.ofList 0 y.2.codebook }))
    suu := KMap.ofList Suu.reset x.2.2.2.2.1, cnt := KMap.ofList Cnt.reset x.2.2.2.2.2.1, red := x.2.2.2.2.2.2 }

/-! ### Engines -/

open Ser in
/-- A template. -/
def serTmpl : Ser MxTmpl :=
  (pair (pair word (pair word (pair word (pair nat (pair (option nat) (pair (bits 2) nat))))))
    (pair bool (pair nat (pair (list word) (pair bool (pair bool (pair bool nat))))))).conv
    (fun t => ((t.w0, t.w1, t.user, t.proc, t.region, t.pri, t.n), (t.chaining, t.inChain, t.partials, t.queued, t.fromFrames, t.closing, t.wrote)))
    (fun x => match x with
      | ((w0, w1, user, proc, region, pri, n), (chaining, inChain, partials, queued, fromFrames, closing, wrote)) =>
        { w0 := w0, w1 := w1, user := user, proc := proc, region := region, pri := pri, n := n, chaining := chaining
          inChain := inChain, partials := partials, queued := queued, fromFrames := fromFrames, closing := closing, wrote := wrote })
    (fun _ => rfl)

open Ser in
/-- A queue entry. -/
def serMxEntry : Ser MxEntry :=
  (pair nat (pair (bits 2) int)).conv (fun e => (e.t, e.pri, e.born)) (fun x => { t := x.1, pri := x.2.1, born := x.2.2 }) (fun _ => rfl)

open Ser in
/-- What an array has taken and not yet used. -/
def serItem : Ser EspItem :=
  (sum (pair int (option (list int))) nat).conv (fun x => match x with | .block e m => .inl (e, m) | .marker r => .inr r)
    (fun x => match x with | .inl y => .block y.1 y.2 | .inr r => .marker r) (by intro x; cases x <;> rfl)

open Ser in
/-- A state of an array. -/
def serEspState : Ser EspState :=
  nat.conv (fun x => match x with | .free => 0 | .loaded => 1 | .bound => 2)
    (fun n => if n = 0 then .free else if n = 1 then .loaded else .bound) (by intro x; cases x <;> rfl)

open Ser in
/-- An array. -/
def serEsp : Ser Esp :=
  (pair (pair serEspState (pair nat (pair nat (pair (pair (list word) (pair (list word) nat)) (pair nat (pair nat (pair (list (bits 16))
      (list serItem))))))))
    (pair (pair nat (pair (list (bits 32)) (pair (list (pair (list serToken) bool)) (pair word (pair word (bits 32))))))
      (pair (option nat) (pair nat (pair (option nat) (pair nat (pair bool bool))))))).conv
    (fun x => ((x.st, x.head, x.narr, (x.sect.nodes, x.sect.taps, x.sect.lanes), x.wmax, x.depth, x.block, x.items),
      (x.rows, x.scales, x.outq, x.bind, x.status, x.vcount), (x.nrm, x.proc, x.region, x.serial, x.stopped, x.closing)))
    (fun x => match x with
      | ((st, head, narr, (nodes, taps, lanes), wmax, depth, block, items), (rows, scales, outq, bind, status, vcount),
          (nrm, proc, region, serial, stopped, closing)) =>
        { st := st, head := head, narr := narr, sect := { nodes := nodes, taps := taps, lanes := lanes }, wmax := wmax, depth := depth
          block := block, items := items, rows := rows, scales := scales, outq := outq, bind := bind, status := status
          vcount := vcount, nrm := nrm, proc := proc, region := region, serial := serial, stopped := stopped, closing := closing })
    (fun _ => rfl)

/-- What ENGINE holds of a cluster (16 R437): of a matrix engine the region's templates, the codebook slots and the unlatched
entries (11 R336), of an Espalier array its section and its state (12 R362). -/
abbrev EnginePart := KMap (KMap (Option MxTmpl) × KMap (BitVec 16) × List MxEntry) × KMap Esp

open Ser in
/-- The words of ENGINE. -/
def serEngine : Ser EnginePart :=
  pair (kmap (pair (kmap (option serTmpl)) (pair (kmap (bits 16)) (list serMxEntry)))) (kmap serEsp)

/-- What ENGINE holds of a cluster that holds the engine's part alone. -/
def Cluster.enginePart (C : Cluster) : EnginePart := (C.mx.map (fun x => (x.1, x.2.tmpl, x.2.codebook, x.2.queue)), C.esp)
/-- The cluster with what ENGINE holds. -/
def clusterOfEngine (x : EnginePart) : Cluster :=
  { Cluster.reset with
    mx := KMap.ofList Mx.reset (x.1.map fun y =>
      (y.1, { Mx.reset with tmpl := KMap.ofList none y.2.1, codebook := KMap.ofList 0 y.2.2.1, queue := y.2.2.2 }))
    esp := KMap.ofList Esp.reset x.2 }

/-! ### Copies -/

open Ser in
/-- A position begun. -/
def serPos : Ser CopyPos :=
  (pair nat (pair (list nat) (pair (list nat) (pair bool bool)))).conv (fun x => (x.p, x.done, x.vis, x.fired, x.firedV))
    (fun x => { p := x.1, done := x.2.1, vis := x.2.2.1, fired := x.2.2.2.1, firedV := x.2.2.2.2 }) (fun _ => rfl)

open Ser in
/-- Where a request of a copy stands. -/
def serPhase : Ser ReqPhase :=
  (pair nat nat).conv (fun x => match x with | .going => (0, 0) | .sent g => (1, g) | .missing g => (2, g) | .held c => (3, c))
    (fun x => if x.1 = 0 then .going else if x.1 = 1 then .sent x.2 else if x.1 = 2 then .missing x.2 else .held x.2)
    (by intro x; cases x <;> rfl)

open Ser in
/-- A request of a copy. -/
def serCopyReq : Ser CopyReq :=
  (pair nat (pair nat (pair (list (bits 8)) (pair (list (bits 8)) (pair nat (pair (option nat) serPhase)))))).conv
    (fun q => (q.n, q.len, q.got, q.out, q.put, q.line, q.phase))
    (fun x => { n := x.1, len := x.2.1, got := x.2.2.1, out := x.2.2.2.1, put := x.2.2.2.2.1, line := x.2.2.2.2.2.1
                phase := x.2.2.2.2.2.2 }) (fun _ => rfl)

open Ser in
/-- A copy and its identifier (16 R437): descriptor, job, binder, far side, notices, positions, requests held, and how far its
streams have come. -/
def serCopy : Ser (Nat × Copy) :=
  (pair (pair nat (pair (option nat) (pair nat (pair bool (pair nat (pair (bits 256) (pair nat (pair nat (pair (list serPos) nat)))))))))
    (pair (pair nat (pair (list nat) (pair nat (list serCopyReq))))
      (pair (pair nat (pair nat nat)) (pair (option (pair nat nat)) (pair bool (pair nat (list word))))))).conv
    (fun x => let c := x.2
      ((x.1, c.job, c.proc, c.farScratch, c.far, c.notices, c.next, c.total, c.active, c.fired), (c.firedV, c.idx, c.issued, c.reqs),
        (c.sent, c.placed, c.whole), c.stopping, c.broken, c.status, c.desc))
    (fun x => match x with
      | ((id, job, proc, farScratch, far, notices, next, total, active, fired), (firedV, idx, issued, reqs),
          (sent, placed, whole), stopping, broken, status, desc) =>
        (id, { desc := desc, job := job, proc := proc, farScratch := farScratch, far := far, notices := notices, next := next
               total := total, active := active, fired := fired, firedV := firedV, idx := idx, issued := issued, reqs := reqs
               sent := sent, placed := placed, whole := whole, stopping := stopping, broken := broken, status := status }))
    (fun _ => rfl)

end Sys2Proof.Machine
end

