-- ==== Sys2Proof/Machine/Save.lean ====
section
/-! DEFINITION. Save images (16 R434, R436-R439): the codec, the records of a region's units, and the items taken along. -/

namespace Sys2Proof.Machine

/-! ### The codec (16 R438) -/

/-- The codes of a stream whose previous word is `prev`, each with its word. -/
def streamCodes : Word → List Word → List (Nat × Word)
  | _, [] => []
  | prev, w :: ws => (if w = 0 then 1 else if w = prev then 2 else 0, w) :: streamCodes w ws

/-- A header word of up to 32 codes; those past the end are 3. -/
def codeWord (xs : List (Nat × Word)) : Word :=
  ofLanes 2 ((List.range 32).map fun i => BitVec.ofNat 2 (match xs[i]? with | some x => x.1 | none => 3))

/-- The blocks of a stream, `fuel` at most. -/
def codeBlocks : Nat → List (Nat × Word) → List Word
  | 0, _ => []
  | n + 1, xs =>
    let b := xs.take 64
    [codeWord (b.take 32), codeWord (b.drop 32)] ++ ((b.filter fun x => x.1 == 0).map (·.2)) ++
      (if (xs.drop 64).isEmpty then [] else codeBlocks n (xs.drop 64))

/-- A body as the codec writes it (16 R438). -/
def encodeBody (ws : List Word) : List Word := codeBlocks (ws.length / 64 + 1) (streamCodes 0 ws)

/-- Words decoded from one block's codes: the words, the last one, the literals left over, and whether the stream has ended; none
where a literal is wanting or a code other than 3 follows the end (16 R438). -/
def decodeCodes : List Nat → Word → List Word → Option (List Word × Word × List Word × Bool)
  | [], prev, lits => some ([], prev, lits, false)
  | 3 :: cs, prev, lits => if cs.all (· == 3) then some ([], prev, lits, true) else none
  | 1 :: cs, _, lits => (decodeCodes cs 0 lits).map fun x => (0 :: x.1, x.2)
  | 2 :: cs, prev, lits => (decodeCodes cs prev lits).map fun x => (prev :: x.1, x.2)
  | _ :: cs, _, lits => match lits with
    | [] => none
    | w :: ws => (decodeCodes cs w ws).map fun x => (w :: x.1, x.2)

/-- The codes of a block's two header words. -/
def blockCodes (h0 h1 : Word) : List Nat := (List.range 64).map fun i => fldN (if i < 32 then h0 else h1) (2 * (i % 32)) 2

/-- The blocks of a coded body decoded, `fuel` at most; none where it is no stream of the codec (16 R438). -/
def decodeBlocks : Nat → Word → List Word → Option (List Word)
  | 0, _, _ => none
  | n + 1, prev, h0 :: h1 :: ws =>
    match decodeCodes (blockCodes h0 h1) prev ws with
    | none => none
    | some (out, last, rest, ended) =>
      if rest.isEmpty then some out
      else if ended then none
      else (decodeBlocks n last rest).map (out ++ ·)
  | _, _, _ => none

/-- A body as it was before the codec coded it. -/
def decodeBody (ws : List Word) : Option (List Word) := decodeBlocks (ws.length + 1) 0 ws

/-! ### Bodies (16 R437) -/

/-- RSTATE codes (04 R96). -/
def RState.code : RState → Nat
  | .run => 0
  | .sleep => 1
  | .halt => 2
  | .fault => 3
  | .saved => 4
/-- The state of an RSTATE code. -/
def rstateOf : Nat → Option RState
  | 0 => some .run
  | 1 => some .sleep
  | 2 => some .halt
  | 3 => some .fault
  | 4 => some .saved
  | _ => none

/-- Eight codebook registers as four words. -/
def cbWords (v : Vector (BitVec 16) 16) : List Word :=
  (List.range 4).map fun i => ofLanes 16 ((List.range 4).map fun j => vget v (4 * i + j))
/-- The codebook registers of four words. -/
def cbOf (ws : List Word) : Vector (BitVec 16) 16 := Vector.ofFn fun i => lane 16 (ws.getD (i.val / 4) 0) (i.val % 4)

/-- The body of a CONTEXT record. -/
def Ctx.words (C : Ctx) : List Word :=
  [put C.p.toNat 0 ||| put C.patience.toNat 8 ||| put C.fpmode.toNat 16 ||| put C.fpflags.toNat 19 ||| put C.rstate.code 24] ++
    C.x.toList ++ [C.deadline] ++ cbWords C.cb0 ++ cbWords C.cb1
/-- The context of a CONTEXT record's body. -/
def ctxOf (ws : List Word) : Option Ctx :=
  let w := ws.getD 0 0
  match rstateOf (fldN w 24 3) with
  | none => none
  | some r =>
    if ws.length ≠ 26 ∨ fldN w 27 37 ≠ 0 then none
    else some { Ctx.reset with
      p := fld w 0 8, patience := fld w 8 8, fpmode := fld w 16 3, fpflags := fld w 19 5, rstate := r
      x := Vector.ofFn fun i => ws.getD (1 + i.val) 0, deadline := ws.getD 17 0
      cb0 := cbOf ((ws.drop 18).take 4), cb1 := cbOf (ws.drop 22) }

/-- The body of a SLOTS record: the 32 slot words, 0 for an empty slot, and the BRK bits (log entry 8). -/
def slotWordsOf (m : KMap Slot) : List Word :=
  ((List.range 32).map fun i => (m.get Slot.reset i).word.getD 0) ++
    [put ((List.range 32).foldl (fun n i => if (m.get Slot.reset i).brk then n + 2 ^ i else n) 0) 0]
/-- The slots of a SLOTS record's body. -/
def slotsOf (ws : List Word) : Option (KMap Slot) :=
  let brk := ws.getD 32 0
  if ws.length ≠ 33 ∨ fldN brk 32 32 ≠ 0 then none
  else some ((List.range 32).foldl (fun m i =>
    let w := ws.getD i 0
    m.set Slot.reset i { word := if w = 0 then none else some w, w := 0, brk := bitOf brk i, bad := false }) [])

/-- The place word of a caught item: cluster, element or router, channel, order (16 R437). -/
def caughtPlace (cl r ch n : Nat) : Word := put (cl % 256) 56 ||| put (r % 16) 52 ||| put (ch % 16) 48 ||| put (n % 2 ^ 16) 32

/-- The words of a caught item, the `n`-th (16 R437). -/
def Caught.words (n : Nat) : Caught → List Word
  | .token (.elem e ch) t => [t.payload, caughtPlace (e / 16) e ch n ||| put t.kind.code 3 ||| put t.tag.toNat 0]
  | .token (.oper cl k i) t =>
    [t.payload, caughtPlace cl k (4 + 4 * (k / 16) + i) n ||| put t.kind.code 3 ||| put t.tag.toNat 0]
  | .token (.tile _ _ _) _ => []
  | .packet e k =>
    [k.w0, caughtPlace (e / 16) e 12 n, if k.len2 then k.w1 else 0,
     put k.task.toNat 48 ||| put k.taint.toNat 44 ||| put k.sel.toNat 16 ||| put (if k.len2 then 1 else 0) 0]
  | .event e w => [w, caughtPlace (e / 16) e 13 n]

/-- The kind of a token's code. -/
def kindOf : Nat → Kind
  | 0 => .data
  | 1 => .mark
  | 2 => .permit
  | _ => .ctrl

/-- The items of a CAUGHT record's body with their capture order, `fuel` at most; none where a channel or a field that must be 0
is not as it should be. -/
def itemsOf : Nat → List Word → Option (List (Nat × Caught))
  | _, [] => some []
  | 0, _ => none
  | n + 1, w :: h :: ws =>
    let cl := fldN h 56 8
    let r := fldN h 52 4
    let ch := fldN h 48 4
    let ord := fldN h 32 16
    let tok : Token := { kind := kindOf (fldN h 3 2), tag := fld h 0 3, payload := w }
    let next (x : Caught) (rest : List Word) : Option (List (Nat × Caught)) := (itemsOf n rest).map ((ord, x) :: ·)
    if fldN h 5 27 ≠ 0 then none
    else if ch < 4 then next (.token (.elem (16 * cl + r) ch) tok) ws
    else if ch < 12 then (if 16 * ((ch - 4) / 4) + r ≤ 26 then next (.token (.oper cl (16 * ((ch - 4) / 4) + r) ((ch - 4) % 4)) tok) ws else none)
    else if fldN h 0 5 ≠ 0 then none
    else if ch = 13 then next (.event (16 * cl + r) w) ws
    else if ch = 12 then match ws with
      | w1 :: i :: rest =>
        if fldN i 23 21 ≠ 0 ∨ fldN i 1 15 ≠ 0 then none
        else next (.packet (16 * cl + r)
          { w0 := w, w1 := w1, task := fld i 48 16, taint := fld i 44 4, sel := fld i 16 7, len2 := bitOf i 0 }) rest
      | _ => none
    else none
  | _ + 1, [_] => none

/-- Puts an item of a record in its place by capture order. -/
def insertItem (x : Nat × Caught) : List (Nat × Caught) → List (Nat × Caught)
  | [] => [x]
  | y :: ys => if x.1 < y.1 then x :: y :: ys else y :: insertItem x ys

/-- The words of bytes. -/
def wordsOf (bs : List Byte) : List Word := (List.range (bs.length / 8)).map fun i => wordOf ((bs.drop (8 * i)).take 8)

/-- The body of a CLUSTER record: the tile tags, 32 to a word, the valid entries of the tag table, each its frame and then its
word, and the sync words (log entry 8). -/
def clusterWords (U : Cluster) (sync : List Word) : List Word :=
  ((List.range 32).map fun i => ofLanes 2 ((List.range 32).map fun j => U.tiles.get 0 (32 * i + j))) ++
    (U.tags.flatMap fun x => match x.2 with | some key => [put x.1 0, put 1 63 ||| put key.toNat 0] | none => []) ++ sync

/-- The tag-table entries of pairs of words. -/
def tagsOf : List Word → Option (KMap (Option (BitVec 52)))
  | [] => some []
  | f :: w :: ws =>
    if f.toNat < 1023 ∧ bitOf w 63 = true ∧ fldN w 52 11 = 0 then (tagsOf ws).map fun m => m.set none f.toNat (some (fld w 0 52)) else none
  | _ => none

/-- Tile tags, tag-table entries and sync words of a CLUSTER record's body. -/
def clusterOf (ws : List Word) : Option (Cluster × List Word) :=
  let tags := (ws.drop 32).take (ws.length - 544)
  if ws.length < 544 ∨ fldN (ws.getD 31 0) 62 2 ≠ 0 then none
  else match tagsOf tags with
    | none => none
    | some m => some ({ Cluster.reset with
        tags := m, tiles := (List.range 1023).foldl (fun t f => t.set 0 f (lane 2 (ws.getD (f / 32) 0) (f % 32))) [] },
        ws.drop (ws.length - 512))

/-- The registers of a router that its record holds, in order: those of R307, then the watchpoints (log entry 8). -/
def routerRegs : List Nat :=
  List.range 1025 ++ (List.range 12).map (1032 + ·) ++ (List.range 6).map (1048 + ·)
/-- The body of a ROUTER record: its registers, then the position changes that wait. -/
def routerWords (R : Router) : List Word := routerRegs.map (fun i => (rtrReg R i).getD 0) ++ R.pending
/-- The router of a ROUTER record's body. -/
def routerOf (ws : List Word) : Option Router :=
  let regs := routerRegs.zip ws
  let p := ws.getD 1024 0
  let pend := ws.drop routerRegs.length
  if ws.length < routerRegs.length ∨ fldN p 16 48 ≠ 0 ∨ fldN p 2 6 ≠ 0 ∨ (pend.any fun w => fldN w 11 53 != 0) = true then none
  else some { Router.reset with
    table := (regs.filter fun x => decide (x.1 < 1024)).foldl (fun m x => m.set 0 x.1 (x.2.setWidth 16)) []
    pos := fld p 0 2, lastgen := fld p 8 8
    outtag := (regs.filter fun x => decide (1032 ≤ x.1 ∧ x.1 < 1044)).foldl (fun m x => m.set 0 (x.1 - 1032) (x.2.setWidth 32)) []
    wp := (regs.filter fun x => decide (1048 ≤ x.1)).foldl (fun m x => m.set 0 (x.1 - 1048) x.2) []
    pending := pend }

/-- The words of a record's body before they are coded (16 R437): in the order that the manual numbers things by, or laid out by
the implementation (log entry 8). -/
def SaveBody.words : SaveBody → List Word
  | .context _ _ _ C => C.words
  | .slots _ _ m => slotWordsOf m
  | .channels _ _ P => Config.layoutOf.enc 0x23 (serChannels.enc P.channelPart)
  | .tables _ _ P => Config.layoutOf.enc 0x24 (serTables.enc P.tablePart)
  | .caught _ _ items => items.flatMap fun x => x.2.words x.1
  | .operator _ _ regs C => regs ++ Config.layoutOf.enc 0x26 (serOper.enc C.operPart)
  | .frame _ _ bs => wordsOf bs
  | .cluster _ U sync => clusterWords U sync
  | .router _ _ R => routerWords R
  | .engine _ _ C => Config.layoutOf.enc 0x2A (serEngine.enc C.enginePart)
  | .copy id c => Config.layoutOf.enc 0x2B (serCopy.enc (id, c))

/-- TYPE, CLUSTER, UNIT and SUB of a record (16 R437). -/
def SaveBody.head : SaveBody → Nat × Nat × Nat × Nat
  | .context c e k _ => (0x21, c, e, k)
  | .slots c e _ => (0x22, c, e, 0)
  | .channels c e _ => (0x23, c, e, 0)
  | .tables c e _ => (0x24, c, e, 0)
  | .caught c u _ => (0x25, c, u, 0)
  | .operator c k _ _ => (0x26, c, 16 + k, 0)
  | .frame c f _ => (0x27, c, f % 256, f / 256)
  | .cluster c _ _ => (0x28, c, 0, 0)
  | .router c r _ => (0x29, c, r, 0)
  | .engine c k _ => (0x2A, c, 16 + k, 0)
  | .copy _ _ => (0x2B, 0, 0, 0)

/-- A record as it is written: its header, and its body as the codec codes it (16 R437, R438). -/
def SaveBody.record (b : SaveBody) : List Word :=
  let h := b.head
  let body := encodeBody b.words
  (put h.1 56 ||| put h.2.1 48 ||| put h.2.2.1 40 ||| put h.2.2.2 32 ||| put (body.length % 2 ^ 32) 0) :: body

/-- The records one after another, each with its word offset from `n` on. -/
def recordPieces : List SaveBody → Nat → List (Nat × List Word)
  | [], _ => []
  | b :: bs, n => (n, b.record) :: recordPieces bs (n + b.record.length)

/-- The header of an image (16 R437). -/
def imageHeader (img : SaveImage) (complete : Bool) : List Word :=
  [put 1 48 ||| put (min img.cut 2) 46 ||| put (if complete then 1 else 0) 45 ||| put img.die 42 ||| put img.region 36 |||
     put img.cbase 31 ||| put img.job 23,
   BitVec.ofNat 64 img.launch, BitVec.ofNat 64 (img.launch / 2 ^ 64), img.time]

/-! ### Reading an image (16 R437, R442) -/

/-- A word is a record's header: its TYPE is one of the table. -/
def isRecHead (h : Word) : Bool := decide (0x21 ≤ fldN h 56 8) && decide (fldN h 56 8 ≤ 0x2B)

/-- Words of an image that must be in hand before it can be read, from record offset `o` on, where `ws` are in hand and its object
ends at word `lim`: the chain of its records ends at a word that is no header, or at the end (log entry 8). -/
def saveNeedFrom (lim : Nat) : Nat → Nat → List Word → Nat
  | 0, o, _ => o
  | n + 1, o, ws =>
    if lim ≤ o then o
    else match ws with
      | [] => o + 1
      | h :: ws =>
        let next := o + 1 + fldN h 0 32
        if isRecHead h = false ∨ lim < next then o
        else if ws.length < fldN h 0 32 then next
        else saveNeedFrom lim n next (ws.drop (fldN h 0 32))
/-- Words of an image that must be in hand, where `ws` are. -/
def saveNeed (lim : Nat) (ws : List Word) : Nat := if ws.length < 4 then 4 else saveNeedFrom lim (ws.length + 1) 4 (ws.drop 4)

/-- What words that the implementation lays out hold; none where they are malformed (16 R437, R442; log entry 8). -/
def readLaid {α : Type} (A : Ser α) (typ : Nat) (ws : List Word) : Option α := (Config.layoutOf.dec typ ws).bind A.read

/-- What CHANNELS holds fits the depths of 06 R167; else it is malformed. -/
def channelsFit (x : ChannelPart) : Bool :=
  x.1.toList.all (fun c => decide (c.1.length ≤ 4)) && x.2.1.toList.all (fun q => decide (q.length ≤ outDepth)) &&
    x.2.2.1.toList.all (fun q => decide (q.length ≤ 4)) && decide (x.2.2.2.1.length ≤ 8) && decide (x.2.2.2.2.1.length ≤ 4) &&
    decide (x.2.2.2.2.2.1.length ≤ 2)

/-- What ENGINE holds of operator `k` of a cluster is of that engine or array alone. -/
def engineFits (k : Nat) (x : EnginePart) : Bool := x.1.all (fun u => u.1 == k) && x.2.all fun u => 4 + u.1 == k

/-- The record with a header and a body's words, none where it is malformed (16 R437). -/
def State.bodyOf (s : State) (h : Word) (ws : List Word) : Option SaveBody :=
  let c := fldN h 48 8
  let u := fldN h 40 8
  let k := fldN h 32 8
  if c > 31 ∧ fldN h 56 8 ≠ 0x25 ∧ fldN h 56 8 ≠ 0x2A then none
  else match fldN h 56 8 with
    | 0x21 => if u < 16 ∧ k < 4 then (ctxOf ws).map (.context c u k) else none
    | 0x22 => if u < 16 ∧ k = 0 then (slotsOf ws).map (.slots c u) else none
    | 0x25 => if u < 43 ∧ k = 0 then (itemsOf (ws.length + 1) ws).map fun l => .caught c u (l.foldr insertItem []) else none
    | 0x27 => if k < 4 ∧ 256 * k + u < 1023 ∧ ws.length = 512 then some (.frame c (256 * k + u) (ws.flatMap (bytesOf 8))) else none
    | 0x28 => if u = 0 ∧ k = 0 then (clusterOf ws).map fun x => .cluster c x.1 x.2 else none
    | 0x29 => if u < 16 ∧ k = 0 then (routerOf ws).map (.router c u) else none
    | 0x23 =>
      if u < 16 ∧ k = 0 then (readLaid serChannels 0x23 ws).bind fun x => if channelsFit x then some (.channels c u (unitOfChannels x)) else none
      else none
    | 0x24 => if u < 16 ∧ k = 0 then (readLaid serTables 0x24 ws).map fun x => .tables c u (unitOfTables x) else none
    | 0x26 =>
      let n := ((List.range 4096).filter fun i => (s.operReg 0 (u - 16) i).isSome).length
      if 16 ≤ u ∧ u < 43 ∧ k = 0 ∧ n ≤ ws.length then
        (readLaid serOper 0x26 (ws.drop n)).map fun x => .operator c (u - 16) (ws.take n) (clusterOfOper x)
      else none
    | 0x2A =>
      if 16 ≤ u ∧ u < 24 ∧ k = 0 then
        (readLaid serEngine 0x2A ws).bind fun x => if engineFits (u - 16) x then some (.engine c (u - 16) (clusterOfEngine x)) else none
      else none
    | 0x2B =>
      if c = 0 ∧ u = 0 ∧ k = 0 then
        (readLaid serCopy 0x2B ws).bind fun x => if x.1 < 1024 ∧ x.2.desc.length = 8 then some (.copy x.1 x.2) else none
      else none
    | _ => none

/-- The records of an image's words, `fuel` at most; none where one is malformed (16 R437, R438). -/
def State.recordsOf (s : State) : Nat → List Word → Option (List SaveBody)
  | _, [] => some []
  | 0, _ => none
  | n + 1, h :: ws =>
    let len := fldN h 0 32
    if ws.length < len then none
    else match decodeBody (ws.take len) with
      | none => none
      | some body => match s.bodyOf h body, s.recordsOf n (ws.drop len) with
        | some b, some bs => some (b :: bs)
        | _, _ => none

/-- The image of words; none where it is malformed or lacks COMPLETE (16 R437, R442). -/
def State.parseSave (s : State) (ws : List Word) : Option SaveImage :=
  let h := ws.getD 0 0
  if ws.length < 4 ∨ fldN h 48 16 ≠ 1 ∨ fldN h 46 2 = 3 ∨ bitOf h 45 = false ∨ fldN h 0 23 ≠ 0 then none
  else (s.recordsOf (ws.length + 1) (ws.drop 4)).map fun recs =>
    { cut := fldN h 46 2, die := fldN h 42 3, region := fldN h 36 6, cbase := fldN h 31 5, job := fldN h 23 8,
      launch := (ws.getD 1 0).toNat + 2 ^ 64 * (ws.getD 2 0).toNat, time := ws.getD 3 0, recs := recs }

/-! ### The units of a region -/

/-- The units of a region as a cut numbers them. -/
def Region.units (R : Region) : List Nat := R.elems ++ R.ops.map fun x => opUnit x.1 x.2

/-- The input channels of a region's units. -/
def Region.ports (R : Region) : List InPort :=
  (R.elems.flatMap fun e => (List.range 4).map fun ch => InPort.elem e ch) ++
    R.ops.flatMap fun x => (List.range 4).map fun i => InPort.oper x.1 x.2 i

/-- A region holds an element of a cluster. -/
def Region.holdsIn (R : Region) (cl : Nat) : Bool := R.elems.any fun e => e / 16 == cl

/-- A cluster of a package by its region-relative number, whose field of 8 bits wraps where the cluster lies before the region's
first (16 R437). -/
def relCluster (base cl : Nat) : Nat := (cl + 256 - base) % 256

/-- A port in another numbering of clusters. -/
def movePort (f : Nat → Nat) : InPort → InPort
  | .elem e ch => .elem (16 * f (e / 16) + e % 16) ch
  | .oper cl k i => .oper (f cl) k i
  | .tile d g i => .tile d g i

/-- A caught item in another numbering of clusters. -/
def Caught.move (f : Nat → Nat) : Caught → Caught
  | .token port t => .token (movePort f port) t
  | .packet e k => .packet (16 * f (e / 16) + e % 16) k
  | .event e w => .event (16 * f (e / 16) + e % 16) w

/-- The part of cluster `src` that is operator `k`, put into `dst`: its channels, registers and internal state
(10 R286-R298). The atomics that a window merges belong to the units that sent them, and stay where they are. -/
def copyOp (k : Nat) (src dst : Cluster) : Cluster :=
  let u := (opKind k).2
  let C : Cluster := { dst with
    opIn := (List.range 4).foldl (fun m i =>
      m.set InChan.reset (4 * k + i) { src.opIn.get InChan.reset (4 * k + i) with link := none, linkSrc := none }) dst.opIn
    opOut := (List.range 4).foldl (fun m i => m.set [] (4 * k + i) (src.opOut.get [] (4 * k + i))) dst.opOut }
  match (opKind k).1 with
  | 3 => { C with nrm := C.nrm.set Nrm.reset u (src.nrm.get Nrm.reset u) }
  | 4 => { C with cvt := C.cvt.set Cvt.reset u (src.cvt.get Cvt.reset u) }
  | 5 =>
    let x := src.suu.get Suu.reset u
    let others := (dst.suu.get Suu.reset u).win.filter fun y => y.src.isSome
    { C with suu := C.suu.set Suu.reset u { x with win := others ++ x.win.filter fun y => y.src.isNone } }
  | 8 => { C with red := src.red }
  | 9 => { C with cnt := C.cnt.set Cnt.reset u (src.cnt.get Cnt.reset u) }
  | _ => C

/-- A region bound this template. -/
def MxTmpl.ofRegion (T : MxTmpl) (d g : Nat) : Bool := T.region == some g && dieOf T.proc == d

/-- The templates of a region on an engine. -/
def Mx.slotsOf (x : Mx) (d g : Nat) : List (Nat × MxTmpl) :=
  x.tmpl.filterMap fun t => match t.2 with | some T => if T.ofRegion d g then some (t.1, T) else none | none => none

/-- The part of an engine that a region bound, as ENGINE records it: templates, unlatched entries with their age, and the
codebook slots (11 R336). -/
def Mx.part (x : Mx) (d g now : Nat) : Mx :=
  let ts := x.slotsOf d g
  let mine (t : Nat) : Bool := ts.any fun y => y.1 == t
  { Mx.reset with
    tmpl := ts.map fun y => (y.1, some { y.2 with fromFrames := y.2.fromFrames || y.2.inChain != 0, partials := [], wrote := 0 })
    codebook := x.codebook
    queue := (x.queue.filter fun e => mine e.t).map fun e => { e with born := now - e.born } }

/-- An array belongs to a graph that a region holds. -/
def State.espOf (s : State) (cl d g : Nat) (x : Esp) : Bool := s.espRegion cl x == some (d, g)

/-- The engines and graphs that a region bound in a cluster: ENGINE's operator number and the part recorded (11 R336,
12 R362). -/
def State.enginesOf (s : State) (d g cl : Nat) : List (Nat × Cluster) :=
  let C := s.cluster cl
  (C.mx.filterMap fun u => if (u.2.slotsOf d g).isEmpty then none else
    some (u.1, { Cluster.reset with mx := [(u.1, u.2.part d g (s.islandCycle cl))] })) ++
  C.esp.filterMap fun u => if s.espOf cl d g u.2 then some (4 + u.1, { Cluster.reset with esp := [(u.1, u.2)] }) else none

/-- The copies bound by a region's contexts that are live, or have a request left (16 R432). -/
def State.copiesOf (s : State) (d g : Nat) : List (Nat × Copy) :=
  s.dies.flatMap fun x => x.2.copies.filterMap fun c => match c.2 with
    | some y => if (y.live || !y.reqs.isEmpty) && s.regionIn [(d, g)] y.proc then some (128 * x.1 + c.1, y) else none
    | none => none

/-- The reads of a unit that wait at sync words (09 R261). -/
def State.waitingReads (s : State) (p : Nat) : List Req :=
  s.clusters.flatMap fun e => (e.2.waiters ++ e.2.waitq).filterMap fun x => if x.proc = p then some x.req else none

/-! ### Records -/

/-- The records of an element (16 R437): contexts and slots only when dirty. Waiting reads are unfilled reservations too
(16 R432). -/
def State.elemRecords (s : State) (base e : Nat) : List SaveBody :=
  let P := s.proc e
  let c := e / 16 - base
  let n := e % 16
  let Q : Proc := { P with held := P.held ++ s.waitingReads e }
  ((List.range 4).filterMap fun k => if P.dirtyCtx.getLsbD k then some (.context c n k (P.ctx k)) else none) ++
    (if P.dirtySlots then [.slots c n P.slots] else []) ++ [.channels c n Q, .tables c n P]

/-- The record of an operator: its parameter registers in OPRD's order, and its part of the cluster. -/
def State.opRecord (s : State) (base : Nat) (x : Nat × Nat) : SaveBody :=
  .operator (x.1 - base) x.2 ((List.range 4096).filterMap (s.operReg x.1 x.2)) (copyOp x.2 (s.cluster x.1) Cluster.reset)

/-- The uncorrectable errors that the save codec meets in what it reads of the region's clusters: the region is frozen, and each is
posted, naming the cluster and the offset (09 R250; 10 R278). -/
def State.codecEcc (s : State) (d g : Nat) (R : Region) : State :=
  (R.clusters.flatMap fun cl => ((s.cluster cl).badWords.filter fun o =>
      decide (syncBase ≤ o) || (R.holdsIn cl && (s.cluster cl).dirty.getLsbD (o / 4096))).map fun o => cl * 2 ^ 22 + o).foldl
    (fun s a => s.freezeBy d (some g) { fltIntegrity with op0 := some (put a 0) }
      (put 4 61 ||| put d 58 ||| put g 52 ||| edgeAddress d 10 (g % 2))) s

/-- The frames of a cluster that have been written since launch; the sync page is no data frame (16 R436, R437). -/
def State.frameRecords (s : State) (base cl : Nat) : List SaveBody :=
  (List.range 1023).filterMap fun f =>
    if (s.cluster cl).dirty.getLsbD f then some (.frame (cl - base) f (s.mread (frameByte cl f 0) 4096)) else none

/-- The tile tags, tag table and sync words of a cluster. -/
def State.clusterRecord (s : State) (base cl : Nat) : SaveBody :=
  let C := s.cluster cl
  .cluster (cl - base) { Cluster.reset with tiles := C.tiles, tags := C.tags } ((List.range 512).map fun j => s.mword (syncAddr cl j))

/-- The record of a router: its registers and the changes that wait (16 R429, R437). -/
def State.routerRecord (s : State) (base : Nat) (x : Nat × Nat) : SaveBody :=
  .router (x.1 - base) x.2 { s.router x.1 x.2 with inq := Vector.replicate 16 [], stuck := [], passWp := [], marks := [] }

/-- The unit that a caught item waits to enter, as a cut numbers it. -/
def Caught.unit : Caught → Nat
  | .token port _ => portUnit port
  | .packet e _ => e
  | .event e _ => e

/-- The CAUGHT records of items in capture order: one for each unit, in the order of their first items (16 R437, 18 R453). -/
def caughtRecords (base : Nat) (items : List Caught) : List SaveBody :=
  let xs := items.zipIdx.map fun x => (x.2, x.1)
  (xs.map fun x => x.2.unit).eraseDups.map fun u =>
    let place := if u < 8192 then (u / 16, u % 16) else ((u - 8192) / 32, 16 + (u - 8192) % 32)
    .caught (relCluster base place.1) place.2 ((xs.filter fun x => x.2.unit == u).map fun x => (x.1, x.2.move (relCluster base)))

/-- The records of a region with its caught items (16 R432, R437). -/
def State.regionRecords (s : State) (d g : Nat) (R : Region) (items : List Caught) : List SaveBody :=
  let base := 32 * d + R.cbase
  caughtRecords base items ++ R.elems.flatMap (s.elemRecords base) ++ R.ops.map (s.opRecord base) ++
    (s.clusters.map (·.1)).flatMap (fun cl => (s.enginesOf d g cl).map fun x => SaveBody.engine (relCluster base cl) x.1 x.2) ++
    (s.copiesOf d g).map (fun x => .copy x.1 x.2) ++
    R.routers.map (s.routerRecord base) ++ (R.clusters.filter R.holdsIn).flatMap (s.frameRecords base) ++ R.clusters.map (s.clusterRecord base)

/-! ### Items taken along (16 R434, R441) -/

/-- The tokens on the links into some ports. -/
def State.linkItems (s : State) (ports : List InPort) (ok : InChan → Bool) : List Caught :=
  ports.filterMap fun p =>
    let c := s.inAt p
    match c.link with
    | some t => if !t.isCut && ok c then some (.token p t) else none
    | none => none

/-- Puts a token of a router before those that have more hops to go. -/
def insertHops (x : Nat × Take) : List (Nat × Take) → List (Nat × Take)
  | [] => [x]
  | y :: ys => if y.1 ≤ x.1 then y :: insertHops x ys else x :: y :: ys

/-- The input of an element or operator, whose place an image can name (16 R437). -/
def InPort.named : InPort → Bool
  | .tile _ _ _ => false
  | _ => true

/-- Every token of some in the routers of a region, one for each input that it reaches (16 R441), in the order in which they would come to
the inputs: on one way those ahead first (10 R304; 16 R431, 18 R453). A token that reaches no input of an element or operator has no
place in an image and goes its way (log entry 83). -/
def State.routerItems (s : State) (R : Region) (ok : RTok → Bool) : List Take :=
  let all := R.routers.flatMap fun x => (s.router x.1 x.2).inq.toList.zipIdx.flatMap fun q => q.1.flatMap fun t =>
    if t.tok.isCut || !ok t then []
    else ((s.tokReaches x.1 x.2 t).filter InPort.named).map fun p =>
      (s.hops x.1 x.2 t p, ({ item := .token p t.tok, at_ := some (x.1, x.2, q.2) } : Take))
  (all.foldl (fun l x => insertHops x l) []).map (·.2)

/-- Takes a token in a router out of it for one input; one that has other ways keeps them (16 R441). -/
def State.takeRouted (s : State) (cl r i : Nat) (port : InPort) (tok : Token) : State :=
  let R := s.router cl r
  let q := vget R.inq i
  match q.findIdx? fun x => x.tok == tok && (s.tokReaches cl r x).contains port with
  | none => s
  | some n => match q[n]? with
    | none => s
    | some x =>
      let y : RTok := { x with saved := x.saved ++ [port] }
      let gone := (s.tokReaches cl r y).isEmpty
      s.setRouter cl r { R with
        inq := vset R.inq i (if gone then q.eraseIdx n else q.set n y)
        stuck := if gone ∧ n = 0 then R.stuck.filter fun z => inqIdx z.1 != i else R.stuck }

/-- The task packets that wait to enter an element: delivery queue, task network, and the task-out queues of units outside its
region (16 R434, 15 R549). -/
def State.packetItems (s : State) (es : List Nat) (e : Nat) : List Caught :=
  let d := dieOf e
  (((s.die d).delivery.get [] e) ++ ((s.die d).net.filter fun n => n.dst == e) ++
    (s.procs.flatMap fun p => if es.contains p.1 then [] else p.2.taskOut.filter fun n => n.dst == e)).map fun n => .packet e n.pkt

/-- What waits to enter the units of a region from outside by links into some ports, by the dispatcher's deliveries and permits,
by the task network and as events (16 R434). -/
def State.waitingItems (s : State) (es : List Nat) (ports : List InPort) : List Take :=
  let lent (e : Nat) : List Caught :=
    ((s.die (dieOf e)).lends.filter fun x => x.1 == e).map fun x => .token (.elem e x.2.1) x.2.2
  let events (e : Nat) : List Caught := (s.proc e).elHeld.map (.event e)
  (s.linkItems ports (fun _ => true) ++ es.flatMap lent ++ es.flatMap (s.packetItems es) ++ es.flatMap events).map fun x =>
    { item := x, at_ := none }

/-- Takes a packet for element `e` from the first place where it waits: delivery queue, task network, or a task-out queue. -/
def State.takeQueued (s : State) (es : List Nat) (e : Nat) (k : TaskPkt) : State :=
  let mine (n : NetPkt) : Bool := n.dst == e && n.pkt == k
  let D := s.die (dieOf e)
  if (D.delivery.get [] e).any mine then
    s.modDie (dieOf e) fun D => { D with delivery := D.delivery.set [] e ((D.delivery.get [] e).eraseP mine) }
  else if D.net.any mine then s.modDie (dieOf e) fun D => { D with net := D.net.eraseP mine }
  else match s.procs.find? fun p => !es.contains p.1 && p.2.taskOut.any mine with
    | some p => s.modProc p.1 fun P => { P with taskOut := P.taskOut.eraseP mine }
    | none => s

/-- Takes an item from where it waits, its record performed (16 R431, R434). -/
def State.takeItem (s : State) (es : List Nat) (x : Take) : State :=
  match x.at_, x.item with
  | some (cl, r, i), .token port t => s.takeRouted cl r i port t
  | _, .token port t =>
    if (s.inAt port).link = some t then s.modInAt port fun c => { c with link := none, linkSrc := none }
    else match port with
      | .elem e ch => s.modDie (dieOf e) fun D => { D with lends := D.lends.erase (e, ch, t) }
      | _ => s
  | _, .packet e k => s.takeQueued es e k
  | _, .event e w => s.modProc e fun P => { P with elHeld := P.elHeld.erase w }

end Sys2Proof.Machine
end

