-- ==== Sys2Proof/Machine/Watchdog.lean ====
section
/-! DEFINITION. The watchdogs' timers (16 R446, R447) and the whole of one clock cycle. -/

namespace Sys2Proof.Machine

/-- A slot of a RUN context has a guard that passes under conditions 4 to 7 of 04 R101. -/
def State.slotOffers (s : State) (e : Nat) (x : Slot) : Bool :=
  match x.word with
  | none => false
  | some w =>
    let v := viewOf w
    let C := s.ctx e v.trig.ctx.toNat
    C.rstate == .run && guardReady C v.trig && guardHolds v.trig C.p &&
      channelsReady s e v.trig.ctx.toNat ((shapeOf v).getD blankShape) v

/-- Every channel of an element is empty (06 R167). -/
def Proc.channelsEmpty (P : Proc) : Bool :=
  (P.ins.toList.all fun c => c.q.isEmpty) && (P.outs.toList.all List.isEmpty) && (P.lanes.toList.all List.isEmpty) &&
    P.ml.isEmpty && P.el.isEmpty && P.taskOut.isEmpty

/-- Every channel of the operators at a router is empty. -/
def Cluster.opsEmptyAt (C : Cluster) (r : Nat) : Bool :=
  (C.opIn.all fun e => e.1 / 4 % 16 != r || e.2.q.isEmpty) && (C.opOut.all fun e => e.1 / 4 % 16 != r || e.2.isEmpty)

/-- A region is quiescent (16 R447). -/
def State.quiescent (s : State) (R : Region) : Bool :=
  R.elems.all fun e =>
    let P := s.proc e
    P.channelsEmpty && (s.cluster (e / 16)).opsEmptyAt (e % 16) && P.slots.all fun x => !s.slotOffers e x.2

/-- A context or a copy of a region is in FAULT (16 R447). -/
def State.regionFaulted (s : State) (d g : Nat) (R : Region) : Bool :=
  (R.elems.any fun e => (s.proc e).ctxs.toList.any fun C => C.rstate == .fault) ||
  (s.dies.any fun x => x.2.copies.any fun c => match c.2 with
    | some c => !c.heldReqs.isEmpty && dieOf c.proc == d && !isCore c.proc && (s.proc c.proc).region == some g
    | none => false)

/-- The watchdog's timer of one region after the time counter has moved by `dt` (16 R447). -/
def State.wdRegion (s : State) (dt : Word) (d g : Nat) (R : Region) : Region :=
  if fldN R.wd 48 16 = 0 then R
  else if R.st ≠ .running ∨ R.cut.isSome ∨ s.regionFaulted d g R = true then { R with wdStart := R.wdStart + dt }
  else if s.quiescent R then { R with wdStart := s.tai }
  else R

/-- The watchdogs' timers of every region. -/
def State.wdTick (s : State) (dt : Word) : State :=
  s.dies.foldl (fun t d => d.2.regions.foldl (fun t x =>
    if fldN x.2.wd 48 16 = 0 then t else t.modRegion d.1 x.1 fun R => s.wdRegion dt d.1 x.1 R) t) s

/-- One cycle of the 1.5 GHz clock, with the timers it drives. -/
def State.clockCycle (s : State) : State := (s.tick).wdTick (s.tick.tai - s.tai)

end Sys2Proof.Machine
end

