-- ==== Sys2Proof/Machine/Cuts.lean ====
section
/-! DEFINITION. Cuts and saves (16 R428-R436, R439-R441): MARK and SAVE, the run of the markers, the writing of the image, and
what follows it. -/

namespace Sys2Proof.Machine

/-! ### Issue -/

/-- MARK.snap (16 R440). -/
def execMarkSnap (f : RForm) (s : State) : Out := issue (viewR 0xF9 f) (portEffect .mark modOf noFaults) s
/-- MARK.pre (16 R440). -/
def execMarkPre (f : RForm) (s : State) : Out := issue (viewR 0xF9 f) (portEffect .mark modOf noFaults) s
/-- SAVE (16 R440). -/
def execSave (f : RForm) (s : State) : Out := issue (viewR 0xFA f) (portEffect .save modOf noFaults) s
/-- SAVE.rel (16 R440). -/
def execSaveRel (f : RForm) (s : State) : Out := issue (viewR 0xFA f) (portEffect .save modOf noFaults) s

/-! ### Recording -/

/-- Output ports of an operator (10 R286-R299, 11 R321, 12 R353). -/
def opOuts (k : Nat) : Nat :=
  match (opKind k).1 with
  | 0 => 4
  | 2 => 0
  | _ => 1

/-- Cluster and router of a unit, and its output ports as router inputs (10 R301). -/
def unitOuts (u : Nat) : (Nat × Nat) × List RouterIn :=
  if u < 8192 then ((u / 16, u % 16), (List.range 4).map .el)
  else
    let k := (u - 8192) % 32
    (((u - 8192) / 32, k % 16), (List.range (opOuts k)).map fun i => .att (k / 16) i)

/-- A cut marker waits at a source port, ahead of the tokens of its output channel and taking no entry (06 R169, 16 R430). -/
def State.pushFront (s : State) (cl r : Nat) (src : RouterIn) (t : Token) : State :=
  let R := s.router cl r
  s.setRouter cl r { R with marks := R.marks ++ [(src, t)] }

/-- A cut marker of CLASS 1 SNAP or 2 PREEMPT (16 R429). -/
def cutTok (kind no : Nat) : Token := { kind := .mark, tag := 0, payload := put (kind + 1) 62 ||| put (no % 2 ^ 16) 46 }

/-- Sends the markers of a recorded unit on the ports whose route entry is nonzero (16 R430). -/
def State.sendMarkers (s : State) (u : Nat) (t : Token) : State :=
  let x := unitOuts u
  x.2.foldl (fun s src =>
    let R := s.router x.1.1 x.1.2
    if R.table.get 0 (256 * R.pos.toNat + (R.outTag src).toNat) = 0 then s else s.pushFront x.1.1 x.1.2 src t) s

/-- Changes the cut of a region. -/
def State.modCut (s : State) (d g : Nat) (f : Cut → Cut) : State := s.modRegion d g fun R => { R with cut := R.cut.map f }

/-- The inputs of a region that a cut does not treat as internal (16 R434). -/
def Region.outerPorts (R : Region) (c : Cut) : List InPort := R.ports.filter fun p => !c.internal.contains p

/-- What waits to enter a region is to go into its image, once the record of each is performed: from outside by PREEMPT, and all
with the tokens in its routers by `save.rel` (16 R434, R441). -/
def State.takeWaiting (s : State) (d g : Nat) : State :=
  let R := s.region d g
  match R.cut with
  | none => s
  | some c =>
    let items := if c.kind = 1 then s.waitingItems R.elems (R.outerPorts c)
      else s.waitingItems R.elems R.ports ++ s.routerItems R fun _ => true
    s.modCut d g fun c => { c with takes := items }

/-- Latched matrix operations of a region on an engine have been delivered, and the partials of chains in progress written
(11 R336). -/
def Mx.settled (x : Mx) (d g : Nat) : Bool :=
  let ts := x.slotsOf d g
  let mine (o : MxOp) : Bool := ts.any fun y => y.1 == o.t
  !(x.standby.any mine) && !(x.running.any mine) && !(x.shadow.any mine) && !(x.finished.any mine) &&
    ts.all fun y => !y.2.spills

/-- Vectors already blocked of a region's graph have run to the output (12 R362). -/
def State.espSettled (s : State) (d g cl u : Nat) : Bool :=
  let x := s.esp cl u
  !(s.espOf cl d g x) || (s.esp cl x.head).outq == []

/-- An engine or array of a region has sent what it had latched or blocked (16 R432). -/
def State.engineSettled (s : State) (d g cl k : Nat) : Bool :=
  if k < 4 then (s.mx cl k).settled d g else if k < 8 then s.espSettled d g cl (k - 4) else true

/-- A unit may record: an engine or array only once it is settled (16 R432). -/
def State.unitSettled (s : State) (d g u : Nat) : Bool := u < 8192 || s.engineSettled d g ((u - 8192) / 32) ((u - 8192) % 32)

/-- Every engine and array that a region bound something in is settled; it may have bound in clusters that only another region of
its job holds (15 R407, 12 R362). -/
def State.enginesSettled (s : State) (d g : Nat) : Bool :=
  s.clusters.all fun e => (List.range 8).all fun k => s.engineSettled d g e.1 k

/-- Unit `u` of a region records (16 R430), an engine or array once it is settled; MARK sends its markers, and with the last one
of a PREEMPT cut or of `save.rel`, what waits to enter is to be taken (16 R434). -/
def State.recordUnit (s : State) (d g u : Nat) : State :=
  match (s.region d g).cut with
  | none => s
  | some c =>
    if s.unitSettled d g u = false then s.modCut d g fun c => { c with due := c.due ++ [u] }
    else
      let s1 := s.modCut d g fun c =>
        { c with pending := c.pending.filter (· != u), due := c.due.filter (· != u), recorded := c.recorded ++ [u] }
      let s2 := if c.kind < 2 then s1.sendMarkers u (cutTok c.kind (s.region d g).cutNo.toNat) else s1
      if (c.kind = 1 ∨ c.kind = 3) ∧ (c.pending.filter (· != u)).isEmpty = true then s2.takeWaiting d g else s2

/-- The first engine or array whose turn has come and which is settled records. -/
def State.recordDue (s : State) (d g : Nat) : State :=
  match (s.region d g).cut with
  | none => s
  | some c => match c.due.find? (s.unitSettled d g) with
    | some u => s.recordUnit d g u
    | none => s

/-! ### The graph (16 R428) -/

/-- The inputs of a region that some output port of one of its units reaches, by the entries as they stand. -/
def State.reachedBy (s : State) (d g u : Nat) : List InPort :=
  let x := unitOuts u
  let R := s.router x.1.1 x.1.2
  (x.2.flatMap fun src => (s.reaches x.1.1 x.1.2 (R.outTag src)).filter (s.portIn d g)).eraseDups

/-- The units reached from a worklist, `fuel` steps at most. -/
def reachUnits (succ : Nat → List Nat) : Nat → List Nat → List Nat → List Nat
  | 0, _, seen => seen
  | _ + 1, [], seen => seen
  | n + 1, u :: todo, seen =>
    if seen.contains u then reachUnits succ n todo seen else reachUnits succ n (todo ++ succ u) (seen ++ [u])

/-- The order in which a set's source is chosen: elements by number, then operators by address. -/
def cutKey (u : Nat) : Nat := if u < 8192 then u else 8192 + (opAddress ((u - 8192) / 32) ((u - 8192) % 32)).toNat

/-- The sources among units (16 R428): the first of each set whose internal inputs all come from within it. The least such set that
holds a unit is the unit with all that feed it, directly or not, so that a unit is a source where none of these comes before it.
`edges` lists for each unit the units it feeds. -/
def sourcesOf (edges : List (Nat × List Nat)) : List Nat :=
  let feeds (u : Nat) : List Nat := (edges.filter fun e => e.2.contains u).map (·.1)
  (edges.map (·.1)).filter fun u =>
    (reachUnits feeds (edges.length * (edges.length + 2)) [u] []).all fun v => decide (cutKey u ≤ cutKey v)

/-- MARK starts its cut: the graph is computed and the sources record (16 R428, R430). -/
def State.beginMark (s : State) (d g : Nat) : State :=
  let us := (s.region d g).units
  let ports := us.map fun u => (u, s.reachedBy d g u)
  let srcs := sourcesOf (ports.map fun x => (x.1, (x.2.map portUnit).eraseDups))
  let s1 := s.modCut d g fun c => { c with internal := (ports.flatMap (·.2)).eraseDups, pending := us }
  srcs.foldl (fun s u => s.recordUnit d g u) s1

/-- SAVE starts: every unit stands recorded, engines and arrays once they are settled (16 R441). -/
def State.beginSave (s : State) (d g : Nat) : State :=
  let us := (s.region d g).units
  us.foldl (fun s u => s.recordUnit d g u) (s.modCut d g fun c => { c with pending := us })

/-! ### Serving (16 R440, R441) -/

/-- The wide address of a save area, when it resolves to an OPEN object of this node (16 R439, R440; log entry 32). -/
def State.saveArea (s : State) (job : Nat) (b : Word) : Option Nat :=
  if aSlot b = 0 then none
  else match s.resolveHandle job b 8 with
    | .error _ => none
    | .ok w => if s.ownNode (wnNode w) && (s.obj (wnSerial w)).st == .opened then some w else none

/-- The wide address of a save area that may lie in an object of another node of the domain (16 R440, 22 R547). -/
def State.peerArea (s : State) (d job : Nat) (b : Word) : Option Nat :=
  if aSlot b = 0 then none
  else match s.resolveHandle job b 8 with
    | .error _ => none
    | .ok w => if !s.ownNode (wnNode w) && s.domainOk d (some job) (wnNode w) then some w else none

/-- A user of the codecs of a die has its turn: no earlier one of the same codec is still there (16 R438). -/
def State.hasCodec (s : State) (d : Nat) (u : CodecUser) : Bool :=
  ((s.die d).codecq.filter fun x => x.codec == u.codec).head? == some u
/-- A user waits for its codec, in arrival order. -/
def State.joinCodec (s : State) (d : Nat) (u : CodecUser) : State :=
  s.modDie d fun D => { D with codecq := if D.codecq.contains u then D.codecq else D.codecq ++ [u] }
/-- A user leaves its codec to the next. -/
def State.leaveCodec (s : State) (d : Nat) (u : CodecUser) : State :=
  s.modDie d fun D => { D with codecq := D.codecq.filter (· != u) }

/-- Puts a cut of a kind into a region, its area in an object of `n` bytes; MARK counts it (16 R429). -/
def State.openCut (s : State) (d g kind p rid : Nat) (b : Word) (w n : Nat) : State :=
  let v := s.view (dieUnit d)
  (v.2.joinCodec d (.cut g)).modRegion d g fun R =>
    { R with
      area := some b
      cutNo := if kind < 2 then R.cutNo + 1 else R.cutNo
      cut := some { kind := kind, proc := p, rid := rid, area := b, areaWide := w, areaSize := n, time := v.1, internal := [],
                    pending := [], recorded := [], due := [], markersIn := [], caught := [], standing := [], takes := [], image := none, toWrite := [], missed := false } }

/-- The status word of MARK and SAVE (16 R440). -/
def cutWord (st words : Nat) : Word := put st 56 ||| put (words % 2 ^ 32) 0

/-- The cut or save starts, and its request waits for the end (16 R441). -/
def State.startCut (s : State) (d g kind p : Nat) (r : Req) (w n : Nat) : Served :=
  let s1 := s.openCut d g kind p r.rid r.b w n
  .park (if kind < 2 then s1.beginMark d g else s1.beginSave d g) { r with stage := 3 }

/-- MARK and SAVE at the region table (16 R440, R441; 24 R542). An object of another node is queried at its home first
(22 R547). -/
def serveCut (kind : Nat) : Server := fun p r s =>
  let d := dieOf p
  let g := fldN r.a 0 6
  let R := s.region d g
  if fldN r.a 6 58 ≠ 0 then .word s (cutWord 3 0)
  else if R.cut.isSome then .word s (cutWord 4 0)
  else if R.filling.isSome then .wait s
  else if R.st ≠ (if kind < 2 then RegState.running else RegState.frozen) ∨ R.rel = true ∨ (kind = 0 ∧ s.snapshotMode = false) then
    .word s (cutWord 2 0)
  else match s.saveArea R.job r.b with
    | some w => s.startCut d g kind p r w (s.obj (wnSerial w)).size
    | none => match s.peerArea d R.job r.b, r.data with
      | none, _ => .word s (cutWord 5 0)
      | some w, [] => s.objectAtHome p { r with job := some R.job } w 0
      | some w, x :: _ => if fldN x 0 3 = 0 then s.startCut d g kind p r w (objSizeOf x) else .word s (cutWord 5 0)

/-- MARK (16 R441). -/
def serveMark : Server := fun p r s => serveCut (r.mode % 2) p r s
/-- SAVE (16 R441). -/
def serveSave : Server := fun p r s => serveCut (2 + r.mode % 2) p r s

/-- Answers the request of a cut; the watchdog's save has none. -/
def State.answerCut (s : State) (c : Cut) (st words : Nat) : State :=
  match (if c.kind = 4 then none else (s.proc c.proc).parked.find? fun r => r.rid == c.rid) with
  | none => s
  | some r => finishServed c.proc r (.word s (cutWord st words))

/-! ### Markers (06 R169, 16 R430-R431) -/

/-- CUT_MARKER_ARRIVAL: a marker of the region's cut on an internal input closes that input, and the first one makes the unit
record. It takes no entry. -/
def execCutMarkerArrival (port : InPort) (s : State) : Out :=
  let c := s.inAt port
  match c.link with
  | none => .next s
  | some t =>
    if t.isCut = false then .next s
    else
      let s1 := s.modInAt port fun c => { c with link := none, linkSrc := none }
      let x := s.portRegion port
      match x.2 with
      | none => .next s1
      | some g =>
        match (s.region x.1 g).cut with
        | none => .next s1
        | some k =>
          if c.linkSrc = some (x.1, g) ∧ k.internal.contains port = true then
            let s2 := s1.modCut x.1 g fun k => { k with markersIn := k.markersIn ++ [port] }
            .next (if k.records (portUnit port) then s2.recordUnit x.1 g (portUnit port) else s2)
          else .next s1

/-! ### Readiness (16 R432) -/

/-- Nothing that a unit's contexts are owed is on its way, but for held requests and waiting reads, and no result either. -/
def Proc.settled (P : Proc) : Bool :=
  P.reqs.isEmpty && P.parked.isEmpty && P.resps.isEmpty && (P.ctxs.toList.all fun C => C.outst.isEmpty) &&
    P.outs.toList.all fun q => q.all fun e => match e with | .resv _ => false | .tok _ => true

/-- The steered tokens of an element stand in converters that the cut records (06 R174). -/
def State.steersSettled (s : State) (c : Cut) (e : Nat) : Bool :=
  let waits := (s.proc e).ins.toList.any fun ch => ch.q.any fun x => match x with | .resv _ => true | .tok _ => false
  !waits || (s.cluster (e / 16)).cvt.all fun x =>
    !(x.2.steerQ.any fun y => portUnit y.port == e) || c.recorded.contains (opUnit (e / 16) (cvtOp x.1))

/-- A request of a copy is complete as far as a cut awaits it: held, or with all its words read for a subgraph, which may take none
while the region stands still (09 R265, 16 R432; log entry 84). -/
def Copy.stands (c : Copy) (q : CopyReq) : Bool := q.isHeld || (!c.isStore && c.via != 0 && decide (8 * q.len ≤ q.got.length))

/-- Every unit has recorded, a marker has come on every internal input, every caught item is written, and what R432 awaits has
arrived. -/
def State.cutReady (s : State) (d g : Nat) (c : Cut) : Bool :=
  let R := s.region d g
  c.pending.isEmpty && c.internal.all c.markersIn.contains && c.standing.isEmpty && c.takes.isEmpty && R.elems.all (fun e => (s.proc e).settled && s.steersSettled c e) &&
    s.enginesSettled d g &&
    (s.copiesOf d g).all (fun x => x.2.reqs.all x.2.stands)

/-! ### Writing (16 R437-R439) -/

/-- The unit an item waits to enter has been recorded by a cut that is not over: the item stands in that cut's record. -/
def State.itemHeld (s : State) : Caught → Bool
  | .token port _ => match s.portCut port with | none => false | some k => k.recorded.contains (portUnit port)
  | .packet e _ => s.unitHeld e
  | .event e _ => s.unitHeld e

/-- The caught items of a region's cut in capture order: those of an earlier image that still wait, for units recorded, then those
whose record is performed. -/
def State.cutItems (s : State) (R : Region) (c : Cut) : List Caught := R.entering.filter s.itemHeld ++ c.caught

/-- The image of a cut as its header tells of it (16 R437). -/
def State.cutImage (s : State) (d g : Nat) (c : Cut) (recs : List SaveBody) : SaveImage :=
  let R := s.region d g
  { cut := c.kind, die := d, region := g, cbase := R.cbase, job := R.job, launch := R.image, time := c.time, recs := recs }

/-- The image up to its CAUGHT records, as written while a cut runs: the header without COMPLETE and the items. -/
def State.caughtWords (s : State) (d g : Nat) (c : Cut) (items : List Caught) : List Word :=
  imageHeader (s.cutImage d g c []) false ++
    (caughtRecords (32 * d + (s.region d g).cbase) items).flatMap SaveBody.record

/-- The item whose record is to be performed next: the token on a link that was caught first, then the items to be taken, once no
token can be caught any more (16 R431, R434). -/
def State.nextTake (s : State) (c : Cut) : Option Take :=
  match c.standing with
  | port :: _ => (s.inAt port).link.map fun t => { item := .token port t, at_ := none }
  | [] => if c.internal.all c.markersIn.contains then c.takes.head? else none

/-- Tokens that the region's units have on links, and those of some in its routers. -/
def State.heldItems (s : State) (d g : Nat) (ok : RTok → Bool) : List Take :=
  let R := s.region d g
  ((s.linkItems R.ports fun ch => ch.linkSrc == some (d, g)).map fun x => { item := x, at_ := none }) ++ s.routerItems R ok

/-- Tokens of the region's units that a SAVE takes into its image as they come: while an engine still sends what it had latched, and
for `save.rel`, after which nothing of the region is left, all there are (11 R336, 16 R432, R441). -/
def State.lateItems (s : State) (d g : Nat) (c : Cut) : List Take :=
  if c.kind = 3 ∨ (2 ≤ c.kind ∧ s.enginesSettled d g = false) then s.heldItems d g (fun t => t.sender == some (d, g)) else []

/-- An item's record is performed: it leaves where it stood (16 R431, R434). -/
def State.took (s : State) (d g : Nat) (x : Take) : State :=
  (s.takeItem (s.region d g).elems x).modCut d g fun c =>
    { c with caught := c.caught ++ [x.item], standing := c.standing.tail
             takes := if c.standing.isEmpty then c.takes.tail else c.takes }

/-- The records are made (16 R432, R437). SAVE counts the tokens in the region's routers, and those that its units have on links,
as caught, and they stay where they are (16 R441). -/
def State.makeImage (s : State) (d g : Nat) (c : Cut) : State :=
  let R := s.region d g
  let stays := if c.kind = 2 ∨ c.kind = 4 then (s.heldItems d g fun _ => true).map (·.item) else []
  let x := recordPieces (s.regionRecords d g R (s.cutItems R c ++ stays)) 4
  (s.codecEcc d g R).modCut d g fun k =>
    { k with image := some (4 + (x.map fun y => y.2.length).sum), toWrite := (0, imageHeader (s.cutImage d g c []) false) :: x }

/-- Writes words of an object in HBM; the words so written verify again (19 R479). -/
def State.hwriteWords (s : State) (w : Nat) (ws : List Word) : State :=
  (List.range ws.length).foldl (fun s i =>
    let x := s.lineOf (w + 8 * i)
    if (w + 8 * i) % 8 = 0 then
      s.modDie x.1 fun D => { D with poison := D.poison.filter fun k => k != 8 * x.2 + (w + 8 * i) % 64 / 8 }
    else s) (s.hwrite w (ws.flatMap (bytesOf 8)))

/-- How the writing of words to a save area goes: done, done for the first `k` words, waiting, held at a page, or stopped. -/
inductive AreaStep where
  | ok (s : State)
  | part (s : State) (k : Nat)
  | wait (s : State)
  | miss (s : State) (w : Nat)
  | full (s : State)

/-- The requester under which the store packets of a region's cut go out (22 R512). -/
def cutUnit (d g : Nat) : Nat := 16384 + 64 * d + g

/-- A store packet of a region's cut is not yet acknowledged. -/
def State.areaInFlight (s : State) (d g : Nat) : Bool := s.fabric.remote.any fun x => x.2.2.1 == cutUnit d g

/-- Writes words that lie in one page of a cut's area, from wide address `w` on (16 R439): into HBM, or to the peer that holds the
page, one store packet of up to eight words at a time (22 R512; log entry 32). -/
def State.writePage (s : State) (d g job w : Nat) (ws : List Word) : AreaStep :=
  match s.translate d (some job) w (8 * ws.length) .store with
  | .error f => if f.code = 6 then .miss s w else .full s
  | .ok (s1, .miss page) => .wait (s1.missAt page d (some job))
  | .ok (s1, .remote n) =>
    if s1.domainOk d (some job) n = false then .full s1
    else if s1.mayPacket n = false then .wait s1
    else
      let x := s1.sendRequest n 1 0 (8 * (ws.take 8).length) (w % 2 ^ 120) (s1.dtag d job) (ws.take 8)
      .part { x.2 with fabric := { x.2.fabric with remote := x.2.fabric.remote ++ [(x.1, n, cutUnit d g, 0)] } } (ws.take 8).length
  | .ok (s1, .hbm) =>
    if s1.hbmBusy w (8 * ws.length) then .wait s1
    else match s1.closeFor (wideKey w) (8 * ws.length) with
      | none => .wait s1
      | some s2 => .ok (s2.hwriteWords w ws)

/-- Writes words from wide address `w` of a cut's area on, page by page, `fuel` pages at most: what meets an unmapped page is
held there (16 R439). -/
def State.writePages (s : State) (d g job : Nat) : Nat → Nat → List Word → AreaStep
  | 0, _, _ => .ok s
  | n + 1, w, ws =>
    if ws.isEmpty then .ok s
    else
      let k := max 1 ((65536 - w % 65536) / 8)
      match s.writePage d g job w (ws.take k) with
      | .ok s1 => match s1.writePages d g job n (w + 8 * k) (ws.drop k) with
        | .part s2 j => .part s2 (k + j)
        | .wait s2 => .part s2 k
        | x => x
      | x => x

/-- Writes words at a word offset of a cut's area, from where their writing stands (16 R439). -/
def State.writeArea (s : State) (d g : Nat) (c : Cut) (off : Nat) (ws : List Word) : AreaStep :=
  if wnOff c.areaWide + 8 * (off + ws.length) > c.areaSize then .full s
  else match s.writePages d g (s.region d g).job (ws.length + 1) (c.areaWide + 8 * (off + c.sent)) (ws.drop c.sent) with
    | .ok s1 => .ok (s1.modCut d g fun c => { c with sent := 0 })
    | .part s1 k =>
      if c.sent + k < ws.length then .wait (s1.modCut d g fun c => { c with sent := c.sent + k })
      else .ok (s1.modCut d g fun c => { c with sent := 0 })
    | x => x

/-- SAVE_AREA_MISS (16 R439): the save is held in place; OP2 is the address of the write that met the page. -/
def State.areaMiss (s : State) (d g w : Nat) : State :=
  (s.raiseOther d { code := 15, op2 := wnLo w } (s.region d g).job false (regionTarget d g)).modRegion d g
    fun R => { R with held := R.held ++ [regionTarget d g], cut := R.cut.map fun c => { c with missed := true, sent := 0 } }

/-! ### The end of a cut (16 R433, R439) -/

/-- The pending position changes of a region's routers are applied (16 R429). -/
def State.applyPending (s : State) (rs : List (Nat × Nat)) : State :=
  rs.foldl (fun s x =>
    let R := s.router x.1 x.2
    s.setRouter x.1 x.2 { R.pending.foldl Router.control R with pending := [] }) s

/-- A caught item enters its channel, as an arrival does, ahead of what stands on the link; none while there is no room
(16 R433, R442). -/
def State.enterItem (s : State) : Caught → Option State
  | .token port t =>
    let c := s.inAt port
    let s1 := (s.modInAt port fun c => { c with link := some t }).admitTok port t
    if (s1.inAt port).link.isSome then none
    else some (s1.modInAt port fun x => { x with link := c.link, linkSrc := c.linkSrc })
  | .packet e k =>
    let P := s.proc e
    let x := P.sels.get Sel.reset k.sel.toNat
    if x.v && decide ((vget P.lanes x.handler.toNat).length < 4) then
      some (s.modProc e fun P => { P with lanes := vset P.lanes x.handler.toNat (vget P.lanes x.handler.toNat ++ [k]) })
    else none
  | .event e w => if (s.proc e).el.length < 4 then some (s.modProc e fun P => { P with el := P.el ++ [w] }) else none

/-- Two items wait for one input: a channel, a handler lane's element, or an event lane. -/
def Caught.sameInput : Caught → Caught → Bool
  | .token p _, .token q _ => p == q
  | .packet e k, .packet f l => e == f && k.sel == l.sel
  | .event e _, .event f _ => e == f
  | _, _ => false

/-- The first item that can enter, with none before it for its input. -/
def State.enterFirst (s : State) : List Caught → List Caught → Option (State × List Caught)
  | _, [] => none
  | before, x :: rest =>
    match (if before.any x.sameInput || s.itemHeld x then none else s.enterItem x) with
    | some s1 => some (s1, before ++ rest)
    | none => s.enterFirst (before ++ [x]) rest

/-- One waiting item of a region enters; those of a SAVED region wait for its RESTORE (16 R443). -/
def State.enterOne (s : State) (d g : Nat) : Option State :=
  match (if (s.region d g).st = .saved then none else s.enterFirst [] (s.region d g).entering) with
  | none => none
  | some x => some (x.1.modRegion d g fun R => { R with entering := x.2 })

/-- Items enter while there is room. -/
def State.enterAll (d g : Nat) : Nat → State → State
  | 0, s => s
  | n + 1, s => match s.enterOne d g with | none => s | some s1 => enterAll d g n s1

/-- RESTORE_TOKEN_ENTER (16 R433, R442); during a cut, for the units it has not recorded yet. -/
def execRestoreTokenEnter (d g : Nat) (s : State) : Out := .next ((s.enterOne d g).getD s)

/-- The caught items come back: the cut of the region is over. -/
def State.readmit (s : State) (d g : Nat) : State :=
  let R := s.region d g
  match R.cut with
  | none => s
  | some c =>
    let items := R.entering ++ c.caught
    let s1 := (s.applyPending R.routers).modRegion d g fun R => { R with cut := none, entering := items }
    s1.enterAll d g items.length

/-- WATCHDOG (16 R422, R447). -/
def State.postWatchdog (s : State) (d g cause : Nat) : State :=
  (s.raiseOther d { code := 17, cause := cause } (s.region d g).job true (regionTarget d g)).modRegion d g fun R =>
    { R with held := R.held ++ [regionTarget d g] }

/-- A save that would run past its area is abandoned (16 R439): the region is FROZEN with every unit as recorded. -/
def State.abandon (s : State) (d g off : Nat) (c : Cut) : State :=
  let s1 := (s.readmit d g).modRegion d g fun R =>
    { R with st := .frozen, held := R.held.filter (· != regionTarget d g) ++ [regionTarget d g] }
  let s2 := s1.raiseOther d { code := 16 } (s1.region d g).job true (regionTarget d g)
  let s3 := if c.kind = 4 then s2.postWatchdog d g 2 else s2
  (s3.answerCut c 1 off).leaveCodec d (.cut g)

/-- An engine without what a region bound. -/
def Mx.without (x : Mx) (d g : Nat) : Mx :=
  let ts := x.slotsOf d g
  let mine (t : Nat) : Bool := ts.any fun y => y.1 == t
  { x with tmpl := x.tmpl.filter (fun t => !mine t.1), queue := x.queue.filter fun e => !mine e.t }

/-- A cluster without the templates and graphs that a region bound (16 R433). -/
def Cluster.withoutEngines (C : Cluster) (d g : Nat) (gone : Esp → Bool) : Cluster :=
  { C with
    mx := C.mx.foldl (fun m u => m.set Mx.reset u.1 (u.2.without d g)) C.mx
    esp := C.esp.filter fun u => !gone u.2
    nrm := C.nrm.foldl (fun m u => match u.2.graph with
      | some h => if gone (C.esp.get Esp.reset h) then m.set Nrm.reset u.1 { u.2 with graph := none } else m
      | none => m) C.nrm }

/-- An operator released: its channels and internal state stand in the image, its parameter registers stay. -/
def Cluster.clearOp (C : Cluster) (k : Nat) : Cluster :=
  let u := (opKind k).2
  let D : Cluster := { C with
    opIn := (List.range 4).foldl (fun m i =>
      let c := m.get InChan.reset (4 * k + i)
      m.set InChan.reset (4 * k + i) { c with q := [], link := none, linkSrc := none }) C.opIn
    opOut := (List.range 4).foldl (fun m i => m.set [] (4 * k + i) []) C.opOut }
  match (opKind k).1 with
  | 3 => { D with nrm := D.nrm.set Nrm.reset u { D.nrm.get Nrm.reset u with w0 := none } }
  | 4 => { D with cvt := D.cvt.set Cvt.reset u { D.cvt.get Cvt.reset u with gathered := [], pend := [], steerQ := [] } }
  | 5 => { D with suu := D.suu.set Suu.reset u { D.suu.get Suu.reset u with win := (D.suu.get Suu.reset u).win.filter fun y => y.src.isSome } }
  | 9 => { D with cnt := D.cnt.set Cnt.reset u { D.cnt.get Cnt.reset u with copy := none, visible := false, count := 0 } }
  | _ => D

/-- A unit whose state has gone into an image (16 R433). -/
def savedElement (P : Proc) : Proc :=
  { P with held := [], taskOut := [], hold := [], openTasks := []
           ctxs := P.ctxs.map fun C => { C with rstate := .saved } }

/-- Releases the units, engines and copies of a region whose state stands in an image (16 R433). -/
def State.vacate (s : State) (d g : Nat) : State :=
  let R := s.region d g
  let ids := (s.copiesOf d g).map (·.1)
  let s1 := (s.clusters.map (·.1)).foldl (fun s cl => s.modCluster cl fun C => C.withoutEngines d g (s.espOf cl d g)) s
  let s2 := R.ops.foldl (fun s x => s.modCluster x.1 fun C => C.clearOp x.2) s1
  let s3 := ids.foldl (fun s id => s.modDie (id / 128) fun D => { D with copies := D.copies.set none (id % 128) none }) s2
  let s4 := (s3.clusters.map (·.1)).foldl (fun s cl => s.modCluster cl fun C =>
    { C with waiters := C.waiters.filter (fun x => !R.elems.contains x.proc)
             waitq := C.waitq.filter (fun x => !R.elems.contains x.proc)
             cnt := C.cnt.foldl (fun m x => match x.2.copy with
               | some id => if ids.contains id then m.set Cnt.reset x.1 { x.2 with copy := none, visible := false, count := 0 } else m
               | none => m) C.cnt }) s3
  R.elems.foldl (fun s e => s.modProc e savedElement) (s4.releaseUnits d g)

/-- Changes the numbers of units in the records that name them: dispatched tasks of which `mine` holds, ended ones, armed contexts,
notes of lent keys. -/
def State.renameUnits (s : State) (f : Nat → Nat) (mine : Nat → Task → Nat → Bool) (ended : Completing → Completing) : State :=
  (List.range 8).foldl (fun s d => s.modDie d fun D => { D with
    tasks := D.tasks.map fun t => { t with st := match t.st with | .dispatched e => if mine d t e then .dispatched (f e) else t.st | x => x }
    completing := D.completing.map fun c => { ended c with proc := f c.proc }
    counters := D.counters.map fun c => (c.1, { c.2 with armed := c.2.armed.map fun a => (f a.1, a.2) })
    keys := D.keys.map fun k => (k.1, { k.2 with note := k.2.note.map fun a => (f a.1, a.2) }) }) s

/-- A region's elements leave: what names them names the SAVED region's from now on, so that nothing of another region that may be
loaded there is taken for theirs (16 R443; log entry 111). An ended task none of whose accesses stands in the image awaits nothing
more. -/
def State.saveUnits (s : State) (d g : Nat) : State :=
  let es := (s.region d g).elems
  let took (e idx : Nat) : Bool := match (s.region d g).cut with
    | none => false
    | some c => c.caught.any fun x => match x with | .packet f k => f == e && k.task.toNat == idx | _ => false
  s.renameUnits (fun p => if es.contains p then savedUnit d g p else p)
    (fun dt t e => es.contains e && (s.runsTask dt e t || (t.job == (s.region d g).job && took e t.idx) ||
      (s.dies.any fun D => D.2.completing.any fun c => c.proc == e && c.job == t.job && c.task == t.idx)))
    (fun c => if es.contains c.proc && !s.awaits c.proc c.ctx c.before 2 false then { c with before := 0 } else c)

/-- What follows the completion of a cut's image (16 R433, R436, R441, R447). -/
def State.endCut (s : State) (d g : Nat) (c : Cut) : State :=
  match c.kind with
  | 0 =>
    let s1 := (s.region d g).clusters.foldl (fun s cl => s.modCluster cl fun C => { C with cdirty := 0 }) (s.readmit d g)
    s1.modRegion d g fun R => { R with snap := some c.area }
  | 2 => s.readmit d g
  | 4 => (s.readmit d g).postWatchdog d g 0
  | _ =>
    let rs := (s.region d g).routers
    let s1 := rs.foldl (fun s x => s.setRouter x.1 x.2 { s.router x.1 x.2 with marks := [] }) (s.applyPending rs)
    ((s1.saveUnits d g).vacate d g).modRegion d g fun R =>
      { R with st := .saved, elems := [], clusters := [], cut := none, entering := [], held := [], savedAt := c.time.toNat }

/-- One piece of the image is written, in order (16 R432, R437, R439). -/
def State.writePiece (s : State) (d g : Nat) (c : Cut) : State :=
  match c.toWrite with
  | [] => s
  | x :: rest =>
    match s.writeArea d g c x.1 x.2 with
    | .part s1 _ => s1
    | .wait s1 => s1
    | .miss s1 w => s1.areaMiss d g w
    | .full s1 => s1.abandon d g x.1 c
    | .ok s1 => s1.modCut d g fun c => { c with toWrite := rest }

/-- The next caught item is written to the image with those before it, and leaves where it stood (16 R431, R434, R439). -/
def State.writeTake (s : State) (d g : Nat) (c : Cut) (x : Take) : State :=
  let ws := s.caughtWords d g c (s.cutItems (s.region d g) c ++ [x.item])
  match s.writeArea d g c 0 ws with
  | .part s1 _ => s1
  | .wait s1 => s1
  | .miss s1 w => s1.areaMiss d g w
  | .full s1 => s1.abandon d g (s.caughtWords d g c (s.cutItems (s.region d g) c)).length c
  | .ok s1 => s1.took d g x

/-- SAVE_RECORD_WRITE (16 R431, R432, R437-R439): once the codec is the cut's, caught items are written one after another as they
come, and an engine whose turn had come records; the other records are made once the cut is ready, then written one by one. -/
def execSaveRecordWrite (d g : Nat) (s : State) : Out :=
  match (s.region d g).cut with
  | none => .next s
  | some c =>
    if c.missed = true ∨ s.hasCodec d (.cut g) = false then .next s
    else match c.image with
      | none => match s.nextTake c, s.lateItems d g c with
        | some x, _ => .next (s.writeTake d g c x)
        | none, x :: xs => .next (s.modCut d g fun c => { c with takes := x :: xs })
        | none, [] => .next (if s.cutReady d g c then s.makeImage d g c else s.recordDue d g)
      | some _ => .next (s.writePiece d g c)

/-- The cut ends: the region goes on or is released, the issuer is answered with the image's words, the codec is free. -/
def State.finishCut (s : State) (d g : Nat) (c : Cut) (n : Nat) : State := ((s.endCut d g c).answerCut c 0 n).leaveCodec d (.cut g)

/-- CUT_COMPLETE (16 R432, R433): COMPLETE is written last, after the acknowledgement of every store packet to a peer; then the cut
ends. -/
def execCutComplete (d g : Nat) (s : State) : Out :=
  match (s.region d g).cut with
  | none => .next s
  | some c =>
    match c.image with
    | none => .next s
    | some n =>
      if c.missed = true ∨ c.toWrite ≠ [] ∨ s.areaInFlight d g = true then .next s
      else if c.sent = 4 then .next (s.finishCut d g c n)
      else match s.writeArea d g c 0 (imageHeader (s.cutImage d g c []) true) with
        | .ok s1 => .next (if s1.areaInFlight d g then s1.modCut d g fun c => { c with sent := 4 } else s1.finishCut d g c n)
        | .part s1 _ => .next s1
        | .wait s1 => .next s1
        | .miss s1 w => .next (s1.areaMiss d g w)
        | .full s1 => .next (s1.abandon d g n c)

/-! ### The watchdog (16 R447) -/

/-- The area of a region's last MARK or SAVE, with the size of its object: in another node's object as the home last told of it
(16 R447; log entry 32). -/
def State.watchdogArea (s : State) (d job : Nat) (b : Word) : Option (Nat × Nat) :=
  match s.saveArea job b with
  | some w => some (w, (s.obj (wnSerial w)).size)
  | none => match s.peerArea d job b with
    | some w => if (s.knownOf w).code = 0 then some (w, (s.knownOf w).size) else none
    | none => none

/-- WATCHDOG_EXPIRY: the region is FROZEN, a save into its area is attempted, and the timer starts anew (log entry 33). -/
def execWatchdogExpiry (d g : Nat) (s : State) : Out :=
  let R := s.region d g
  let period := fldN R.wd 48 16
  if period = 0 ∨ R.st ≠ .running ∨ R.cut.isSome = true ∨ s.regionFaulted d g R = true ∨ s.quiescent R = true ∨
      (s.tai - R.wdStart).toNat < 1000 * period then .next s
  else
    let s1 := s.modRegion d g fun R => { R with st := .frozen, wdStart := s.tai }
    match R.area with
    | none => .next (s1.postWatchdog d g 1)
    | some b =>
      match s1.watchdogArea d R.job b with
      | none => .next (s1.postWatchdog d g 2)
      | some w => .next ((s1.openCut d g 4 0 0 b w.1 w.2).beginSave d g)

end Sys2Proof.Machine
end

