-- ==== Sys2Proof/Machine/Residency.lean ====
section
/-! DEFINITION. Tiers, residency and durability (19): promotion and eviction of pages, prefetch plans, the store's log and its
hold-up energy, and what a loss of power leaves. -/

namespace Sys2Proof.Machine

/-! ### Records (19 R475) -/

/-- A record of type 0x17: cause, fields [47:32] and [31:0] of word 1, and words 2 and 3. -/
def State.postStore (s : State) (d cause hi lo : Nat) (w2 w3 : Word) : State :=
  s.postEvent d 0 (put 0x17 56 ||| put cause 48 ||| put hi 32 ||| put (min lo (2 ^ 32 - 1)) 0) w2 w3

/-! ### Eviction (19 R463-R465) -/

/-- The object of a page is the save area of a cut in progress (19 R463). -/
def State.cutTargets (s : State) (page : Nat) : Bool :=
  s.dies.any fun d => d.2.regions.any fun g => match g.2.cut with
    | some c => c.areaWide != 0 && pageSerial page == wnSerial c.areaWide && pageNode page == wnNode c.areaWide
    | none => false

/-- A request of a copy is in the midst of a word of its far stream whose next byte lies in a page. -/
def Copy.midWord (c : Copy) (page : Nat) : Bool :=
  !c.farScratch && c.reqs.any fun q => q.phase == .going && q.got.length % 8 != 0 &&
    match c.farByteAt (8 * q.n + q.got.length) with
    | some d => match c.farByte d 1 with | .ok a => pageOf a == page | .error _ => false
    | none => false

/-- Some request that has passed translation to a page is in flight: of a unit, which may read or write it byte by byte or word by
word, of a copy in the midst of a word, or of a peer (07 R218, 19 R463, 20 R490). -/
def State.pageBusy (s : State) (page : Nat) : Bool :=
  (s.procs.any fun e => e.2.pending.any fun r => r.flying &&
    decide (pageOf r.wide ≤ page) && decide (page ≤ pageOf (r.wide + 8 * r.data.length + 7))) ||
  (s.dies.any fun d => d.2.copies.any fun e => match e.2 with | some c => c.midWord page | none => false) ||
  s.fabric.homeq.any fun h => h.flying && decide (h.page ≤ page) && decide (page ≤ pageOf (h.page * 65536 + h.pkt.addr % 65536 + 63))

/-- A page is a candidate for eviction (19 R463). -/
def State.candidate (s : State) (page : Nat) : Bool :=
  let l := s.leaf page
  l.v && l.tier == 0 && l.dur && !l.pin && !s.pageBusy page && !s.cutTargets page

/-- A plan has released a page (19 R463, R466). -/
def State.releasedPage (s : State) (page : Nat) : Bool :=
  s.store.released.contains page || s.plans.any fun e => match e.2 with | some x => x.releases page | none => false

/-- A page's plan step lies in the current window (19 R463, R467). -/
def State.windowPage (s : State) (page : Nat) : Bool :=
  s.plans.any fun e => match e.2 with
    | some x => x.entries.any fun y => x.inWindow y.step && y.holds page
    | none => false

/-- The class of a victim, lowest first (19 R463). -/
def State.victimClass (s : State) (page : Nat) : Nat := if s.releasedPage page then 1 else if s.windowPage page then 3 else 2

/-- A candidate's HBM copy is dropped: one map change, to the page's store page (19 R464). -/
def State.dropPage (s : State) (page : Nat) : State :=
  let s1 := s.setLeaf page { s.leaf page with tier := 2, frame := s.storePage page }
  { s1 with touched := s1.touched.erase page, store := { s1.store with released := s1.store.released.erase page } }

/-- How far a page's frame lies before the clock hand of its stack, which moves to higher frames (19 R463; log entry 91). -/
def State.handDistance (s : State) (page : Nat) : Nat :=
  let f := (s.leaf page).frame
  (f % 2 ^ 21 + dataPages - s.hands.get 0 (f / 2 ^ 21)) % dataPages

/-- Candidates of class 2 of a stack. -/
def State.clockPages (s : State) (stack : Nat) : List Nat :=
  (s.leaves.map (·.1)).filter fun g => (s.leaf g).frame / 2 ^ 21 == stack && s.candidate g && s.victimClass g == 2

/-- The page of a list that the hand reaches first. -/
def State.firstAtHand (s : State) (gs : List Nat) : Option Nat :=
  gs.foldl (fun o g => match o with
    | some h => if s.handDistance g < s.handDistance h then some g else o
    | none => some g) none

/-- The victim of the clock (19 R463; log entry 91): the first page of class 2 at the hand that was not accessed since the hand
last passed it, or the first one when all were. -/
def State.clockVictim (s : State) (stack : Nat) : Option Nat :=
  let gs := s.clockPages stack
  match s.firstAtHand (gs.filter fun g => !s.touched.contains g) with
  | some g => some g
  | none => s.firstAtHand gs

/-- The hand moves past a victim; the pages that it passes count as not accessed. -/
def State.moveHand (s : State) (page : Nat) : State :=
  let f := (s.leaf page).frame
  let all := (s.clockPages (f / 2 ^ 21)).all s.touched.contains
  let passed := (s.clockPages (f / 2 ^ 21)).filter fun g => all || decide (s.handDistance g < s.handDistance page)
  { s with touched := s.touched.filter (fun g => !passed.contains g)
           hands := s.hands.set 0 (f / 2 ^ 21) ((f % 2 ^ 21 + 1) % dataPages) }

/-- EVICT_PAGE (19 R463, R464): the engine evicts a candidate of the first class that its stack has, in class 2 the clock's. -/
def execEvictPage (page : Nat) (s : State) : Out :=
  let stack := (s.leaf page).frame / 2 ^ 21
  let better := s.leaves.any fun e =>
    e.2.frame / 2 ^ 21 == stack && s.candidate e.1 && decide (s.victimClass e.1 < s.victimClass page)
  if s.candidate page && !better && (s.victimClass page != 2 || s.clockVictim stack == some page) then
    .next ((if s.victimClass page = 2 then s.moveHand page else s).dropPage page)
  else .next s

/-- EVICT's issue faults (19 R470, 15 R397). -/
def evictFaults (e : Env) (s : State) : Option Flt := if aSlot e.a = 0 then some fltProt else jobFaults e s

/-- EVICT (19 R470). -/
def execEvict (f : RForm) (s : State) : Out := issue (viewR 0xDA f) (portEffect .evict modOf evictFaults) s

/-- EVICT at the residency engine (19 R470): the pages of the range that are candidates are dropped and counted. -/
def serveEvict : Server := fun _ r s =>
  if r.b = 0 then .word s 0
  else match s.resolveHandle (r.job.getD 0) r.a r.b.toNat with
    | .error x => .fail s x r
    | .ok w =>
      let last := pageOf (w + r.b.toNat - 1)
      let gone := (s.leaves.map (·.1)).filter fun g => decide (pageOf w ≤ g) && decide (g ≤ last) && s.candidate g
      .word (gone.foldl State.dropPage s) (put gone.length 0)

/-! ### Promotion (19 R461, R462, R480) -/

/-- The requests of units that wait for a page, with their units. -/
def State.reqsFor (s : State) (page : Nat) : List (Nat × Req) :=
  s.procs.flatMap fun e => (e.2.pending.filter fun r => r.miss == some page && r.stage == 0).map fun r => (e.1, r)

/-- The requests of copies that wait for a page, with their copies. -/
def State.copiesFor (s : State) (page : Nat) : List (Nat × Copy × CopyReq) :=
  s.dies.flatMap fun d => d.2.copies.flatMap fun e => match e.2 with
    | some c => (c.reqs.filter fun q => q.phase == .missing page).map fun q => (128 * d.1 + e.1, c, q)
    | none => []

/-- The requests of peers that wait for a page at this home. -/
def State.peersFor (s : State) (page : Nat) : List HomeReq :=
  s.fabric.homeq.filter fun h => h.pkt.ptype != 10 && (if h.flying then h.page == page else pageOf h.pkt.addr == page % 2 ^ 104)

/-- A page enters a frame of HBM: its 1,024 lines are written there (19 R461, R478). -/
def State.placePage (s : State) (page frame : Nat) : State :=
  let s1 := s.setLeaf page { s.leaf page with tier := 0, frame := frame, pin := false, pinJob := none }
  let s2 := s1.modDie (frame / 2 ^ 21) fun D => D.fillFrame frame
  { s2 with store := { s2.store with noFrame := s2.store.noFrame.erase page, failedOnce := s2.store.failedOnce.erase page
                                     released := s2.store.released.erase page } }

/-- A promotion that fails verification twice: the requests held for the page take INTEGRITY (19 R480; log entry 35). -/
def State.failPromotion (s : State) (page die : Nat) : State :=
  let s1 := (s.setLeaf page { s.leaf page with pin := false, pinJob := none }).logError die 3 1 (s.leaf page).frame
  let s2 := (s.reqsFor page).foldl (fun s x => s.holdReq x.1 { x.2 with miss := none } fltIntegrity) s1
  let s3 := (s.copiesFor page).foldl (fun s x => match s.copy x.1 with
    | some c => s.copyFault x.1 c x.2.2 ((c.farByteAt (8 * x.2.2.n + x.2.2.got.length)).getD 0) fltIntegrity
    | none => s) s2
  let gone := s.peersFor page
  let s4 := gone.foldl (fun s h => s.sendAnswer h.pkt 7 21 0 []) s3
  { s4 with fabric := { s4.fabric with homeq := s4.fabric.homeq.filter fun h => !gone.contains h }
            store := { s4.store with noFrame := s4.store.noFrame.erase page, failedOnce := s4.store.failedOnce.erase page } }

/-- Frames of a stack that hold a page. -/
def State.usedFrames (s : State) (d : Nat) : Nat :=
  s.leaves.countP fun e => e.2.v && e.2.tier == 0 && e.2.frame / 2 ^ 21 == d

/-- A promotion that waits because no frame can be freed posts one record (19 R462, R475). -/
def State.reportWait (s : State) (page die : Nat) : State :=
  let freeable := decide (s.usedFrames die < dataPages) ||
    s.leaves.any fun e => e.2.frame / 2 ^ 21 == die && s.candidate e.1
  if freeable || s.store.noFrame.contains page then s
  else
    let n := (s.reqsFor page).length + (s.copiesFor page).length + (s.peersFor page).length
    let job := (s.leaf page).pinJob.getD 0
    let w := page * 65536
    let s1 := s.postStore die 3 (die * 2 ^ 13 + job) n (wnLo w) (wnHi w)
    { s1 with store := { s1.store with noFrame := s1.store.noFrame ++ [page] } }

/-- A frame of a stack that no page holds. -/
def State.frameFree (s : State) (die frame : Nat) : Bool :=
  frame / 2 ^ 21 == die && decide (frame % 2 ^ 21 < dataPages) && !s.frameUsed frame

/-- A promotion whose page verifies: the page enters its frame; when it is the retry, the error is logged with severity 2
(19 R480, R483; log entry 35). -/
def State.promoteOk (s : State) (page die frame : Nat) : State :=
  let s1 := if s.store.failedOnce.contains page then s.logError die 3 2 (s.leaf page).frame else s
  s1.placePage page frame

/-- A promotion whose page fails verification is retried once (19 R480). -/
def State.promoteBad (s : State) (page die : Nat) : State :=
  if s.store.failedOnce.contains page then s.failPromotion page die
  else { s with store := { s.store with failedOnce := s.store.failedOnce ++ [page] } }

/-- PROMOTE (19 R461, R462, R480): a page whose promotion is pending enters a free frame of the stack of the die
whose miss set PIN. The requests held for it are retried by rows of their own. -/
def execPromote (page die frame : Nat) (verified : Bool) (s : State) : Out :=
  let l := s.leaf page
  if l.v = false ∨ l.tier ≠ 2 ∨ l.pin = false ∨ l.pinDie ≠ die then .next s
  else if s.frameFree die frame then
    .next (if s.frameBusy frame then s else if verified then s.promoteOk page die frame else s.promoteBad page die)
  else .next (s.reportWait page die)

/-! ### Prefetch plans (19 R466-R469) -/

/-- PLAN.LOAD's issue faults (19 R469, 15 R397). -/
def planFaults (e : Env) (s : State) : Option Flt :=
  match jobFaults e s with
  | some f => some f
  | none =>
    if fldN e.a 0 5 ≠ 0 ∨ fldN e.b 12 20 ≠ 0 ∨ fldN e.b 8 2 = 3 then some fltBounds
    else s.shortFault e.p (s.jobOf e.p e.c) e.a 32 .load

/-- PLAN.LOAD (19 R469). -/
def execPlanLoad (f : RForm) (s : State) : Out := issue (viewR 0xD9 f) (portEffect .planLoad modOf planFaults) s
/-- PLAN.STEP (19 R469). -/
def execPlanStep (f : RForm) (s : State) : Out := issue (viewR 0xD9 f) (portEffect .planStep modOf jobFaults) s
/-- PLAN.DROP (19 R469). -/
def execPlanDrop (f : RForm) (s : State) : Out := issue (viewR 0xD9 f) (portEffect .planDrop modOf jobFaults) s

/-- The header of a plan descriptor is as 19 R466 asks: its entry count. -/
def planCount (h : List Word) : Option Nat :=
  let w := h.getD 0 0
  let n := fldN w 0 32
  if fldN w 48 16 = 1 ∧ fldN w 32 16 = 0 ∧ 1 ≤ n ∧ n ≤ 4096 ∧ h.getD 1 0 = 0 ∧ h.getD 2 0 = 0 ∧ h.getD 3 0 = 0 then some n
  else none

/-- The entry in the four words from word `4 i` on. -/
def planEntry (ws : List Word) (i : Nat) : PlanEntry :=
  { start := pairWide (ws.getD (4 * i) 0) (ws.getD (4 * i + 1) 0), len := fldN (ws.getD (4 * i + 2) 0) 0 49,
    rel := bitOf (ws.getD (4 * i + 3) 0) 32, step := fldN (ws.getD (4 * i + 3) 0) 0 32 }

/-- An entry's words are as 19 R466 asks; `prev` is the step of the entry before. -/
def planEntryOk (ws : List Word) (i prev : Nat) : Bool :=
  let e := planEntry ws i
  fldN (ws.getD (4 * i + 2) 0) 49 15 == 0 && decide (1 ≤ e.len) && decide (e.len ≤ 2 ^ 48) &&
    fldN (ws.getD (4 * i + 3) 0) 33 31 == 0 && decide (prev ≤ e.step)

/-- The entries of a descriptor, none when one is malformed (19 R466). -/
def planEntries (ws : List Word) (n : Nat) : Option (List PlanEntry) :=
  if (List.range n).all fun i => planEntryOk ws i (if i = 0 then 0 else (planEntry ws (i - 1)).step) then
    some ((List.range n).map (planEntry ws))
  else none

/-- The plan that a PLAN.LOAD describes. -/
def planOf (p : Nat) (r : Req) (es : List PlanEntry) : Plan :=
  { entries := es, step := 0, ahead := fldN r.b 0 8, comp := fldN r.b 8 2, core := fldN r.b 10 2, die := dieOf p, proc := p,
    user := put (fldN r.b 32 32) 0, job := r.job.getD 0, got := [], posted := [] }

/-- Installs a plan under the lowest free number (19 R469). -/
def State.installPlan (s : State) (p : Nat) (r : Req) (es : List PlanEntry) : Served :=
  match (List.range 16).find? fun k => (s.plans.get none k).isNone with
  | none => .word s 0x8000000000000001
  | some k => .word { s with plans := s.plans.set none k (some (planOf p r es)) } (put k 0)

/-- PLAN.LOAD at the residency engine (19 R469). -/
def servePlanLoad : Server := fun p r s => s.viaDesc p r r.a 4 fun h r s =>
  match planCount h with
  | none => .fail s fltBounds r
  | some n =>
    let take (ws : List Word) (s : State) : Served :=
      match planEntries ws n with
      | none => .fail s fltBounds r
      | some es => s.installPlan p r es
    if r.wide ≠ 0 then
      s.readWords p r (r.wide + 32) (4 * n) 4 take
    else match s.shortFault p r.job r.a (32 + 32 * n) .load with
      | some f => .fail s f r
      | none => s.viaDesc p r (r.a + 32) (4 * n) (fun ws _ s => take ws s) 4

/-- A plan of a job by the operand of PLAN.STEP and PLAN.DROP (19 R469). -/
def State.planFor (s : State) (r : Req) : Option Plan :=
  if fldN r.a 4 60 ≠ 0 then none
  else match s.plans.get none (fldN r.a 0 4) with
    | some x => if x.job = r.job.getD 0 then some x else none
    | none => none

/-- PLAN.STEP at the residency engine (19 R469). -/
def servePlanStep : Server := fun _ r s =>
  match s.planFor r with
  | none => .word s 0x8000000000000002
  | some x => .word { s with plans := s.plans.set none (fldN r.a 0 4) (some { x with step := fldN r.b 0 32 }) } (put x.step 0)

/-- PLAN.DROP at the residency engine (19 R469). -/
def servePlanDrop : Server := fun _ r s =>
  match s.planFor r with
  | none => .word s 1
  | some _ => .word (s.dropPlan (fldN r.a 0 4)) 0

/-- What a page of a plan is to the engine: in HBM, to be promoted, or skipped (19 R467). -/
inductive PlanPage where
  | resident | due | skipped
  deriving DecidableEq, Repr

/-- What a page of a plan is to the engine (19 R467). -/
def State.planPage (s : State) (page : Nat) : PlanPage :=
  let l := s.leaf page
  let own := s.ownNode (pageNode page)
  let o := s.obj (pageSerial page)
  if own && (o.st == .deadPending || o.st == .reclaimed || o.st == .opened) then .skipped
  else if l.v && l.w then .skipped
  else if l.v && l.tier == 0 then .resident
  else if l.v && l.tier == 2 then .due
  else if own && !l.v && o.st == .durable && decide (pageIndex page * 65536 < o.size) then .due
  else .skipped

/-- The pages of an entry that answer to `k`. -/
def State.planPages (s : State) (e : PlanEntry) (k : PlanPage) : List Nat :=
  ((List.range e.pages.2).map (e.pages.1 + ·)).filter fun g => s.planPage g == k

/-- The next page the engine promotes for a plan, in entry order (19 R467). -/
def State.planNext (s : State) (x : Plan) : Option Nat :=
  (x.entries.filter fun e => x.inWindow e.step).findSome? fun e => (s.planPages e .due).head?

/-- The entries of a step. -/
def Plan.ofStep (x : Plan) (t : Nat) : List PlanEntry := x.entries.filter fun e => e.step == t

/-- Posts the completion of step `t` of plan `n` (19 R467, R469). -/
def State.postStep (s : State) (n t : Nat) (x : Plan) : State :=
  let es := x.ofStep t
  let skipped := (es.map fun e => (s.planPages e .skipped).length).sum
  let got := (es.map fun e => x.got.countP e.holds).sum
  let s1 : State := { s with plans := s.plans.set none n (some { x with posted := x.posted ++ [t] }) }
  if x.comp = 1 then
    s1.postEvent x.die x.core (put 0x13 56 ||| put n 52 ||| put (min skipped (2 ^ 16 - 1)) 32 ||| put t 0) x.user (put got 0)
  else s1.postEl x.proc 6 2 x.core (n * 2 ^ 44 + t)

/-- Posts the completions of plan `n` that are due, step by step (19 R467). -/
def State.postSteps (s : State) (n : Nat) (x : Plan) : State :=
  ((x.entries.map (·.step)).eraseDups).foldl (fun s t =>
    match s.plans.get none n with
    | none => s
    | some y =>
      if y.comp ≠ 0 ∧ y.inWindow t = true ∧ y.posted.contains t = false ∧
          (y.ofStep t).all (fun e => (s.planPages e .due).isEmpty) = true then s.postStep n t y
      else s) s

/-- PLAN_PREFETCH (19 R467): the next due page of a plan enters a free frame while no demand miss waits, without PIN, and the
completions that are due are posted. -/
def execPlanPrefetch (p page die frame : Nat) (s : State) : Out :=
  match s.plans.get none p with
  | none => .next s
  | some x =>
    let demand := s.leaves.any fun e => e.2.v && e.2.tier == 2 && e.2.pin
    let s1 :=
      if s.planNext x = some page ∧ demand = false ∧ s.frameFree die frame = true ∧ s.frameBusy frame = false then
        let t := match s.transPage page .load with | .ok y => y.1 | .error _ => s
        { t.placePage page frame with plans := s.plans.set none p (some { x with got := x.got ++ [page] }) }
      else s
    .next (s1.postSteps p x)

/-! ### Durability (19 R471-R474) -/

/-- Bytes the log and the staging buffer take for an object: its 64 KiB store pages (log entry 36). -/
def logBytes (size : Nat) : Nat := pagesIn size * 65536

/-- The staging buffer (19 R471). -/
def stagingSize : Nat := 2 ^ 31

/-- Objects freed before they are appended are never written further and hold nothing back (19 R471). -/
def State.skipDead (s : State) : State :=
  { s with store := { s.store with waiting := s.store.waiting.filter fun n => (s.obj n).st == .sealed } }

/-- Bytes of an object that the log has still to take. -/
def Obj.unlogged (o : Obj) : Nat := logBytes o.size - 65536 * o.pages.length

/-- APPEND_STOPPED (19 R472): the log cannot take the next object. -/
def State.stopIfFull (s : State) : State :=
  match s.store.waiting with
  | [] => s
  | n :: _ =>
    if s.store.stopped = false ∧ s.store.free < (s.obj n).unlogged then
      let s1 := s.postStore 0 0 0 s.store.waiting.length (put s.store.free 0) (put n 0)
      { s1 with store := { s1.store with stopped := true } }
    else s

/-- The first waiting object becomes DURABLE: DUR on every page first (19 R460, R471). -/
def State.makeDurable (s : State) (n : Nat) : State :=
  let s1 := s.markLeaves (wideNum s.nodeId n 0) fun l => { l with dur := true }
  let s2 := s1.setObj n { s1.obj n with st := .durable, stored := true }
  { s2 with store := { s2.store with waiting := s2.store.waiting.tail } }

/-- The store page that the log takes next: the first released one that `ok` allows, or the next that was never used
(log entry 36). -/
def Store.nextPage (x : Store) (ok : Nat → Bool) : Nat := (x.spare.find? ok).getD x.top

/-- Takes that page: its 1,024 lines get the next append positions, which are never reused (19 R480). -/
def Store.takePage (x : Store) (ok : Nat → Bool) : Store :=
  let g := x.nextPage ok
  { x with spare := x.spare.erase g, top := if x.spare.contains g then x.top else x.top + 1
           pos := x.pos.set 0 g x.nextPos, nextPos := x.nextPos + 1024 }

/-- Appends the next page of an object to the log, through the staging buffer (19 R471, R472). -/
def State.appendPage (s : State) (n : Nat) : State :=
  let x := s.store
  let s1 := s.setObj n { s.obj n with pages := (s.obj n).pages ++ [x.nextPage fun _ => true] }
  { s1 with store := { x.takePage (fun _ => true) with staging := x.staging + 65536, free := x.free - 65536 } }

/-- Appends the next page of the first waiting object when the staging buffer takes it; the object becomes DURABLE when all of
it lies in flash or, with enough hold-up energy, in the buffer (19 R471-R473). -/
def State.appendNext (s : State) : State :=
  match s.store.waiting with
  | [] => s
  | n :: _ =>
    if s.store.stopped then s
    else
      let s1 := if (s.obj n).unlogged = 0 ∨ stagingSize < s.store.staging + 65536 then s else s.appendPage n
      if (s1.obj n).unlogged = 0 ∧ (100 ≤ s1.store.holdup ∨ s1.store.staging = 0) then s1.makeDurable n else s1

/-- DURABLE_APPEND (19 R471-R473; nothing is appended in reduced service, 24 R537, nor with the store read-only, R536, R539). -/
def execDurableAppend (s : State) : Out :=
  if s.storeReadOnly then .next s else .next (s.skipDead.stopIfFull.appendNext)

/-- STAGING_BUFFER_WRITEBACK (19 R472), to a store mounted read-write (24 R536, R539). -/
def execStagingBufferWriteback (bytes : Nat) (s : State) : Out :=
  if s.storeReadOnly then .next s else
  let s1 : State := { s with store := { s.store with staging := s.store.staging - bytes } }
  .next s1.skipDead.stopIfFull

/-- A store page lies in a segment of the log (19 R474). -/
def inSegment (seg g : Nat) : Bool := g / Nat.max 1 Config.segmentPages == seg

/-- The live pages of a segment. -/
def State.livePages (s : State) (seg : Nat) : List Nat := s.objs.flatMap fun e => e.2.pages.filter (inSegment seg)

/-- New pages for the live pages of a segment, outside it, in order (19 R474, R480). -/
def Store.moveAll (seg : Nat) : Store → List Nat → List (Nat × Nat) × Store
  | x, [] => ([], x)
  | x, g :: gs =>
    let ok (h : Nat) : Bool := !inSegment seg h
    let r := moveAll seg (x.takePage ok) gs
    ((g, x.nextPage ok) :: r.1, r.2)

/-- Background compaction of a full segment with dead pages (19 R474): its live pages are rewritten at new append positions, the
TIER 2 entries name their new places, and the segment is released. -/
def State.compact (s : State) (seg : Nat) : State :=
  let live := s.livePages seg
  let gone := s.store.dead.filter (inSegment seg)
  let full := decide ((seg + 1) * Nat.max 1 Config.segmentPages ≤ s.store.top)
  if full = false ∨ gone = [] ∨ s.store.free < 65536 * live.length then s
  else
    let r := s.store.moveAll seg live
    let new (g : Nat) : Nat := ((r.1.find? fun y => y.1 == g).map (·.2)).getD g
    let s1 : State := { s with objs := s.objs.map fun e => (e.1, { e.2 with pages := e.2.pages.map new }) }
    { s1 with
      leaves := s1.leaves.map fun e =>
        if e.2.v && e.2.tier == 2 && s1.ownNode (pageNode e.1) then (e.1, { e.2 with frame := s1.storePage e.1 }) else e
      store := { r.2 with dead := s.store.dead.filter (fun g => !inSegment seg g), spare := r.2.spare ++ live ++ gone
                          free := r.2.free + 65536 * gone.length } }

/-- COMPACTION (19 R472, R474) of a store mounted read-write (24 R536, R539): a segment of the log is compacted, and appending
resumes once the next object fits. -/
def execCompaction (seg : Nat) (s : State) : Out :=
  if s.storeReadOnly then .next s else
  let s1 := s.skipDead.compact seg
  let need := match s1.store.waiting with | [] => 0 | n :: _ => (s1.obj n).unlogged
  if s1.store.stopped = true ∧ need ≤ s1.store.free then
    let s2 := s1.postStore 0 1 0 s1.store.waiting.length (put s1.store.free 0) (put (s1.store.waiting.headD 0) 0)
    .next { s2 with store := { s2.store with stopped := false } }
  else .next s1.stopIfFull

/-- HOLDUP_LOW (19 R473, R475): reported once until the level is regained. -/
def execHoldupLow (pct : Nat) (s : State) : Out :=
  if 100 ≤ pct then .next s
  else
    let s1 : State := { s with store := { s.store with holdup := pct, lowPosted := true } }
    .next (if s.store.lowPosted then s1 else s1.postStore 0 2 0 pct (put s.store.staging 0) 0)

/-- HOLDUP_REGAINED (19 R473). -/
def execHoldupRegained (pct : Nat) (s : State) : Out :=
  if pct < 100 then .next s else .next { s with store := { s.store with holdup := 100, lowPosted := false } }

/-! ### A cold start's reset -/

/-- An object after the next store mount (19 R473). -/
def Obj.mounted (o : Obj) : Obj :=
  match o.st with
  | .durable | .unissued => o
  | _ => { o with st := .reclaimed, pages := [], stored := false }

/-- The store after the next mount (19 R473): only what is DURABLE lies in the log. -/
def Store.mounted (objs : KMap Obj) (x : Store) : Store :=
  { x with
    waiting := [], noFrame := [], failedOnce := [], released := [], stopped := false
    dead := x.dead ++ objs.flatMap fun o => if o.2.st = .durable then [] else o.2.pages }

/-- BOOTCAUSE once a start that has not come to the end of stage 1 is counted (24 R540). -/
def State.countStart (s : State) : Word :=
  let w := s.pkgReg 1081
  if s.pkgReg 1082 = 1 ∧ s.minimal = false then
    (w &&& 0xFFFFFFFF00000000) ||| put (min (fldN w 0 32 + 1) (2 ^ 32 - 1)) 0
  else w

/-- What a cold start begins from: every register and memory at reset, but for the objects of the store, the serials, BOOTCAUSE
and the words of the images written (19 R473, 24 R536, R540); a start that is broken off in stage 1 is counted; the time counter runs on, as it never moves backward (00 R9). -/
def State.coldReset (s : State) : State :=
  let keep (a : Nat) : Bool :=
    decide (2 ^ 40 ≤ a) && wnNode (a - 2 ^ 40) == s.nodeId && (s.obj (wnSerial (a - 2 ^ 40))).st == .durable
  { State.reset with
    mem := s.mem.filter fun c => keep c.1
    objs := s.objs.map fun e => (e.1, e.2.mounted)
    nextSerial := Nat.max s.nextSerial s.highWater, highWater := s.highWater
    store := s.store.mounted s.objs
    regs := regsReset.set 0 1081 s.countStart
    agenda := s.agenda, choice := s.choice, fresh := s.fresh, firmware := s.firmware, powered := s.powered
    tai := s.tai, time := s.time, mbox := { State.reset.mbox with raised := s.mbox.raised } }

/-- Power is lost: the hold-up energy writes the staging buffer to flash (19 R473), and the time counter is lost (log entry 30). -/
def State.losePower (s : State) : State :=
  let t := s.coldReset
  { t with store := { t.store with staging := 0 }, powered := false, tai := 0, time := State.reset.time }

/-- POWER_LOSS (19 R473). -/
def execPowerLoss (s : State) : Out := .next s.losePower

end Sys2Proof.Machine
end

