-- ==== Sys2Proof/Machine/Upkeep.lean ====
section
/-! DEFINITION. Upkeep of a die and of the package: the counter tree and the scrubber (19 R477, R478, R481-R483), the time base
(19 R484, R485) and the power controller (15 R411). -/

namespace Sys2Proof.Machine

/-! ### The counter tree (19 R477, R478) -/

/-- COUNTER_REENCRYPT (19 R478): the 64 lines of a block are re-encrypted, and accesses to them go on. -/
def execCounterReencrypt (d blk : Nat) (s : State) : Out :=
  .next (s.modDie d fun D => { D with wrapped := D.wrapped.filter (· != blk) })

/-- COUNTER_WRITEBACK (19 R478): the counter of a written-back block, in the block above, increments, and the cache keeps to its
size. -/
def execCounterWriteback (d blk : Nat) (s : State) : Out :=
  if (s.die d).dirtyBlk.contains blk then .next (s.modDie d fun D => (D.writeBack blk).trim trimSteps) else .next s

/-! ### The scrubber (19 R481-R483) -/

/-- Lines of a stack, data and counter blocks alike (19 R457, R481). -/
def stackLines : Nat := 1310720 * 1024

/-- The pass period of a die in cycles of the clock (19 R483). -/
def State.passCycles (s : State) (d : Nat) : Nat := Nat.max 1 (fldN (s.ctlReg d 1088) 48 16) * 5400000000000

/-- SCRUBSTAT with its three fields (19 R483). -/
def scrubWord (lines level passes : Nat) : Word := put lines 32 ||| put level 16 ||| put (passes % 2 ^ 16) 0

/-- The end of a pass: it is counted, and logged with class 5 when it is late (19 R482, R483). -/
def State.endPass (s : State) (d : Nat) : State :=
  let w := s.ctlReg d 1089
  let late := decide ((s.die d).scrubStart + s.passCycles d < s.cycle)
  let s1 := (s.setCtlReg d 1089 (scrubWord 0 (fldN w 16 2) (fldN w 0 16 + 1))).modDie d fun D => { D with scrubStart := s.cycle }
  if late then s1.logError d 5 0 0 else s1

/-- The counter block that a line of the counter region holds (19 R477; log entry 37). -/
def lineBlock (line : Nat) : Option Nat :=
  (List.range (counterLevels + 1)).findSome? fun k =>
    if levelLine k ≤ line ∧ line < levelLine k + blockCount k then some (k * 2 ^ 32 + (line - levelLine k)) else none

/-- THRESH as it acts: 1 to 64, doubled at level 1 (19 R482, R483). -/
def scrubThresh (ctl : Word) (level : Nat) : Nat :=
  let n := fldN ctl 8 8
  if level = 1 then min (2 * n) 64 else n

/-- The scrubber may issue a read: the queue of the memory controller is short enough, or at level 2, 256 cycles have passed
since its last read (19 R481, R482; log entry 89). -/
def State.scrubMay (s : State) (d : Nat) : Bool :=
  let level := fldN (s.ctlReg d 1089) 16 2
  if level = 2 then decide ((s.die d).scrubAt + 256 ≤ s.cycle)
  else decide (Config.queueOccupancy (8 * s.cycle + d) % 65 < scrubThresh (s.ctlReg d 1088) level)

/-- The page whose frame holds a line of a stack. -/
def State.pageAt (s : State) (d line : Nat) : Option Nat :=
  (s.leaves.find? fun e => e.2.v && e.2.tier == 0 && e.2.frame == d * 2 ^ 21 + line / 1024).map (·.1)

/-- The scrubber finds an error that its ECC cannot correct: a counter block is logged, and a line is dealt with as R479 states
(19 R479, R481; log entry 89). -/
def State.scrubBad (s : State) (d line : Nat) : State :=
  match lineBlock line with
  | some b => if (s.die d).badBlk.contains b then s.logError d 2 1 line else s
  | none =>
    if (s.die d).poison.any fun k => k / 8 == line then
      match s.pageAt d line with
      | some g =>
        let w := g * 65536 + line % 1024 * 64
        if (s.leaf g).dur && !(s.leaf g).pin then s.refetch w else s.poisonLine w
      | none => s.logError d 0 1 line
    else s

/-- The scrubber reads the next line of its pass; one with a correctable error is logged, and its corrected data is to be
written back (19 R481). -/
def State.scrubLine (s : State) (d : Nat) (flaw : Bool) : State :=
  let w := s.ctlReg d 1089
  let line := fldN w 32 32
  let s1 := s.scrubBad d line
  let s2 := if flaw then
      (s1.modDie d fun D => { D with scrubW := some line }).logError d (if (lineBlock line).isSome then 2 else 0) 0 line
    else s1
  let s3 := (s2.setCtlReg d 1089 (scrubWord (line + 1) (fldN w 16 2) (fldN w 0 16))).modDie d fun D =>
    { D with scrubAt := s.cycle }
  if stackLines ≤ line + 1 then s3.endPass d else s3

/-- The corrected data of a line is written back, as no other write reached it (19 R481): a data line's counter increments. -/
def Die.scrubWrite (D : Die) (line : Nat) : Die :=
  if line < dataPages * 1024 then D.bumpLine line else { D with scrubW := none }

/-- SCRUB_READ (19 R481): the write that is due, once no re-encryption of its block goes on (R478), or else the next read of the
pass. -/
def execScrubRead (d : Nat) (flaw : Bool) (s : State) : Out :=
  if bitOf (s.ctlReg d 1088) 0 = false then .next s
  else match (s.die d).scrubW with
    | some line =>
      .next (if line < dataPages * 1024 ∧ (s.die d).wrapped.contains (line / 64) = true then s
        else s.modDie d fun D => D.scrubWrite line)
    | none => .next (if s.scrubMay d then s.scrubLine d flaw else s)

/-- The escalator's level: `g` of `total` lines done, `c` of `period` cycles gone (19 R482). -/
def scrubLevelOf (old g total c period : Nat) : Nat :=
  if c * total ≤ g * period then 0
  else if 8 * g * period + total * period < 8 * c * total then 2
  else if 16 * g * period + total * period < 16 * c * total then 1
  else min old 1

/-- SCRUB_LEVEL (19 R482). -/
def execScrubLevel (d : Nat) (s : State) : Out :=
  let w := s.ctlReg d 1089
  let lvl := scrubLevelOf (fldN w 16 2) (fldN w 32 32) stackLines (s.cycle - (s.die d).scrubStart) (s.passCycles d)
  .next (s.setCtlReg d 1089 (scrubWord (fldN w 32 32) lvl (fldN w 0 16)))

/-! ### The time base (19 R484, R485) -/

/-- LOCK of TIMESTAT. -/
def State.lock (s : State) : Nat := fldN (s.pkgReg 1091) 0 2

/-- A record of type 0x16: cause 0 a change of LOCK, 1 a step of `step` ns (19 R485). -/
def State.postTime (s : State) (cause step : Nat) : State :=
  let off := (fld (s.pkgReg 1091) 32 32).signExtend 64
  s.postEvent 0 0 (put 0x16 56 ||| put s.lock 48 ||| put cause 40) (put step 0) off

/-- LOCK becomes `l`; a change is posted (19 R485). -/
def State.setLock (s : State) (l : Nat) : State :=
  if s.lock = l then s
  else (s.setPkgReg 1091 ((s.pkgReg 1091 &&& ~~~3) ||| put (l % 4) 0)).postTime 0 0

/-- PTP_MESSAGE (19 R484): the time unit hears of a master, and acquires or is locked. -/
def execPtpMessage (_link : Nat) (locked : Bool) (s : State) : Out := .next (s.setLock (if locked then 2 else 1))

/-- A signed number of nanoseconds in OFFSET's 32 bits, saturating (19 R485). -/
def satOffset (n : Int) : Nat :=
  (BitVec.ofInt 32 (if n < -(2 ^ 31) then -(2 ^ 31) else if n > 2 ^ 31 - 1 then 2 ^ 31 - 1 else n)).toNat

/-- The correction of a measured offset (19 R485): slewed, unless it moves the counter forward by 1 µs or more. -/
def State.correct (s : State) (ns : Int) : State :=
  if ns < 1000 then { s with time := { s.time with slew := 3000 * ns } }
  else
    let s1 : State := { s with tai := s.tai + BitVec.ofInt 64 ns, time := { s.time with slew := 0 } }
    s1.postTime 1 ns.toNat

/-- TIME_CORRECTION (19 R485): the offset from the master is this counter's lead over it (log entry 38). -/
def execTimeCorrection (offset : Int) (lock : Nat) (s : State) : Out :=
  let s1 := s.setPkgReg 1091 ((s.pkgReg 1091 &&& 3) ||| put (satOffset offset) 32)
  .next ((s1.setLock (lock % 4)).correct (-offset))

/-- TIME_FAILOVER (19 R484): port die 1's time unit takes over without a step. -/
def execTimeFailover (s : State) : Out := .next { s with time := { s.time with active := 1 } }

/-- LOCK_HOLDOVER (19 R485): the master is lost. -/
def execLockHoldover (s : State) : Out := .next (if s.lock = 0 then s else s.setLock 3)

/-! ### The power controller (15 R411) -/

/-- POWER_CONTROLLER_WRITE (15 R411): a write of AGTHR or TASKTHR. -/
def execPowerControllerWrite (d reg : Nat) (val : Word) (s : State) : Out :=
  if 1056 ≤ reg ∧ reg ≤ 1072 then .next (s.setCtlReg d reg (val &&& 0xFFFFFFFF)) else .next s

end Sys2Proof.Machine
end

