-- ==== Sys2Proof/Machine/Bringup.lean ====
section
/-! DEFINITION. Bring-up, modes and housekeeping (24): the start stages, MODE, heat and power, and the management mailbox. -/

namespace Sys2Proof.Machine

/-! ### MODE (24 R541, R542) -/

/-- A store to MODE has four parts, one for each row; it is acknowledged when all are done. -/
def State.modePart (s : State) (p : Nat) (r : Req) (part : Nat) (t : State) : State :=
  if r.stage / part % 2 = 1 then s
  else if r.stage + part = 15 then t.ctlDone p r
  else t.parkReq p { r with stage := r.stage + part }

/-- Some die holds a job with V = 1 (24 R541). -/
def State.anyJob (s : State) : Bool := (List.range 8).any fun d => (List.range 256).any fun j => bitOf (s.ctlReg d (4 * j)) 0

/-- MODE with bit `i` written. -/
def State.setModeBit (s : State) (i : Nat) (v : Bool) : State :=
  s.setPkgReg 1080 ((s.pkgReg 1080 &&& ~~~(1#64 <<< i)) ||| put (if v then 1 else 0) i)

/-- A write of SECURE, SNAPSHOT or DEBUG: ignored while any die holds a job (24 R541). -/
def State.modeBitPart (s : State) (p k bit part : Nat) : Out :=
  match s.ctlStore p k with
  | none => .next s
  | some (r, n) =>
    if n = 1080 then .next (s.modePart p r part (if s.anyJob then s else s.setModeBit bit (bitOf r.b bit))) else .next s

/-- MODE_SECURE_WRITE (24 R541). -/
def execModeSecureWrite (p k : Nat) (s : State) : Out := s.modeBitPart p k 0 1
/-- CDIRTY holds 0 in every cluster while SNAPSHOT mode is off (16 R436). -/
def State.clearCdirty (s : State) : State :=
  if s.snapshotMode then s else (s.clusters.map (·.1)).foldl (fun s cl => s.modCluster cl fun C => { C with cdirty := 0 }) s

/-- MODE_SNAPSHOT_WRITE (16 R436, 24 R541). -/
def execModeSnapshotWrite (p k : Nat) (s : State) : Out :=
  match s.modeBitPart p k 1 2 with
  | .next t => .next t.clearCdirty
  | x => x
/-- MODE_DEBUG_WRITE (24 R541). -/
def execModeDebugWrite (p k : Nat) (s : State) : Out := s.modeBitPart p k 2 4

/-- THROTTLE becomes `n`: every island whose POINT is below it is raised to it (24 R542), unless MINIMAL takes its effect away
(R543). -/
def State.setThrottle (s : State) (n : Nat) : State :=
  let s1 := s.setPkgReg 1080 ((s.pkgReg 1080 &&& ~~~0x30) ||| put (n % 4) 4)
  if s1.minimal then s1
  else (List.range 256).foldl (fun s cl =>
    if fldN (s.ctlReg (cl / 32) (1024 + cl % 32)) 0 3 < n % 4 then s.setIsland (cl / 32) (cl % 32) (n % 4) else s) s1

/-- MODE_THROTTLE_WRITE (24 R541, R542): while heat forces level 3, the level written is the one restored (R544; log
entry 42). -/
def execModeThrottleWrite (p k : Nat) (s : State) : Out :=
  match s.ctlStore p k with
  | none => .next s
  | some (r, n) =>
    if n = 1080 then
      .next (s.modePart p r 8 (match s.thermal with
        | some _ => { s with thermal := some (fld r.b 4 2) }
        | none => s.setThrottle (fldN r.b 4 2)))
    else .next s

/-! ### Start stages (24 R536-R540) -/

/-- BOOTSTAGE (24 R536). -/
def State.bootStage (s : State) : Nat := (s.pkgReg 1082).toNat
/-- FAILS of BOOTCAUSE (24 R540). -/
def State.fails (s : State) : Nat := fldN (s.pkgReg 1081) 56 8

/-- BOOTCAUSE with its fields (24 R540). -/
def bootWord (fails stage reason dies boots : Nat) : Word :=
  put fails 56 ||| put stage 48 ||| put reason 40 ||| put dies 32 ||| put boots 0

/-- The dies that have failed in this start. -/
def State.failedDies (s : State) : Nat := ((List.range 8).map fun d => if (s.die d).failed then 2 ^ d else 0).sum

/-- The next stage begins. -/
def State.enterStage (s : State) (n : Nat) : State := { s.setPkgReg 1082 (put n 0) with stageStart := s.cycle }

/-- A new start with the power on (24 R536, R538): heat and power stand as they are, and THROTTLE stays forced by heat (R544). -/
def State.newStart (s : State) : State :=
  let t := s.coldReset.setPkgReg 1083 (s.pkgReg 1083)
  if s.thermal.isSome then ({ t with thermal := some 0 } : State).setThrottle 3 else t

/-- A unit of control core 0 of a die. -/
def isCore0 (p : Nat) : Bool := 4096 ≤ p && p < 4128 && p % 4 == 0

/-- Minimal mode (24 R539): only core 0 of each die, with its local memory, and the store are in service. -/
def State.enterMinimal (s : State) : State :=
  let t := s.coldReset
  let lm := s.mem.filter fun c => decide (2 ^ 30 ≤ c.1) && decide (c.1 < 2 ^ 40) && (c.1 - 2 ^ 30) / 2 ^ 18 % 4 == 0
  let t1 : State := { t with procs := s.procs.filter (fun e => isCore0 e.1), mem := lm ++ t.mem, tai := s.tai, time := s.time,
                             cycle := s.cycle, thermal := s.thermal }
  ((t1.setPkgReg 1082 (s.pkgReg 1082)).setPkgReg 1083 (s.pkgReg 1083)).setPkgReg 1080 (s.pkgReg 1080 ||| 0x80)

/-- A start fails (24 R538, R540): BOOTCAUSE takes the stage and the reason, and a new start or minimal mode follows. -/
def State.failStart (s : State) (reason : Nat) : State :=
  let n := min 3 (s.fails + 1)
  let s1 := s.setPkgReg 1081 (bootWord n s.bootStage reason s.failedDies (fldN (s.pkgReg 1081) 0 32))
  if n < 3 then s1.newStart else s1.enterMinimal

/-- An element of a failed die: what it held and awaited is gone. -/
def failedElement (P : Proc) : Proc := { releaseElement P with reqs := [], parked := [], held := [], taskOut := [] }

/-- A failed die holds no region (24 R537): each one is cancelled as at graph level, and FREE at once (log entry 112). -/
def State.emptyDie (s : State) (d : Nat) : State :=
  (List.range 64).foldl (fun s g =>
    if (s.region d g).st = .free then s
    else
      let es := (s.region d g).elems
      let s1 := ((s.cancelLevel d (cKey 2 0 g)).flushWindows d g).vacate d g
      let s2 := (es.foldl (fun s e => s.modProc e failedElement) s1).modRegion d g fun _ => Region.reset
      if (s2.counter d (cKey 2 0 g)).isOpen then s2.closeCounter d (cKey 2 0 g) 2 else s2) s

/-- The dies of a mask fail. -/
def State.failDies (s : State) (mask : Nat) : State :=
  (List.range 8).foldl (fun s d =>
    if mask.testBit d then (s.emptyDie d).modDie d fun D => { D with failed := true } else s) s

/-- Every die has failed. -/
def State.noDie (s : State) : Bool := (List.range 8).all fun d => (s.die d).failed

/-- The firmware's control-core section enters the local memory of every core of a die, and core 0 starts (15 R392). -/
def State.startDie (s : State) (d : Nat) : State :=
  let bytes := (s.firmware.flatMap (bytesOf 8)).take (2 ^ 18)
  let s1 := (List.range 4).foldl (fun s c => s.mwrite (localKey (coreUnit d c) 0) bytes) s
  s1.modCtx (coreUnit d 0) 0 fun C => { C with rstate := .run, pc := 0, ctxjob := 0 }

/-- Islands of a die that gives reduced service run at POINT 2, or at the lower point that THROTTLE asks for (24 R537, R543). -/
def State.reduceDie (s : State) (d : Nat) : State :=
  (List.range 32).foldl (fun s c => s.setCtlReg d (1024 + c) (put (Nat.max 2 s.throttleLevel) 0)) s

/-- Stage 7 completes (24 R537, R538, R540, R545; 22 R513). -/
def State.finishStart (s : State) : State :=
  let node := match s.store.node with | some n => (s.pkgReg 1104 &&& 0x100) ||| put n 0 | none => s.pkgReg 1104
  let w := s.pkgReg 1081
  let s1 := s.setPkgReg 1104 node
  let s2 := s1.setPkgReg 1081 (bootWord 0 (fldN w 48 8) 0 s.failedDies (fldN w 0 32))
  let s3 := (s2.setPkgReg 1080 (s2.pkgReg 1080 &&& ~~~0x40)).enterStage 8
  { s3 with mbox := { s3.mbox with command := 0, status := 1 } }

/-- The end of the stage in progress with its work done (24 R536): the root of trust has verified `firmware`, the dies of `mask` have
failed their training or test, the time unit has locked. -/
def State.stageDone (s : State) (mask : Nat) (firmware : List Word) (locked : Bool) : State :=
  match s.bootStage with
  | 1 => ({ s.setPkgReg 1081 s.countStart with firmware := firmware } : State).enterStage 2
  | 2 => ((List.range 8).foldl State.startDie { s with measured := s.firmware }).enterStage 3
  | 3 => (s.failDies mask).enterStage 4
  | 4 =>
    let s1 := s.failDies mask
    if s1.noDie then s1.failStart 3
    else ((List.range 8).foldl (fun s d => if (s.die d).failed then s else s.reduceDie d) s1).enterStage 5
  | 5 => s.enterStage 6
  | 6 => if locked then (s.setLock 2).enterStage 7 else s
  | 7 => s.finishStart
  | _ => s

/-- A stage fails for this reason (24 R536, R540): stages 3, 4 and 6 have no such failure. -/
def failsFor (stage reason : Nat) : Bool := [(1, 1), (2, 2), (5, 4), (7, 5)].contains (stage, reason)

/-- COLD_START (24 R536-R540): power comes back, or the stage in progress ends. -/
def execColdStart (result : StageResult) (s : State) : Out :=
  if s.powered = false then
    let s1 : State := { s with powered := true }
    .next (if s.fails = 3 then s1.setPkgReg 1080 (s1.pkgReg 1080 ||| 0x80) else s1)
  else if s.minimal ∨ 7 < s.bootStage then .next s
  else match result with
    | .done mask firmware locked => .next (s.stageDone mask.toNat firmware locked)
    | .failed reason => .next (if failsFor s.bootStage reason.toNat then s.failStart reason.toNat else s)

/-- Limit of a stage in cycles of the 1.5 GHz clock (24 R536, 00 R3): no correction of the time counter moves it. -/
def stageLimit (n : Nat) : Nat :=
  (match n with | 1 => 5 | 2 => 2 | 3 => 30 | 4 => 20 | 5 => 10 | 6 => 120 | _ => 60) * 1500000000

/-- STAGE_TIMEOUT (24 R536): the dies whose training or test was not done fail in stages 3 and 4; stage 6 counts as completed
with LOCK 1; any other stage fails the start. -/
def execStageTimeout (failedDies : BitVec 8) (s : State) : Out :=
  let n := s.bootStage
  if s.minimal ∨ 7 < n ∨ s.cycle < s.stageStart + stageLimit n then .next s
  else match n with
    | 3 => .next (s.stageDone failedDies.toNat [] false)
    | 4 =>
      let s1 := s.failDies failedDies.toNat
      .next (if s1.noDie then s1.failStart 6 else s1.stageDone 0 [] false)
    | 6 =>
      let s1 := s.setPkgReg 1091 ((s.pkgReg 1091 &&& ~~~3) ||| 1)
      .next ((s1.postTime 0 0).enterStage 7)
    | _ => .next (s.failStart 6)

/-! ### Heat (24 R544) -/

/-- A thermal trip removes power; during a start it is a failure of the start (24 R540, R544). -/
def State.thermalTrip (s : State) : State :=
  let s1 := if s.minimal ∨ 7 < s.bootStage then s
    else s.setPkgReg 1081 (bootWord (min 3 (s.fails + 1)) s.bootStage 7 s.failedDies (fldN (s.pkgReg 1081) 0 32))
  s1.losePower

/-- THERMAL_EVENT (24 R544): POWERSTAT shows the figures; 105 °C forces THROTTLE to 3, below 95 °C it is restored, 115 °C
removes power. -/
def execThermalEvent (celsius watts : Nat) (s : State) : Out :=
  let s1 := s.setPkgReg 1083 (put (min watts 65535) 16 ||| put (min celsius 255) 0)
  if 115 ≤ celsius then .next s1.thermalTrip
  else if 105 ≤ celsius then
    .next (match s1.thermal with
      | some _ => s1
      | none => ({ s1 with thermal := some (fld (s1.pkgReg 1080) 4 2) } : State).setThrottle 3)
  else if celsius < 95 then
    .next (match s1.thermal with
      | some l => ({ s1 with thermal := none } : State).setThrottle l.toNat
      | none => s1)
  else .next s1

/-! ### The management mailbox (24 R545) -/

/-- A command ends with a status, and words of its payload from the first on; MSI-X vector 0 is raised. -/
def State.mboxEnd (s : State) (status : Word) (ws : List Word) : State :=
  { s with mbox := { s.mbox with status := status, raised := s.mbox.raised + 1
                                 payload := ws.zipIdx.foldl (fun m x => m.set 0 x.2 x.1) s.mbox.payload } }

/-- The host writes a command word, which starts the command, or the command in progress ends as `f` says. A command written while
one runs is ignored (log entry 113). -/
def State.mboxDo (s : State) (code : Word) (f : State → State) : State :=
  if s.mbox.status ≠ 0 then { s with mbox := { s.mbox with command := code, status := 0 } }
  else if s.mbox.command = code then f s else s

/-- MBOX_NOP (24 R545): done at once. -/
def execMboxNop (s : State) : Out :=
  .next (if s.mbox.status = 0 then s else ({ s with mbox := { s.mbox with command := 0 } } : State).mboxEnd 1 [])
/-- MBOX_READBOOT (24 R545). -/
def execMboxReadboot (s : State) : Out :=
  .next (s.mboxDo 1 fun s => s.mboxEnd 1 [s.pkgReg 1081, s.pkgReg 1082, s.pkgReg 1080, s.pkgReg 1083])
/-- MBOX_RESTART (24 R538, R539, R545): every job is removed and a cold start begins. -/
def execMboxRestart (s : State) : Out := .next (s.mboxDo 2 fun s => (s.mboxEnd 1 []).newStart)
/-- MBOX_CLEARFAIL (24 R545). -/
def execMboxClearfail (s : State) : Out :=
  .next (s.mboxDo 3 fun s =>
    if s.minimal then (s.setPkgReg 1081 (s.pkgReg 1081 &&& 0x00FFFFFFFFFFFFFF)).mboxEnd 1 [] else s.mboxEnd 2 [])
/-- MBOX_MEASURE (22 R525, 24 R545). -/
def execMboxMeasure (s : State) : Out :=
  .next (s.mboxDo 4 fun s => s.mboxEnd 1 ((List.range 8).map (Config.measurement s.measured)))
/-- MBOX_REFUSED (24 R545). -/
def execMboxRefused (code : Word) (s : State) : Out :=
  .next (if 5 ≤ code.toNat then s.mboxDo code fun s => s.mboxEnd 2 [] else s)

end Sys2Proof.Machine
end

