-- ==== Sys2Proof/Machine/Home.lean ====
section
/-! DEFINITION. The home of a page or an object: how it translates, performs, forwards or rejects the request of a peer
(22 R512, R514, R515, R517, R547). -/

namespace Sys2Proof.Machine

/-- How a peer's request ends at its home: answered, forwarded or rejected, or waiting as it stands then. -/
inductive HomeStep where
  | done (s : State)
  | wait (s : State) (h : HomeReq)

/-- A request packet (22 R512): all but responses, acknowledgements and rejects. -/
def isRequest (k : Packet) : Bool := k.ptype < 5 || (8 ≤ k.ptype && k.ptype ≤ 10)

/-- The words of some bytes, the last one padded with zeros. -/
def wordsOfBytes (bs : List Byte) : List Word := (List.range ((bs.length + 7) / 8)).map fun i => wordOf ((bs.drop (8 * i)).take 8)

/-- A reject with a fault code (22 R515). -/
def State.reject (s : State) (k : Packet) (code : Nat) : State := s.sendAnswer k 7 code 0 []

/-- DTAG of the job that a page names, on the die of its frame or of its object's stack (22 R514); 0 for a page of which nothing
is here, and of an object never issued. -/
def State.pageTag (s : State) (page : Nat) : BitVec 16 :=
  let l := s.leaf page
  let o := s.obj (pageSerial page)
  if l.v && l.tier == 0 then s.dtag (l.frame / 2 ^ 21) l.job
  else if s.ownNode (pageNode page) = false ∨ o.st = .unissued then 0
  else s.dtag o.die (if l.v then l.job else o.job)

/-- The page that ADDR names here. ADDR carries no NODE (22 R509): the page is this node's own when its DTAG matches, else a
page of another node held here whose DTAG matches (log entry 39). -/
def State.pageFor (s : State) (k : Packet) : Nat :=
  let low := k.addr / 65536 % 2 ^ 104
  let own := s.nodeId * 2 ^ 104 + low
  if s.pageTag own = k.dtag then own
  else match s.leaves.find? fun e => e.1 % 2 ^ 104 == low && e.1 != own && e.2.v && s.pageTag e.1 == k.dtag with
    | some e => e.1
    | none => own

/-- How the home accesses the bytes of a request (22 R509). -/
def homeAcc (k : Packet) : Acc := match k.ptype with | 0 => .load | 1 | 2 => .store | _ => .atomic

/-- Bytes a request accesses. -/
def homeLen (k : Packet) : Nat := match k.ptype with | 3 => atomLen k.op | 4 => 8 | _ => k.len

/-- Bytes of one performance of a request of `len` bytes at `w` (20 R490): the whole of an access that 07 R232 makes single-copy
atomic, an aligned word of several, else a byte. -/
def homeGran (w len : Nat) : Nat :=
  if [1, 2, 4, 8].contains len && w % len == 0 then len else if w % 8 = 0 ∧ len % 8 = 0 then 8 else 1

/-- Performance `h.data.length` of a read or write of a peer, in HBM; after the last one it is answered (22 R512, R515; 20 R490). -/
def State.homePart (s : State) (h : HomeReq) (w : Nat) : HomeStep :=
  let k := h.pkt
  let n := homeGran w k.len
  let a := w + n * h.data.length
  if k.ptype = 0 then
    let ws := h.data ++ [wordOf (s.mread (wideKey a) n)]
    if k.len ≤ n * ws.length then .done (s.sendAnswer k 5 0 k.len (wordsOfBytes ((ws.flatMap (bytesOf n)).take k.len)))
    else .wait s { h with data := ws }
  else
    let bs := (((k.payload.flatMap (bytesOf 8)).take k.len).drop (n * h.data.length)).take n
    let s1 := if k.len = 64 ∧ w % 64 = 0 then s.hwriteLine a bs else s.hwrite a bs
    if k.len ≤ n * (h.data.length + 1) then .done (s1.sendAnswer k 6 0 0 []) else .wait s1 { h with data := h.data ++ [0] }

/-- A request is performed in HBM and answered (22 R512, R515, R517): a read, an atomic or a CAS by a response, a write by an
acknowledgement. -/
def State.homePerform (s : State) (h : HomeReq) (w : Nat) : HomeStep :=
  let k := h.pkt
  let a := wideKey w
  match k.ptype with
  | 3 =>
    let x := s.atomAt a k.op (k.payload.getD 0 0)
    .done (x.2.sendAnswer k 5 0 8 [x.1])
  | 4 =>
    let old := s.mword a
    .done ((if old = k.payload.getD 0 0 then s.writeKey a (bytesOf 8 (k.payload.getD 1 0)) else s).sendAnswer k 5 0 8 [old])
  | _ => s.homePart h w

/-- A request that meets a page which has left its home is forwarded once to the holder (22 R515). -/
def State.forward (s : State) (h : HomeReq) (n : Nat) : HomeStep :=
  let k := h.pkt
  if s.isMember n = false then .done (s.reject k fltDomain.code)
  else if s.mayPacket n = false then .wait s h
  else
    let x := s.sendRequest n k.ptype k.op k.len k.addr k.dtag k.payload
    .done { x.2 with fabric := { x.2.fabric with forwards := x.2.fabric.forwards ++ [(x.1, n, false, k)] } }

/-- The die and job whose miss a peer's request counts as: those of the page's object here (19 R461, R475; log entry 115). -/
def State.homeMiss (s : State) (page : Nat) : State :=
  let o := s.obj (pageSerial page)
  s.missAt page o.die (some o.job)

/-- HOME_REQUEST (22 R514, R515, R517): the memory request of a peer at the package that ADDR reaches. Once it has passed
translation it completes although its object dies (07 R218). -/
def State.homeAccess (s : State) (h : HomeReq) : HomeStep :=
  let k := h.pkt
  let page := if h.flying then h.page else s.pageFor k
  let own := s.ownNode (pageNode page)
  let w := pageNode page * 2 ^ 120 + k.addr % 2 ^ 120
  let len := homeLen k
  let acc := homeAcc k
  let l := s.leaf page
  if h.flying = false ∧ (k.dtag = 0 ∨ s.pageTag page ≠ k.dtag) then .done (s.reject k fltProt.code)
  else match (if own then s.objectFault (pageSerial page) (wnOff w + len) acc h.flying
      else s.foreignFault w (wnOff w + len) acc h.flying) with
    | some f => .done (s.reject k f.code)
    | none =>
      let h : HomeReq := { h with flying := true, page := page }
      if l.v && l.tier == 1 then (if own then s.forward h l.apnode else .done (s.reject k fltPageMiss.code))
      else if acc = .atomic ∧ w % len ≠ 0 then .done (s.reject k fltProt.code)
      else match s.transPages acc (pagesOf w len) with
        | .error f => .done (s.reject k f.code)
        | .ok (s1, .miss g) => .wait (s1.homeMiss g) h
        | .ok (s1, .remote _) => .done (s1.reject k fltPageMiss.code)
        | .ok (s1, .hbm) =>
          if s1.hbmBusy w len then .wait s1 h
          else if (k.ptype = 0 ∨ 2 < k.ptype ∨ len ≠ 64 ∨ w % 64 ≠ 0) ∧ s1.hbmBad w len = true then
            let x := s1.onBad w len
            if x.2 then .wait x.1 h else .done (x.1.reject k fltIntegrity.code)
          else match s1.closeFor (wideKey w) len with
            | none => .wait s1 h
            | some s2 => (s2.useHbm w len).homePerform h w

/-- The response of an object operation: one word (22 R547). -/
def State.objectAnswer (s : State) (k : Packet) (w : Word) : HomeStep := .done (s.sendAnswer k 5 0 8 [w])

/-- REMOTE_OBJECT_OP (22 R547): a query, seal, persist or free at the object's home. -/
def State.homeObject (s : State) (h : HomeReq) : HomeStep :=
  let k := h.pkt
  let n := k.addr / 2 ^ 56 % 2 ^ 64
  let w := wideNum s.nodeId n 0
  let o := s.obj n
  let tag := s.dtag o.die o.job
  if o.st = .unissued ∨ k.dtag = 0 ∨ tag ≠ k.dtag then .done (s.reject k fltProt.code)
  else match k.op with
    | 0 => s.objectAnswer k (objWord o)
    | 1 =>
      if o.st ≠ .opened then s.objectAnswer k (put (objCode o.st) 0)
      else if s.writesInFlight w then .wait s h
      else (s.sealObject w).objectAnswer k 1
    | 2 =>
      if o.st ≠ .sealed then s.objectAnswer k (put (objCode o.st) 0)
      else if s.store.stopped then .done (s.reject k fltStoreFull.code)
      else .wait s h
    | 3 =>
      if n < 2 ^ 16 ∨ o.st = .deadPending ∨ o.st = .reclaimed then .done (s.reject k fltProt.code)
      else (s.setObj n { o with st := .deadPending }).objectAnswer k 3
    | _ => .done (s.reject k fltProt.code)

/-- Serves a peer's request at this home. Collectives and management messages act by rows of their own, and are
acknowledged here (22 R512). -/
def State.homeServe (s : State) (h : HomeReq) : HomeStep :=
  if h.pkt.ptype < 5 then s.homeAccess h
  else if h.pkt.ptype = 10 then s.homeObject h
  else .done (s.sendAnswer h.pkt 6 0 0 [])

/-- Serves a request that has just come, or lets it wait at this home. -/
def State.homeTake (s : State) (k : Packet) : State :=
  match s.homeServe { pkt := k, flying := false, page := 0, data := [] } with
  | .done s1 => s1
  | .wait s1 h => { s1 with fabric := { s1.fabric with homeq := s1.fabric.homeq ++ [h] } }

/-- Serves request `i` of those that wait at this home again. -/
def State.homeRetry (s : State) (i : Nat) : State :=
  match s.fabric.homeq[i]? with
  | none => s
  | some k =>
    match s.homeServe k with
    | .done s1 => { s1 with fabric := { s1.fabric with homeq := s1.fabric.homeq.eraseIdx i } }
    | .wait s1 h => { s1 with fabric := { s1.fabric with homeq := s1.fabric.homeq.set i h } }

end Sys2Proof.Machine
end

