-- ==== Sys2Proof/Machine/Hedgerow.lean ====
section
/-! DEFINITION. Hedgerow (22 R508-R512, R515, R527, R528): links, routing, and what comes of a packet received. -/

namespace Sys2Proof.Machine

/-! ### Links and routing -/

/-- LINKSTAT of a link (22 R532). -/
def State.linkReg (s : State) (link : Nat) : Word := s.pkgReg (1112 + link % 16)
/-- A link carries packets: up or degraded (22 R532). -/
def State.linkUp (s : State) (link : Nat) : Bool := 2 ≤ fldN (s.linkReg link) 0 2

/-- A record of type 0x18 (22 R533): link, its new state, cause 0 state change or 1 no route, node. -/
def State.postLink (s : State) (link st cause node : Nat) : State :=
  s.postEvent 0 0 (put 0x18 56 ||| put link 48 ||| put st 40 ||| put cause 32 ||| put (node % 256) 24) 0 0

/-- FLIT_REPLAY (22 R510): counted in LINKSTAT and logged with class 4 (log entry 40: in die 0's history). -/
def execFlitReplay (link : Nat) (s : State) : Out :=
  let w := s.linkReg link
  if fldN w 0 2 = 0 then .next s
  else
    let s1 := s.setPkgReg (1112 + link % 16) ((w &&& 0xFFFFFFFF) ||| put (satInc 32 (fldN w 32 32)) 32)
    .next (s1.logError 0 4 0 link)

/-- LINK_STATE_CHANGE (22 R510). -/
def execLinkStateChange (link st peer : Nat) (s : State) : Out :=
  let w := s.linkReg link
  let s1 := s.setPkgReg (1112 + link % 16) ((w &&& 0xFFFFFFFF00000000) ||| put (peer % 256) 16 ||| put (st % 4) 0)
  .next (if fldN w 0 2 = st % 4 then s1 else s1.postLink link (st % 4) 0 peer)

/-- NROUTE of a node (22 R532). -/
def State.route (s : State) (node : Nat) : Word := s.pkgReg (2304 + node % 256)

/-- The links that a waiting packet may leave by (22 R511). -/
def State.packetLinks (s : State) (x : OutPkt) : List Nat :=
  let w := s.route x.pkt.dst
  if bitOf w 20 = false then []
  else if x.pkt.escape then [fldN w 16 4].filter s.linkUp
  else (List.range 16).filter fun l => bitOf w l && s.linkUp l

/-- Packets in the queue of a link (22 R511). -/
def State.linkLoad (s : State) (link : Nat) : Nat := s.fabric.outq.countP fun x => x.link == some link

/-- Of some links, lowest first, the one with the shortest queue, the lower number on a tie (22 R511). -/
def State.bestLink (s : State) (ls : List Nat) : Option Nat :=
  ls.foldl (fun o l => match o with
    | some m => if s.linkLoad l < s.linkLoad m then some l else o
    | none => some l) none

/-- The queue of an up link in which a packet stands. -/
def State.queueOf (s : State) (x : OutPkt) : Option Nat := x.link.filter s.linkUp

/-- Writes waiting packet `k`. -/
def State.setOut (s : State) (k : Nat) (x : OutPkt) : State :=
  { s with fabric := { s.fabric with outq := s.fabric.outq.set k x } }

/-- A packet may go out: none does before stage 6 of the start is past, nor one of this node while its number is not valid
(22 R513, 24 R537). -/
def State.goesOut (s : State) (k : Packet) : Bool := s.sends && (s.nodeValid || k.src != s.nodeId)

/-- PACKET_ROUTE (22 R511): packet `k` enters the queue of the best eligible link, leaves as the first of that queue, or is held
for want of a link and reported once. -/
def execPacketRoute (k link : Nat) (s : State) : Out :=
  match s.fabric.outq[k]? with
  | none => .next s
  | some x =>
    if s.goesOut x.pkt = false then .next s
    else match s.queueOf x with
    | some l =>
      if l = link ∧ (s.fabric.outq.take k).all (fun y => s.queueOf y != some l) = true then
        .next { s with fabric := { s.fabric with outq := s.fabric.outq.eraseIdx k } }
      else .next s
    | none => match s.bestLink (s.packetLinks x) with
      | some l => .next (if l = link then s.setOut k { x with link := some l } else s)
      | none => .next (if x.posted then s else (s.postLink 0 0 1 x.pkt.dst).setOut k { x with posted := true })

/-- ESCAPE_TIMEOUT (22 R511): a packet that has waited 256 cycles on the adaptive channel moves to the escape channel. -/
def execEscapeTimeout (k : Nat) (s : State) : Out :=
  match s.fabric.outq[k]? with
  | none => .next s
  | some x =>
    if x.pkt.escape = false ∧ x.since + 256 ≤ s.cycle then
      .next (s.setOut k { x with pkt := { x.pkt with escape := true }, link := none })
    else .next s

/-! ### Acceptance (22 R527, R528, R531) -/

/-- A sequence number is accepted (22 R527). -/
def Peer.takes (P : Peer) (n : Nat) : Bool := decide (P.high < n) || (decide (P.high < n + 1024) && !P.got.contains n)

/-- A sequence number received (22 R527). -/
def Peer.received (P : Peer) (n : Nat) : Peer :=
  let h := Nat.max P.high n
  { P with high := h, got := (n :: P.got).filter fun m => decide (h < m + 1024) }

/-- A node's sequence state. -/
def State.peer (s : State) (n : Nat) : Peer := s.fabric.peers.get Peer.reset n
/-- Changes a node's sequence state. -/
def State.modPeer (s : State) (n : Nat) (f : Peer → Peer) : State :=
  { s with fabric := { s.fabric with peers := s.fabric.peers.set Peer.reset n (f (s.peer n)) } }

/-- SEQUENCE (16 R421). -/
def fltSequence : Flt := { code := 22 }

/-- A packet is discarded: one record of type 0x19, and a request is rejected with the code (22 R528). -/
def State.discard (s : State) (k : Packet) (cause code : Nat) : State :=
  let s1 := s.postEvent 0 0 (put 0x19 56 ||| put cause 48 ||| put (k.src % 256) 40) (put k.epoch 0) (put k.seq 0)
  if isRequest k && s.nodeValid then s1.reject k code else s1

/-- What becomes of a packet that arrives: forwarded in transit, held for a switch, discarded, or accepted. -/
inductive Arrival where
  | over (s : State)
  | accepted (s : State)

/-- A packet that arrives (22 R511, R527, R528, R531). -/
def State.arrive (s : State) (k : Packet) (auth : Bool) : Arrival :=
  if k.dst ≠ s.nodeId then .over (s.queuePkt k)
  else
    let next := match s.fabric.rekey with | some x => k.epoch == x.epoch % 2 ^ 16 | none => false
    if next then .over { s with fabric := { s.fabric with heldIn := s.fabric.heldIn ++ [(k, auth)] } }
    else if auth = false ∨ s.nodeValid = false ∨ s.isMember k.src = false ∨ k.epoch ≠ s.epoch % 2 ^ 16 then
      .over (s.discard k 0 fltIntegrity.code)
    else if (s.peer k.src).takes k.seq = false then .over (s.discard k 1 fltSequence.code)
    else .accepted (s.modPeer k.src fun P => P.received k.seq)

/-- A request packet (22 R512, R527). -/
def State.takeRequest (s : State) (k : Packet) (auth : Bool) : State :=
  match s.arrive k auth with
  | .over s1 => s1
  | .accepted s1 => if isRequest k then s1.homeTake k else s1

/-! ### Answers (22 R512, R515) -/

/-- Bytes of a response. -/
def packetBytes (k : Packet) : List Byte := k.payload.flatMap (bytesOf 8)

/-- What an answer of an object's home says of the object: the OBJQ word of a query, or the state code after another operation,
which the object's pages held here follow (19 R460, 22 R547; log entry 90). -/
def State.learn (s : State) (r : Req) (w : Word) : State :=
  let old := s.knownOf r.wide
  let query : Bool := r.stage == 4 || r.kind == .hbind || r.kind == .objq
  s.setKnown r.wide
    (if query then (if fldN w 0 3 = 5 then old else { code := fldN w 0 3, size := objSizeOf w })
     else { old with code := if old.code = 5 then 5 else fldN w 0 3 })

/-- How a request ends whose answer has come (07 R232-R242, 22 R547). A request that reads words takes them, and is served
again, as is one that has asked an object's home first. -/
def State.answered (s0 : State) (r : Req) (k : Packet) : Served :=
  let w := k.payload.getD 0 0
  if r.stage = 4 then
    (if fldN w 0 3 = 5 then .fail s0 fltPageMiss { r with stage := 0 } else .park (s0.learn r w) { r with stage := 0 })
  else
  let s := match r.kind with
    | .free | .seal | .persist | .objq | .hbind => s0.learn r w
    | _ => s0
  match r.kind with
  | .ld | .ldacq | .ldw => .word s (loadVal r w)
  | .st | .stp | .strel | .stw => .ack s
  | .atom => .word s (if r.mode ≥ 16 then w else 0)
  | .cas | .seal | .persist | .objq => .word s w
  | .free => .ack (s.dropBound (r.job.getD 0) (wnNode r.wide) (wnSerial r.wide))
  | .hbind =>
    let size := objSizeOf w
    if fldN w 0 3 > 2 then .fail s fltProt r
    else if wnOff r.wide ≥ size then .fail s fltBounds r
    else s.bindWide r r.wide
  | _ => .park s { r with data := r.data ++ k.payload, stage := 0 }

/-- A copy takes the answer to request `rid`, 2 × its first word; `len` bytes were asked for or written (09 R275, 22 R512). -/
def State.copyAnswered (s : State) (id rid len : Nat) (k : Packet) : State :=
  match s.copy id with
  | none => s
  | some c => match c.reqs.find? fun q => q.n == rid / 2 with
    | some q => s.farGot id c q (if c.isStore then (q.out.drop q.got.length).take len else (packetBytes k).take len)
    | none => s

/-- Bytes of the request kept under a sequence number. -/
def State.askedLen (s : State) (node seq : Nat) : Nat :=
  ((s.fabric.peers.get Peer.reset node).unacked.find? fun q => q.seq == seq).elim 0 (·.len)

/-- The request sent to a node under a sequence number: its requester's unit and request. -/
def State.requester (s : State) (node seq : Nat) : Option (Nat × Nat) :=
  (s.fabric.remote.find? fun x => x.1 == seq && x.2.1 == node).map (·.2.2)

/-- The source keeps a request no more. -/
def State.release (s : State) (node seq : Nat) : State :=
  let s1 := s.modPeer node fun P => { P with unacked := P.unacked.filter fun q => q.seq != seq }
  { s1 with fabric := { s1.fabric with remote := s1.fabric.remote.filter (fun x => !(x.1 == seq && x.2.1 == node))
                                       forwards := s1.fabric.forwards.filter fun x => !(x.1 == seq && x.2.1 == node) } }

/-- The request forwarded under a sequence number, and whether it was sent again. -/
def State.forwarded (s : State) (node seq : Nat) : Option (Bool × Packet) :=
  (s.fabric.forwards.find? fun x => x.1 == seq && x.2.1 == node).map (·.2.2)

/-- A parked request of a unit by its identifier. -/
def State.pendingReq (s : State) (p rid : Nat) : Option Req := (s.proc p).pending.find? fun r => r.rid == rid

/-- A response or acknowledgement (22 R512, R515). -/
def State.takeAck (s : State) (k : Packet) (auth : Bool) : State :=
  match s.arrive k auth with
  | .over s1 => s1
  | .accepted s1 =>
    let seq := k.addr % 2 ^ 64
    let s2 := s1.release k.src seq
    match s1.forwarded k.src seq with
    | some (_, q) => s2.sendAnswer q k.ptype 0 k.len k.payload
    | none => match s1.requester k.src seq with
      | none => s2
      | some (p, rid) =>
        if 8192 ≤ p then s2.copyAnswered (p - 8192) rid (s.askedLen k.src seq) k
        else match s2.pendingReq p rid with
          | none => s2
          | some r => finishServed p r (s2.answered r k)

/-- A request that ends leaves the codec that it uses or waits for (16 R438). -/
def State.quitCodecs (s : State) (d rid : Nat) : State :=
  s.modDie d fun D => { D with codecq := D.codecq.filter fun u => u != .restore 0 rid && u != .restore 1 rid }

/-- A store packet of a cut's area is refused for good: the save is abandoned (16 R439; log entry 32). -/
def State.failArea (s : State) (d g : Nat) : State :=
  match (s.region d g).cut with
  | none => s
  | some c => s.abandon d g (match c.image with | some n => (c.toWrite.head?.map (·.1)).getD n | none => 0) c

/-- The requester of a packet takes a path fault (22 R515, R516, R528); OBJQ never faults and answers STATE 5 (07 R242). -/
def State.failRequester (s : State) (p rid code : Nat) (addr : Nat) : State :=
  let f : Flt := { code := code, op2 := wnLo addr }
  if 16384 ≤ p then s.failArea ((p - 16384) / 64) ((p - 16384) % 64)
  else if 8192 ≤ p then
    match s.copy (p - 8192) with
    | none => s
    | some c => match c.reqs.find? fun q => q.n == rid / 2 with
      | some q => s.copyFault (p - 8192) c q ((c.farByteAt (8 * q.n + q.got.length)).getD 0) f
      | none => s
  else match s.pendingReq p rid with
    | none => s
    | some r =>
      if r.kind = .objq then finishServed p r (.word s 5)
      else if r.kind = .mark ∨ r.kind = .save then finishServed p r (.word s (put 5 56))
      else if r.kind = .resume then finishServed p r (.word (s.quitCodecs (dieOf p) r.rid) 1)
      else (s.quitCodecs (dieOf p) r.rid).holdReq p { r with stage := 0 } f

/-- A rejected request is sent again under a new sequence number (22 R528). -/
def State.sendAgain (s : State) (q : Packet) (p rid : Nat) : State :=
  let x := s.sendRequest q.dst q.ptype q.op q.len q.addr q.dtag q.payload
  let e : Nat × Nat × Nat × Nat := (x.1, q.dst, p, if 8192 ≤ p then rid / 2 * 2 + 1 else rid)
  let s1 : State := { x.2 with fabric := { x.2.fabric with remote := x.2.fabric.remote ++ [e] } }
  match s1.pendingReq p rid with
  | some r => if 8192 ≤ p then s1 else s1.parkReq p { r with resent := true }
  | none => s1

/-- The request of a packet was sent again already. -/
def State.wasResent (s : State) (p rid : Nat) : Bool :=
  if 8192 ≤ p then rid % 2 == 1 else match s.pendingReq p rid with | some r => r.resent | none => true

/-- A reject (22 R515, R528): one for INTEGRITY or SEQUENCE is followed by one resend, in a re-key too, which waits for its
acknowledgement (R530). -/
def State.takeReject (s : State) (k : Packet) (auth : Bool) : State :=
  match s.arrive k auth with
  | .over s1 => s1
  | .accepted s1 =>
    let seq := k.addr % 2 ^ 64
    let code := k.addr / 2 ^ 64 % 256
    let s2 := s1.release k.src seq
    let again : Bool := code == fltIntegrity.code || code == fltSequence.code
    match s1.forwarded k.src seq with
    | some (resent, q) =>
      if again && !resent then
        let x := s2.sendRequest k.src q.ptype q.op q.len q.addr q.dtag q.payload
        { x.2 with fabric := { x.2.fabric with forwards := x.2.fabric.forwards ++ [(x.1, k.src, true, q)] } }
      else s2.reject q code
    | none =>
      match s1.requester k.src seq, (s1.peer k.src).unacked.find? fun q => q.seq == seq with
      | some (p, rid), some q =>
        if again && !s2.wasResent p rid then
          s2.sendAgain q p rid
        else s2.failRequester p rid code q.addr
      | _, _ => s2

/-- A packet of any type. -/
def State.takePacket (s : State) (k : Packet) (auth : Bool) : State :=
  if k.ptype = 5 ∨ k.ptype = 6 then s.takeAck k auth else if k.ptype = 7 then s.takeReject k auth else s.takeRequest k auth

end Sys2Proof.Machine
end

