-- ==== Sys2Proof/Machine/Domain.lean ====
section
/-! DEFINITION. The load-store domain (22): node numbers, remote permissions and migration, collectives, sessions and
re-keying; and the rows of packets received. -/

namespace Sys2Proof.Machine

/-! ### Collectives (22 R519-R522) -/

/-- COLL's issue faults (22 R521, 15 R397). -/
def collFaults (e : Env) (s : State) : Option Flt :=
  match jobFaults e s with
  | some f => some f
  | none => if fldN e.a 24 40 ≠ 0 ∨ fldN e.a 4 12 ≠ 0 then some fltBounds else none

/-- COLL.SUMF (22 R521, R522). -/
def execCollSumf (f : RForm) (s : State) : Out := issue (viewR 0xEA f) (portEffect .coll modOf collFaults) s
/-- COLL.MINF (22 R521, R522). -/
def execCollMinf (f : RForm) (s : State) : Out := issue (viewR 0xEA f) (portEffect .coll modOf collFaults) s
/-- COLL.MAXF (22 R521, R522). -/
def execCollMaxf (f : RForm) (s : State) : Out := issue (viewR 0xEA f) (portEffect .coll modOf collFaults) s
/-- COLL.SUMI (22 R520, R521). -/
def execCollSumi (f : RForm) (s : State) : Out := issue (viewR 0xEA f) (portEffect .coll modOf collFaults) s
/-- COLL.MINI (22 R520, R521). -/
def execCollMini (f : RForm) (s : State) : Out := issue (viewR 0xEA f) (portEffect .coll modOf collFaults) s
/-- COLL.MAXI (22 R520, R521). -/
def execCollMaxi (f : RForm) (s : State) : Out := issue (viewR 0xEA f) (portEffect .coll modOf collFaults) s
/-- COLL.BCAST (22 R521, R522). -/
def execCollBcast (f : RForm) (s : State) : Out := issue (viewR 0xEA f) (portEffect .coll modOf collFaults) s
/-- COLL.BARRIER (22 R520, R521). -/
def execCollBarrier (f : RForm) (s : State) : Out := issue (viewR 0xEA f) (portEffect .coll modOf collFaults) s

/-- GCTL of a group (22 R519, R532). -/
def State.gctl (s : State) (g : Nat) : Word := s.pkgReg (1136 + 8 * g + 4)
/-- A node stands in a group's bitmap (22 R519, R532). -/
def State.inGroup (s : State) (g n : Nat) : Bool := bitOf (s.pkgReg (1136 + 8 * g + n / 64 % 4)) (n % 64)
/-- Contributions of a package to an instance of a group (22 R519). -/
def State.cpn (s : State) (g : Nat) : Nat := fldN (s.gctl g) 0 6 + 1

/-- A contribution is refused with status 3 (22 R521). -/
def State.collRefused (s : State) (r : Req) (g root : Nat) : Bool :=
  !bitOf (s.gctl g) 63 || some (fldN (s.gctl g) 32 8) != r.job || !s.inGroup g s.nodeId ||
    ((List.range 256).any fun n => s.inGroup g n && !s.isMember n) || (r.mode == 6 && !s.inGroup g root)

/-- A contribution joins its instance (22 R521). -/
def joinColl (n : Nat) (c : Contribution) (who : Nat × Nat) : List CollInst → List CollInst
  | [] => [{ n := n, got := [c], answer := [who] }]
  | x :: xs =>
    if x.n = n then { x with got := x.got ++ [c], answer := x.answer ++ [who] } :: xs else x :: joinColl n c who xs

/-- COLL at the reducer (22 R521): the contribution is counted into its instance and waits. -/
def serveColl : Server := fun p r s =>
  let g := fldN r.a 0 4
  let root := fldN r.a 16 8
  if s.collRefused r g root then .done s [0, 3] 0
  else
    let k := s.fabric.collCount.get 0 g
    let c : Contribution := { node := s.nodeId, issuer := p, op := r.mode, val := r.b, root := root }
    .park { s with fabric := { s.fabric with
      collCount := s.fabric.collCount.set 0 g (k + 1)
      coll := s.fabric.coll.set [] g (joinColl (k / s.cpn g) c (p, r.rid) (s.fabric.coll.get [] g)) } } { r with stage := 3 }

/-- The sum of one FP32 lane and its flags (22 R522). -/
def collSum (xs : List Nat) : Nat × BitVec 5 :=
  let vs := xs.map fp32.value
  if vs.any FVal.isNan then (fp32.nanBits, flIV) else fp32.round 0 false (sumF 0 vs)

/-- The order of FP32 patterns, −0 below +0 (22 R522). -/
def fpKey (x : Nat) : Int := if x / 2 ^ 31 % 2 = 1 then -((x % 2 ^ 31 : Nat) : Int) - 1 else ((x % 2 ^ 31 : Nat) : Int)

/-- The extreme of one FP32 lane and its flags (22 R522). -/
def collExt (mx : Bool) (xs : List Nat) : Nat × BitVec 5 :=
  let iv := flagIf (xs.any fun x => (fp32.value x).iv) flIV
  match xs.filter fun x => !(fp32.value x).isNan with
  | [] => (fp32.nanBits, iv)
  | y :: ys => (ys.foldl (fun a b => if (fpKey a < fpKey b) = (mx = true) then b else a) y, iv)

/-- One INT32 lane (22 R520). -/
def collInt (op : Nat) (xs : List Nat) : Nat :=
  let sgn (x : Nat) : Int := (BitVec.ofNat 32 x).toInt
  match xs with
  | [] => 0
  | y :: ys => ys.foldl (fun a b =>
      if op = 3 then (a + b) % 2 ^ 32
      else if op = 4 then (if sgn b < sgn a then b else a)
      else if sgn a < sgn b then b else a) y

/-- One lane of a reduction (22 R520, R522). -/
def collLane (op : Nat) (xs : List Nat) : Nat × BitVec 5 :=
  match op with
  | 0 => collSum xs
  | 1 => collExt false xs
  | 2 => collExt true xs
  | _ => (collInt op xs, 0)

/-- The root's value, from its lowest-numbered issuer (22 R522). The lowest root counts when the contributions name several, and
the lowest value when one issuer gave several, so that the order of arrival has no part in it (log entry 92). -/
def collRoot (cs : List Contribution) : Word :=
  let root := (cs.map (·.root)).min?.getD 0
  let mine := cs.filter fun c => c.node == root
  let issuer := (mine.map (·.issuer)).min?.getD 0
  BitVec.ofNat 64 (((mine.filter fun c => c.issuer == issuer).map (·.val.toNat)).min?.getD 0)

/-- The flags IV, OF, UF and NX in [7:4] (22 R521). -/
def collFlags (f : BitVec 5) : Nat :=
  (if f &&& flIV ≠ 0 then 128 else 0) + (if f &&& flOF ≠ 0 then 64 else 0) + (if f &&& flUF ≠ 0 then 32 else 0) +
    (if f &&& flNX ≠ 0 then 16 else 0)

/-- What an instance responds (22 R521, R522). -/
def collResult (cs : List Contribution) : Word × Word :=
  let op := match cs.head? with | some c => c.op | none => 7
  if cs.any fun c => c.op != op then (0, 1)
  else if op = 6 then (collRoot cs, 0)
  else if op ≥ 7 then (0, 0)
  else
    let lo := collLane op (cs.map fun c => fldN c.val 0 32)
    let hi := collLane op (cs.map fun c => fldN c.val 32 32)
    (put hi.1 32 ||| put lo.1 0, put (collFlags (lo.2 ||| hi.2)) 0)

/-- Every local contributor of an instance is answered (22 R521). -/
def State.answerColl (s : State) (x : CollInst) (v st : Word) : State :=
  x.answer.foldl (fun s w => match s.pendingReq w.1 w.2 with
    | some r => finishServed w.1 r (.done s [v, st] 0)
    | none => s) s

/-- COLL_COMPLETE (22 R521): the oldest instance of the group to which this package has given its part; `remote` are the parts
of the other nodes of the group, as many from each as its own CPN says (22 R519): these are domain traffic, which SECURE allows once stage 6 is past
(24 R537, R541). -/
def execCollComplete (g : Nat) (remote : List Contribution) (s : State) : Out :=
  match (s.fabric.coll.get [] g).find? fun x => x.got.length == s.cpn g with
  | none => .next s
  | some x =>
    let others := (List.range 256).filter fun n => n != s.nodeId && s.inGroup g n
    let whole := (others.all fun n => remote.any fun c => c.node == n) && remote.all fun c => others.contains c.node
    if whole = false ∨ (others ≠ [] ∧ (s.domState = 3 ∨ s.sends = false ∨ s.secureMode = false)) then .next s
    else
      let v := collResult (x.got ++ remote)
      let s1 := s.answerColl x v.1 v.2
      .next { s1 with fabric := { s1.fabric with
        coll := s1.fabric.coll.set [] g ((s1.fabric.coll.get [] g).filter fun y => y.n != x.n) } }

/-! ### Node number, permissions and migration (22 R513, R518) -/

/-- A write of NODEID (22 R513, R532). -/
def State.writeNode (s : State) (b : Word) : State :=
  let old := s.pkgReg 1104
  let fixed := match s.store.node with | some n => n != fldN b 0 8 | none => false
  if fixed then s
  else
    let v := if s.domState = 0 then bitOf b 8 else bitOf old 8
    s.setPkgReg 1104 (put (fldN b 0 8) 0 ||| put (if v then 1 else 0) 8)

/-- NODEID_WRITE (22 R513). -/
def execNodeidWrite (p k : Nat) (s : State) : Out :=
  match s.ctlStore p k with
  | none => .next s
  | some (r, n) => if n = 1104 then .next ((s.writeNode r.b).ctlDone p r) else .next s

/-- The page of APADDR (22 R532). -/
def State.apPage (s : State) : Nat := pageOf (pairWide (s.pkgReg 1129) (s.pkgReg 1130))

/-- APCMD runs a command with this OP (22 R532). -/
def State.apRuns (s : State) (op : Nat) : Bool := bitOf (s.pkgReg 1128) 63 && fldN (s.pkgReg 1128) 0 4 == op

/-- A command ends with a result and a record (22 R518, R533). -/
def State.apDone (s : State) (result : Nat) : State :=
  let w := s.pkgReg 1128
  let s1 := s.setPkgReg 1128 ((w &&& 0xFF0F) ||| put result 4)
  s1.postEvent 0 0 (put 0x1A 56 ||| put result 48 ||| put (fldN w 0 4) 40) (s.pkgReg 1129) (s.pkgReg 1130)

/-- The result of a home's reply (22 R518). -/
def apCode : HomeReply → Nat
  | .agreed => 0
  | .notPeer => 1
  | .refused => 2
  | .notOpen => 3
  | .quota => 4

/-- A page is a peer page (22 R518). -/
def State.peerPage (s : State) (page : Nat) : Bool := (s.leaf page).v && (s.leaf page).tier == 1

/-- What the home finds of a page that a node asks for: OPEN, and the DTAG and bit `b` of APPOL allow it (22 R518). -/
def State.homeReply (s : State) (page node : Nat) (dtag : BitVec 16) (b : Nat) : HomeReply :=
  if s.ownNode (pageNode page) = false ∨ (s.leaf page).v = false ∨ s.isMember node = false then .notPeer
  else if (s.obj (pageSerial page)).st ≠ .opened ∨ (s.leaf page).w = false then .notOpen
  else if dtag = 0 ∨ s.pageTag page ≠ dtag ∨ bitOf (s.pkgReg 1131) b = false then .refused
  else .agreed

/-- The home's answer to a command goes out as a management packet of one word, the result code (22 R518; log entry 93). -/
def State.answerPage (s : State) (node page : Nat) (dtag : BitVec 16) (reply : HomeReply) : State :=
  if s.mayPacket node then (s.sendRequest node 9 0 8 (page * 65536 % 2 ^ 120) dtag [put (apCode reply) 0]).2 else s

/-- APCMD_GRANT (22 R518): at the requester, and at the home, which checks the page. -/
def execApcmdGrant (side : Granting) (s : State) : Out :=
  match side with
  | .home node page dtag => .next (s.answerPage node page dtag (s.homeReply page node dtag 0))
  | .requester reply =>
    if s.apRuns 0 = false then .next s
    else
      let g := s.apPage
      if s.peerPage g = false then .next (s.apDone 1)
      else if reply = .agreed then .next ((s.setLeaf g { s.leaf g with rap := true }).apDone 0)
      else .next (s.apDone (apCode reply))

/-- The page moves here (22 R518): its entry becomes TIER 0, and its 64 KiB enter the frame. -/
def State.migrateIn (s : State) (page job frame : Nat) (data : List Word) : State :=
  let l := s.leaf page
  let s1 := s.setLeaf page { l with apnode := 0, rap := false, w := true, job := job,
                                    keyidx := s.jobKeys.get 0 (256 * (frame / 2 ^ 21) + job) }
  let bytes := ((data ++ List.replicate 8192 0).take 8192).flatMap (bytesOf 8)
  (s1.placePage page frame).mwrite (wideKey (page * 65536)) bytes

/-- The page leaves its home (22 R518): its entry becomes TIER 1 with the requester as APNODE. -/
def State.migrateOut (s : State) (page node : Nat) : State :=
  let s1 := s.setLeaf page { s.leaf page with tier := 1, apnode := node, rap := false, frame := 0 }
  { s1 with mem := s1.mem.filter fun c => !(decide (wideKey (page * 65536) ≤ c.1) && decide (c.1 < wideKey (page * 65536) + 65536)) }

/-- The home's answer to a migration: the page is OPEN in its HBM, APPOL allows it, and the DTAGs match (22 R518). A page that has
left already is no page of this node's to move (log entry 93). -/
def State.moveReply (s : State) (page node : Nat) (dtag : BitVec 16) : HomeReply :=
  let x := s.homeReply page node dtag 1
  if x = .agreed ∧ ((s.leaf page).tier ≠ 0 ∨ node = s.nodeId) then .notPeer else x

/-- An access that reached the page's home before the migration is still to be performed there (22 R518). -/
def State.accessWaits (s : State) (page : Nat) : Bool :=
  s.writesInFlight (page * 65536) || !(s.peersFor page).isEmpty || s.pageBusy page

/-- APCMD_MIGRATE (22 R518): at the requester, whose quota is checked, and at the home, once every access that had reached the
page is performed; a refusal is answered. -/
def execApcmdMigrate (side : Migration) (s : State) : Out :=
  match side with
  | .home node page dtag =>
    if s.moveReply page node dtag = .agreed then (if s.accessWaits page then .next s else .next (s.migrateOut page node))
    else .next (s.answerPage node page dtag (s.moveReply page node dtag))
  | .requester reply data frame =>
    let g := s.apPage
    let d := frame / 2 ^ 21
    let job := fldN (s.pkgReg 1128) 8 8
    if s.apRuns 1 = false ∨ 8 ≤ d ∨ s.frameFree d frame = false ∨ s.frameBusy frame = true then .next s
    else if s.peerPage g = false then .next (s.apDone 1)
    else if reply ≠ .agreed then .next (s.apDone (apCode reply))
    else if s.quotaUsed d job + 1 > (s.ctlReg d (4 * job + 2)).toNat then .next (s.apDone 4)
    else .next ((s.migrateIn g job frame data).apDone 0)

/-- APCMD_REVOKE (22 R518). -/
def execApcmdRevoke (s : State) : Out :=
  if s.apRuns 2 = false then .next s
  else
    let g := s.apPage
    if s.peerPage g then .next ((s.setLeaf g { s.leaf g with rap := false }).apDone 0) else .next (s.apDone 1)

/-- APCMD_RESERVED (22 R518). -/
def execApcmdReserved (s : State) : Out :=
  if bitOf (s.pkgReg 1128) 63 && 3 ≤ fldN (s.pkgReg 1128) 0 4 then .next (s.apDone 1) else .next s

/-! ### Re-keying (22 R529-R531) -/

/-- REKEY's issue faults (22 R530, 15 R397). -/
def rekeyFaults (e : Env) (s : State) : Option Flt :=
  match jobFaults e s with
  | some f => some f
  | none => if aSlot e.a = 0 ∨ fldN e.a 0 6 ≠ 0 then some fltBounds else none

/-- REKEY (22 R530). -/
def execRekey (f : RForm) (s : State) : Out := issue (viewR 0xFD f) (portEffect .rekey modOf rekeyFaults) s

/-- MEMBERS of a descriptor as one number (22 R529). -/
def descMembers (ws : List Word) : Nat :=
  (ws.getD 1 0).toNat + (ws.getD 2 0).toNat * 2 ^ 64 + (ws.getD 3 0).toNat * 2 ^ 128 + (ws.getD 4 0).toNat * 2 ^ 192

/-- The nodes of a bitmap. -/
def nodesOf (m : Nat) : List Nat := (List.range 256).filter fun n => m.testBit n

/-- A descriptor is well-formed (22 R529). -/
def descOk (ws : List Word) : Bool :=
  let w := ws.getD 0 0
  fldN w 0 8 == 0 && fldN w 16 16 == 0 && ws.getD 5 0 == 0 && ws.getD 6 0 == 0 && ws.getD 7 0 == 0 &&
    (descMembers ws).testBit (fldN w 8 8)

/-- The answer timeout in nanoseconds (22 R532). -/
def State.rekeyTime (s : State) : Nat := Nat.max 1 (fldN (s.pkgReg 1106) 0 16) * 1000

/-- LEADER of DOMSTAT. -/
def State.leader (s : State) : Nat := fldN (s.pkgReg 1105) 8 8
/-- This node leads its domain. -/
def State.leads (s : State) : Bool := (s.domState == 2 || s.domState == 3) && s.leader == s.nodeId

/-- The current leader has answered no heartbeat for REKEYTO (22 R530). -/
def State.leaderSilent (s : State) : Bool :=
  match s.fabric.silentSince with
  | some t => decide (t.toNat + s.rekeyTime ≤ s.tai.toNat)
  | none => false

/-- A node that is not the leader may lead this re-key (22 R530). -/
def State.mayLead (s : State) (members leader : Nat) : Bool :=
  (s.domState == 0 && leader == s.nodeId) ||
  (leader == s.nodeId && s.isMember s.nodeId && !members.testBit s.leader && s.leaderSilent)

/-- A record of type 0x1B (22 R533). -/
def State.postRekey (s : State) (cause epoch members : Nat) : State :=
  s.postEvent 0 0 (put 0x1B 56 ||| put cause 48) (put epoch 0) (put (nodesOf members).length 0)

/-- Writes STATE of DOMSTAT. -/
def State.setDomState (s : State) (st : Nat) : State := s.setPkgReg 1105 ((s.pkgReg 1105 &&& ~~~3) ||| put st 0)

/-- Every incomplete collective instance ends with status 2, and the counts begin anew (22 R530; log entry 41). -/
def State.endColls (s : State) : State :=
  let s1 := s.fabric.coll.foldl (fun s e => e.2.foldl (fun s x => s.answerColl x 0 2) s) s
  { s1 with fabric := { s1.fabric with coll := [], collCount := [] } }

/-- Every packet outstanding to a node outside the new members fails with DOMAIN (22 R516, R530). -/
def State.failOutside (s : State) (members : Nat) : State :=
  let out (n : Nat) : Bool := !members.testBit n
  let s1 := (s.fabric.remote.filter fun x => out x.2.1).foldl (fun s x =>
    let addr := match (s.peer x.2.1).unacked.find? fun q => q.seq == x.1 with | some q => q.addr | none => 0
    s.failRequester x.2.2.1 x.2.2.2 fltDomain.code addr) s
  let s2 := (s1.fabric.forwards.filter fun x => out x.2.1).foldl (fun s x => s.reject x.2.2.2 fltDomain.code) s1
  { s2 with fabric := { s2.fabric with
      remote := s2.fabric.remote.filter fun x => !out x.2.1
      forwards := s2.fabric.forwards.filter fun x => !out x.2.1
      outq := s2.fabric.outq.filter fun x => !(x.pkt.src == s.nodeId && out x.pkt.dst)
      peers := s2.fabric.peers.map fun e => if out e.1 then (e.1, { e.2 with unacked := [] }) else e } }

/-- A member begins to drain (22 R530). -/
def State.beginDrain (s : State) (x : Rekey) : State :=
  let s1 : State := { s with fabric := { s.fabric with
    rekey := some { x with stage := 0, began := s.tai, was := s.domState }, undo := none } }
  (((s1.setDomState 3).postRekey 0 x.epoch x.members).endColls).failOutside x.members

/-- Every packet of this node is acknowledged (22 R530). -/
def State.allAcked (s : State) : Bool := s.fabric.peers.all fun e => e.2.unacked.isEmpty

/-- The switch (22 R530): the new epoch, members and leader, SEQ from 1, and the packets held for it are taken. -/
def State.switch (s : State) (x : Rekey) : State :=
  let here := x.members.testBit s.nodeId
  let s1 := s.setPkgReg 1105 (put x.epoch 32 ||| put x.leader 8 ||| put (if here then 2 else 0) 0)
  let s2 := (List.range 4).foldl (fun s i => s.setPkgReg (1108 + i) (put (x.members / 2 ^ (64 * i) % 2 ^ 64) 0)) s1
  let held := s2.fabric.heldIn
  let s3 : State := { s2 with fabric := { s2.fabric with
    peers := [], rekey := none, heldIn := [], silentSince := none
    undo := if x.leads then none
      else some { rekey := x, stat := s.pkgReg 1105, members := (List.range 4).map fun i => s.pkgReg (1108 + i), peers := s.fabric.peers }
    accepted := s2.fabric.accepted.filter fun n => !x.members.testBit n } }
  held.foldl (fun s k => s.takePacket k.1 k.2) s3

/-- The issuer of the re-key in progress is answered (22 R530). -/
def State.answerRekey (s : State) (x : Rekey) (w : Word) : State :=
  if x.leads then
    match s.pendingReq x.proc x.rid with
    | some r => finishServed x.proc r (.word s w)
    | none => s
  else s

/-- Nodes of the new membership other than this one. -/
def State.othersOf (s : State) (members : Nat) : List Nat := (nodesOf members).filter fun n => n != s.nodeId

/-- The sessions a new leader needs are there (22 R530). -/
def State.sessionsOk (s : State) (members : Nat) : Bool := (s.othersOf members).all fun n => s.fabric.sessions.contains n

/-- A joining node of the new membership has no accepted session (22 R525, R530). -/
def State.joinerMissing (s : State) (members : Nat) : Bool :=
  (s.othersOf members).any fun n => !s.isMember n && !s.fabric.accepted.contains n

/-- The leader's re-key is given up with a status (22 R530). -/
def State.dropRekey (s : State) (x : Rekey) (status : Nat) : State :=
  ({ s with fabric := { s.fabric with rekey := none } } : State).answerRekey x (put status 56)

/-- The leader goes on once what it waits for is there (22 R530). -/
def State.advanceRekey (s : State) : State :=
  match s.fabric.rekey with
  | none => s
  | some x =>
    if x.leads = false then s
    else if x.stage = 0 then
      (if s.allAcked && (s.othersOf x.members).all x.drained.contains then
         { s with fabric := { s.fabric with rekey := some { x with stage := 1, began := s.tai } } }
       else s)
    else if (s.othersOf x.members).all x.switched.contains then
      ((s.switch x).postRekey 1 x.epoch x.members).answerRekey x (put x.epoch 0)
    else s

/-- The leader goes on as far as it can. -/
def State.pushRekey (s : State) : State := s.advanceRekey.advanceRekey

/-- A REKEY that opens sessions is given up with a status. -/
def State.dropOpening (s : State) (x : Rekey) (status : Nat) : State :=
  ({ s with fabric := { s.fabric with opening := none } } : State).answerRekey x (put status 56)

/-- A REKEY that opens sessions goes on once every node of the new membership has one (22 R530; log entry 107). -/
def State.pushOpening (s : State) : State :=
  match s.fabric.opening with
  | none => s
  | some x =>
    if s.sessionsOk x.members = false then s
    else if s.fabric.rekey.isSome then s.dropOpening x 4
    else if s.joinerMissing x.members then s.dropOpening x 5
    else if x.epoch ≠ s.epoch + 1 then s.dropOpening x 1
    else (({ s with fabric := { s.fabric with opening := none } } : State).beginDrain x).pushRekey

/-- REKEY at the port dies, once its descriptor is read (22 R530). -/
def State.startRekey (s : State) (p : Nat) (r : Req) (ws : List Word) : Served :=
  let epoch := fldN (ws.getD 0 0) 32 32
  let leader := fldN (ws.getD 0 0) 8 8
  let members := descMembers ws
  if descOk ws = false ∨ epoch ≠ s.epoch + 1 then .word s (put 1 56)
  else if s.leads = false ∧ s.mayLead members leader = false then .word s (put 2 56)
  else if (if s.leads then s.fabric.rekey.isSome else s.fabric.opening.isSome) = true then .word s (put 4 56)
  else if s.leads = true ∧ s.joinerMissing members = true then .word s (put 5 56)
  else
    let x : Rekey := { epoch := epoch, leader := leader, members := members, leads := true, proc := p, rid := r.rid,
                       drained := [], switched := [], stage := 0, began := s.tai, was := s.domState }
    let s1 := s.parkReq p { r with stage := 3 }
    .wait (if s.leads then (s1.beginDrain x).pushRekey
      else ({ s1 with fabric := { s1.fabric with opening := some x } } : State).pushOpening)

/-- REKEY (22 R530). -/
def serveRekey : Server := fun p r s => s.viaDesc p r r.a 8 fun ws r s => s.startRekey p r ws

/-- Of two re-keys that meet, the one of the lower leader proceeds: whatever re-key stands here has a higher one (22 R530). -/
def State.yields (s : State) (leader : Nat) : Bool :=
  s.fabric.opening.all (fun y => decide (leader < y.leader)) && s.fabric.rekey.all fun y => decide (leader < y.leader)

/-- The re-keys that stand here are given up: an issuer is answered 4 (22 R530). -/
def State.giveUp (s : State) : State :=
  let s1 := match s.fabric.opening with | some y => s.dropOpening y 4 | none => s
  match s1.fabric.rekey with
  | some y => (s1.dropRekey y 4).setDomState y.was
  | none => s1

/-- REKEY_DRAIN (22 R530): a member drains for the next epoch, a joiner for the domain's, whatever its number (22 R525). Of two re-keys that meet, the one of the lower leader proceeds. -/
def execRekeyDrain (epoch leader members : Nat) (s : State) : Out :=
  let members := members % 2 ^ 256
  let leader := leader % 256
  let x : Rekey := { epoch := epoch, leader := leader, members := members, leads := false, proc := 0, rid := 0, drained := [],
                     switched := [], stage := 0, began := s.tai, was := s.domState }
  if s.nodeValid = false ∨ (epoch ≠ s.epoch + 1 ∧ (s.domState ≠ 1 ∨ epoch ≤ s.epoch)) ∨ leader = s.nodeId then .next s
  else if s.yields leader then .next (s.giveUp.beginDrain x) else .next s

/-- REKEY_SWITCH (22 R530, R531): a drained member of the new domain switches. -/
def execRekeySwitch (epoch : Nat) (s : State) : Out :=
  match s.fabric.rekey with
  | none => .next s
  | some x =>
    if x.leads = false ∧ x.epoch = epoch ∧ s.allAcked = true ∧ x.members.testBit s.nodeId = true then
      .next ((s.switch x).postRekey 1 x.epoch x.members)
    else .next s

/-- A member that has switched returns to the old key, the leader having aborted the re-key (22 R530; log entry 107): EPOCH and
MEMBERS are as they were, packets to nodes of the new membership alone fail with DOMAIN, and the others not yet acknowledged go out
again under the old key. -/
def State.unswitch (s : State) (u : Undo) : State :=
  let old := (u.members.zipIdx.map fun x => x.1.toNat * 2 ^ (64 * x.2)).sum
  let s0 := s.failOutside old
  let kept (x : Nat × Nat) : Option Packet := (s0.peer x.2).unacked.find? fun q => q.seq == x.1
  let asked := s0.fabric.remote.filterMap fun x => (kept (x.1, x.2.1)).map fun q => (q, x.2.2)
  let sent := s0.fabric.forwards.filterMap fun x => (kept (x.1, x.2.1)).map fun q => (q, x.2.2)
  let s1 : State := { s0 with fabric := { s0.fabric with
    peers := u.peers, remote := [], forwards := [], undo := none
    outq := s0.fabric.outq.filter fun x => x.pkt.src != s0.nodeId } }
  let s2 := u.members.zipIdx.foldl (fun s x => s.setPkgReg (1108 + x.2) x.1) ((s1.setPkgReg 1105 u.stat).setDomState u.rekey.was)
  let again (s : State) (q : Packet) : Nat × State := s.sendRequest q.dst q.ptype q.op q.len q.addr q.dtag q.payload
  let s3 := asked.foldl (fun s y =>
    let x := again s y.1
    { x.2 with fabric := { x.2.fabric with remote := x.2.fabric.remote ++ [(x.1, y.1.dst, y.2.1, y.2.2)] } }) s2
  let s4 := sent.foldl (fun s y =>
    let x := again s y.1
    { x.2 with fabric := { x.2.fabric with forwards := x.2.fabric.forwards ++ [(x.1, y.1.dst, y.2)] } }) s3
  s4.postRekey 2 u.rekey.epoch u.rekey.members

/-- REKEY_TIMEOUT (22 R530): the leader aborts after REKEYTO, and a member with it; held packets go on under the old key. -/
def execRekeyTimeout (s : State) : Out :=
  match s.fabric.opening.filter (fun y => decide (y.began.toNat + s.rekeyTime ≤ s.tai.toNat)), s.fabric.rekey with
  | some y, _ => .next (s.dropOpening y 3)
  | none, none => .next (match s.fabric.undo with | some u => s.unswitch u | none => s)
  | none, some x =>
    if x.leads = true ∧ s.tai.toNat < x.began.toNat + s.rekeyTime then .next s
    else
      let held := s.fabric.heldIn
      let s1 : State := { s with fabric := { s.fabric with rekey := none, heldIn := [] } }
      let s2 := ((s1.setDomState x.was).postRekey 2 x.epoch x.members).answerRekey x (put 3 56)
      .next (held.foldl (fun s k => s.takePacket k.1 k.2) s2)

/-! ### Sessions (22 R524, R525, R530) -/

/-- The digest stands in the ALLOW registers (22 R525, R532). -/
def State.allowed (s : State) (digest : List Word) : Bool :=
  (List.range 8).any fun i => (List.range 8).all fun w => s.pkgReg (1264 + 8 * i + w) == digest.getD w 0

/-- A joiner is accepted or refused (22 R525, R533). -/
def State.judgeJoin (s : State) (node : Nat) (digest : List Word) : State :=
  let ok := s.allowed digest
  let s1 : State := if ok then { s with fabric := { s.fabric with
      sessions := if s.fabric.sessions.contains node then s.fabric.sessions else s.fabric.sessions ++ [node]
      accepted := if s.fabric.accepted.contains node then s.fabric.accepted else s.fabric.accepted ++ [node] } } else s
  s1.postEvent 0 0 (put 0x19 56 ||| put (if ok then 3 else 2) 48 ||| put (node % 256) 40) (put (s.epoch % 2 ^ 16) 0) 0

/-- A joiner of the membership that a new leader opens sessions for has been refused: REKEY answers 5 (22 R525, R530). -/
def State.refuseOpening (s : State) (node : Nat) (digest : List Word) : State :=
  match s.fabric.opening with
  | some x =>
    if s.allowed digest = false ∧ x.members.testBit (node % 256) = true ∧ s.isMember node = false then s.dropOpening x 5 else s
  | none => s

/-- What an answer in a re-key adds: the node drained or switched. -/
def Rekey.heard (x : Rekey) (node : Nat) (switched : Bool) : Rekey :=
  if switched then { x with switched := x.switched ++ [node] } else { x with drained := x.drained ++ [node] }

/-- SPDM_MESSAGE (22 R524, R525, R530). -/
def execSpdmMessage (node : Nat) (msg : SpdmMsg) (s : State) : Out :=
  match msg with
  | .joinDigest digest =>
    if s.leads || s.fabric.opening.isSome then .next ((s.judgeJoin node digest).refuseOpening node digest).pushOpening else .next s
  | .joinAnswer accepted => .next (if s.domState = 0 ∧ accepted = true then s.setDomState 1 else s)
  | .endSession =>
    .next { s with fabric := { s.fabric with sessions := s.fabric.sessions.filter (· != node)
                                             accepted := s.fabric.accepted.filter (· != node) } }
  | .heartbeat answered =>
    if node = s.leader ∧ s.domState ≠ 0 then
      .next { s with fabric := { s.fabric with
        silentSince := if answered then none else some (s.fabric.silentSince.getD s.tai) } }
    else .next s
  | .drained =>
    .next ({ s with fabric := { s.fabric with rekey := s.fabric.rekey.map fun x => x.heard node false } } : State).pushRekey
  | .switched =>
    if s.fabric.undo.isSome ∧ node = s.leader then .next { s with fabric := { s.fabric with undo := none } }
    else .next ({ s with fabric := { s.fabric with rekey := s.fabric.rekey.map fun x => x.heard node true } } : State).pushRekey
  | .other => .next s

/-! ### Packets received -/

/-- PACKET_RECEIVE (22 R512, R514, R515, R527, R528, R531, R547). -/
def execPacketReceive (k : Packet) (auth : Bool) (s : State) : Out :=
  if isRequest k || 11 ≤ k.ptype then .next (s.takeRequest k auth) else .next s

/-- ACK_RECEIVE (22 R512, R515): responses and acknowledgements. -/
def execAckReceive (k : Packet) (auth : Bool) (s : State) : Out :=
  if k.ptype = 5 ∨ k.ptype = 6 then .next (s.takeAck k auth).pushRekey else .next s

/-- REJECT_RECEIVE (22 R515, R528). -/
def execRejectReceive (k : Packet) (auth : Bool) (s : State) : Out :=
  if k.ptype = 7 then .next (s.takeReject k auth).pushRekey else .next s

end Sys2Proof.Machine
end

