-- ==== Sys2Proof/Machine/Integer.lean ====
section
/-! DEFINITION. Integer, logic, bit, compare, select, move, bitfield and immediate instructions (04 R118-R126). -/

namespace Sys2Proof.Machine

/-! ### What they compute -/

/-- The quotient of DIV (01 R16): all ones for a zero divisor, the most negative value by -1 gives itself. -/
def sdivWord (a b : Word) : Word := if b = 0 then BitVec.allOnes 64 else a.sdiv b
/-- The quotient of DIVU (01 R16). -/
def udivWord (a b : Word) : Word := if b = 0 then BitVec.allOnes 64 else a.udiv b
/-- The remainder of REM (01 R16): the dividend for a zero divisor, otherwise with the sign of the dividend. -/
def sremWord (a b : Word) : Word := if b = 0 then a else a.srem b
/-- The remainder of REMU (01 R16). -/
def uremWord (a b : Word) : Word := if b = 0 then a else a.umod b

/-- Bits [127:64] of the signed product (04 R118). -/
def mulhWord (a b : Word) : Word := (a.signExtend 128 * b.signExtend 128).extractLsb' 64 64
/-- Bits [127:64] of the unsigned product (04 R118). -/
def mulhuWord (a b : Word) : Word := (a.zeroExtend 128 * b.zeroExtend 128).extractLsb' 64 64

/-- Signed minimum. -/
def sminWord (a b : Word) : Word := if a.sle b then a else b
/-- Signed maximum. -/
def smaxWord (a b : Word) : Word := if a.sle b then b else a
/-- Unsigned minimum. -/
def uminWord (a b : Word) : Word := if a.ule b then a else b
/-- Unsigned maximum. -/
def umaxWord (a b : Word) : Word := if a.ule b then b else a
/-- Magnitude; the most negative value gives itself (04 R118). -/
def absWord (a : Word) : Word := if a.msb then 0 - a else a

/-- The count of a shift or rotate: [5:0] of its operand (04 R120). -/
def shiftCount (b : Word) : Nat := fldN b 0 6

/-- Count of leading zero bits; 64 for 0 (04 R120). -/
def clzWord (a : Word) : Word := BitVec.ofNat 64 (64 - sigBits a.toNat)
/-- Count of trailing zero bits; 64 for 0 (04 R120). -/
def ctzWord (a : Word) : Word := if a = 0 then 64 else BitVec.ofNat 64 (sigBits (a &&& (0 - a)).toNat - 1)
/-- Count of one bits (04 R120). -/
def popcWord (a : Word) : Word := BitVec.ofNat 64 ((List.range 64).countP fun i => bitOf a i)
/-- Bits in reverse order (04 R120). -/
def brevWord (a : Word) : Word := ofLanes 1 ((List.range 64).map fun i => lane 1 a (63 - i))
/-- Bytes in reverse order (04 R120). -/
def bswapWord (a : Word) : Word := wordOf (bytesOf 8 a).reverse

/-- EXT: a byte, halfword or word extended to 64 bits (04 R122). -/
def extWord (mode : BitVec 4) (a : Word) : Word :=
  extendTo (2 ^ (mode.toNat % 4)) (mode.getLsbD 2) a

/-- The position of a bitfield (04 R123). -/
def bfPos (b : Word) : Nat := fldN b 0 6
/-- The length of a bitfield (04 R123). -/
def bfLen (b : Word) : Nat := min (fldN b 8 7) 64
/-- A mask of low ones. -/
def lowMask (len : Nat) : Word := BitVec.ofNat 64 (2 ^ len - 1)

/-- BFX (04 R123). -/
def bfxWord (signed : Bool) (a b : Word) : Word :=
  let len := bfLen b
  let f := (a >>> bfPos b) &&& lowMask len
  if signed && len != 0 && f.getLsbD (len - 1) then f - BitVec.ofNat 64 (2 ^ len) else f

/-- BFI (04 R123). -/
def bfiWord (d a b : Word) : Word :=
  let m := lowMask (bfLen b) <<< bfPos b
  (d &&& ~~~m) ||| ((a <<< bfPos b) &&& m)

/-- One half of a word, by number. -/
def halfOf (high : Bool) (w : Word) : BitVec 32 := if high then w.extractLsb' 32 32 else w.extractLsb' 0 32

/-- PACKLH (04 R122): the chosen half of `a` below the chosen half of `b`. -/
def packlhWord (mode : BitVec 4) (a b : Word) : Word :=
  halfOf (mode.getLsbD 1) b ++ halfOf (mode.getLsbD 0) a

/-- SPLAT (04 R122): lane 0 in every lane of the size. -/
def splatWord (mode : BitVec 4) (a : Word) : Word :=
  let n := 8 * 2 ^ (mode.toNat % 4)
  ofLanes n (List.replicate (64 / n) (lane n a 0))

/-- CLAMP (04 R122): min(max(d, a), b). -/
def clampWord (unsigned : Bool) (d a b : Word) : Word :=
  if unsigned then uminWord (umaxWord d a) b else sminWord (smaxWord d a) b

/-- MOVW (04 R126). -/
def movwWord (f : WForm) : Word := f.imm.zeroExtend 64 <<< (16 * f.hw.toNat)
/-- MOVW.INS (04 R126). -/
def movwInsWord (f : WForm) (d : Word) : Word :=
  (d &&& ~~~(0xFFFF#64 <<< (16 * f.hw.toNat))) ||| movwWord f

/-! ### Their meanings -/

/-- ADD (04 R118): a + b. -/
def execAdd (f : RForm) (s : State) : Out :=
  issue (viewR 0x00 f) (pureVal fun e => e.a + e.b) s

/-- SUB (04 R118): a - b. -/
def execSub (f : RForm) (s : State) : Out :=
  issue (viewR 0x01 f) (pureVal fun e => e.a - e.b) s

/-- MUL (04 R118): the low product. -/
def execMul (f : RForm) (s : State) : Out :=
  issue (viewR 0x02 f) (pureVal fun e => e.a * e.b) s

/-- MULH (04 R118): the high signed product. -/
def execMulh (f : RForm) (s : State) : Out :=
  issue (viewR 0x03 f) (pureVal fun e => mulhWord e.a e.b) s

/-- MULHU (04 R118): the high unsigned product. -/
def execMulhu (f : RForm) (s : State) : Out :=
  issue (viewR 0x04 f) (pureVal fun e => mulhuWord e.a e.b) s

/-- DIV (04 R118): the signed quotient. -/
def execDiv (f : RForm) (s : State) : Out :=
  issue (viewR 0x05 f) (pureVal fun e => sdivWord e.a e.b) s

/-- DIVU (04 R118): the unsigned quotient. -/
def execDivu (f : RForm) (s : State) : Out :=
  issue (viewR 0x06 f) (pureVal fun e => udivWord e.a e.b) s

/-- REM (04 R118): the signed remainder. -/
def execRem (f : RForm) (s : State) : Out :=
  issue (viewR 0x07 f) (pureVal fun e => sremWord e.a e.b) s

/-- REMU (04 R118): the unsigned remainder. -/
def execRemu (f : RForm) (s : State) : Out :=
  issue (viewR 0x08 f) (pureVal fun e => uremWord e.a e.b) s

/-- MIN (04 R118): the signed minimum. -/
def execMin (f : RForm) (s : State) : Out :=
  issue (viewR 0x09 f) (pureVal fun e => sminWord e.a e.b) s

/-- MAX (04 R118): the signed maximum. -/
def execMax (f : RForm) (s : State) : Out :=
  issue (viewR 0x0A f) (pureVal fun e => smaxWord e.a e.b) s

/-- MINU (04 R118): the unsigned minimum. -/
def execMinu (f : RForm) (s : State) : Out :=
  issue (viewR 0x0B f) (pureVal fun e => uminWord e.a e.b) s

/-- MAXU (04 R118): the unsigned maximum. -/
def execMaxu (f : RForm) (s : State) : Out :=
  issue (viewR 0x0C f) (pureVal fun e => umaxWord e.a e.b) s

/-- ABS (04 R118): the magnitude. -/
def execAbs (f : RForm) (s : State) : Out :=
  issue (viewR 0x0D f) (pureVal fun e => absWord e.a) s

/-- NEG (04 R118): 0 - a. -/
def execNeg (f : RForm) (s : State) : Out :=
  issue (viewR 0x0E f) (pureVal fun e => 0 - e.a) s

/-- MAD (04 R118): d + a × b. -/
def execMad (f : RForm) (s : State) : Out :=
  issue (viewR 0x0F f) (pureVal fun e => e.d + e.a * e.b) s

/-- AND (04 R120). -/
def execAnd (f : RForm) (s : State) : Out :=
  issue (viewR 0x10 f) (pureVal fun e => e.a &&& e.b) s

/-- OR (04 R120). -/
def execOr (f : RForm) (s : State) : Out :=
  issue (viewR 0x11 f) (pureVal fun e => e.a ||| e.b) s

/-- XOR (04 R120). -/
def execXor (f : RForm) (s : State) : Out :=
  issue (viewR 0x12 f) (pureVal fun e => e.a ^^^ e.b) s

/-- ANDN (04 R120). -/
def execAndn (f : RForm) (s : State) : Out :=
  issue (viewR 0x13 f) (pureVal fun e => e.a &&& ~~~e.b) s

/-- ORN (04 R120). -/
def execOrn (f : RForm) (s : State) : Out :=
  issue (viewR 0x14 f) (pureVal fun e => e.a ||| ~~~e.b) s

/-- XNOR (04 R120). -/
def execXnor (f : RForm) (s : State) : Out :=
  issue (viewR 0x15 f) (pureVal fun e => ~~~(e.a ^^^ e.b)) s

/-- SHL (04 R120). -/
def execShl (f : RForm) (s : State) : Out :=
  issue (viewR 0x16 f) (pureVal fun e => e.a <<< shiftCount e.b) s

/-- SHR (04 R120). -/
def execShr (f : RForm) (s : State) : Out :=
  issue (viewR 0x17 f) (pureVal fun e => e.a >>> shiftCount e.b) s

/-- SAR (04 R120). -/
def execSar (f : RForm) (s : State) : Out :=
  issue (viewR 0x18 f) (pureVal fun e => e.a.sshiftRight (shiftCount e.b)) s

/-- ROL (04 R120). -/
def execRol (f : RForm) (s : State) : Out :=
  issue (viewR 0x19 f) (pureVal fun e => e.a.rotateLeft (shiftCount e.b)) s

/-- ROR (04 R120). -/
def execRor (f : RForm) (s : State) : Out :=
  issue (viewR 0x1A f) (pureVal fun e => e.a.rotateRight (shiftCount e.b)) s

/-- CLZ (04 R120). -/
def execClz (f : RForm) (s : State) : Out :=
  issue (viewR 0x1B f) (pureVal fun e => clzWord e.a) s

/-- CTZ (04 R120). -/
def execCtz (f : RForm) (s : State) : Out :=
  issue (viewR 0x1C f) (pureVal fun e => ctzWord e.a) s

/-- POPC (04 R120). -/
def execPopc (f : RForm) (s : State) : Out :=
  issue (viewR 0x1D f) (pureVal fun e => popcWord e.a) s

/-- BREV (04 R120). -/
def execBrev (f : RForm) (s : State) : Out :=
  issue (viewR 0x1E f) (pureVal fun e => brevWord e.a) s

/-- BSWAP (04 R120). -/
def execBswap (f : RForm) (s : State) : Out :=
  issue (viewR 0x1F f) (pureVal fun e => bswapWord e.a) s

/-- CMP (04 R121): 1 when the condition of MOD holds. -/
def execCmp (f : RForm) (s : State) : Out :=
  issue (viewR 0x20 f) (pureVal fun e => boolWord (cmpHolds e.v.mod.toNat e.a e.b)) s

/-- SEL (04 R122): a when the predicate of MOD is 1, else b. -/
def execSel (f : RForm) (s : State) : Out :=
  issue (viewR 0x21 f) (pureVal fun e => if predBit e.C.p e.v.mod.toNat then e.a else e.b) s

/-- MOV (04 R122): a. -/
def execMov (f : RForm) (s : State) : Out :=
  issue (viewR 0x22 f) (pureVal fun e => e.a) s

/-- EXT (04 R122). -/
def execExt (f : RForm) (s : State) : Out :=
  issue (viewR 0x23 f) (pureVal fun e => extWord e.v.mod e.a) s

/-- BFX (04 R122, R123). -/
def execBfx (f : RForm) (s : State) : Out :=
  issue (viewR 0x24 f) (pureVal fun e => bfxWord (e.v.mod.getLsbD 0) e.a e.b) s

/-- BFI (04 R122, R123). -/
def execBfi (f : RForm) (s : State) : Out :=
  issue (viewR 0x25 f) (pureVal fun e => bfiWord e.d e.a e.b) s

/-- PACKLH (04 R122). -/
def execPacklh (f : RForm) (s : State) : Out :=
  issue (viewR 0x26 f) (pureVal fun e => packlhWord e.v.mod e.a e.b) s

/-- SPLAT (04 R122). -/
def execSplat (f : RForm) (s : State) : Out :=
  issue (viewR 0x27 f) (pureVal fun e => splatWord e.v.mod e.a) s

/-- CLAMP (04 R122, R124). -/
def execClamp (f : RForm) (s : State) : Out :=
  issue (viewR 0x28 f) (pureVal fun e => clampWord (e.v.mod.getLsbD 0) e.d e.a e.b) s

/-- ADDI (04 R125): b is the sign-extended immediate. -/
def execAddi (f : IForm) (s : State) : Out :=
  issue (viewI 0x30 f) (pureVal fun e => e.a + e.b) s

/-- MULI (04 R125): b is the sign-extended immediate. -/
def execMuli (f : IForm) (s : State) : Out :=
  issue (viewI 0x31 f) (pureVal fun e => e.a * e.b) s

/-- ANDI (04 R125): b is the sign-extended immediate. -/
def execAndi (f : IForm) (s : State) : Out :=
  issue (viewI 0x32 f) (pureVal fun e => e.a &&& e.b) s

/-- ORI (04 R125): b is the sign-extended immediate. -/
def execOri (f : IForm) (s : State) : Out :=
  issue (viewI 0x33 f) (pureVal fun e => e.a ||| e.b) s

/-- XORI (04 R125): b is the sign-extended immediate. -/
def execXori (f : IForm) (s : State) : Out :=
  issue (viewI 0x34 f) (pureVal fun e => e.a ^^^ e.b) s

/-- SHLI (04 R125): b is the sign-extended immediate. -/
def execShli (f : IForm) (s : State) : Out :=
  issue (viewI 0x35 f) (pureVal fun e => e.a <<< shiftCount e.b) s

/-- SHRI (04 R125): b is the sign-extended immediate. -/
def execShri (f : IForm) (s : State) : Out :=
  issue (viewI 0x36 f) (pureVal fun e => e.a >>> shiftCount e.b) s

/-- SARI (04 R125): b is the sign-extended immediate. -/
def execSari (f : IForm) (s : State) : Out :=
  issue (viewI 0x37 f) (pureVal fun e => e.a.sshiftRight (shiftCount e.b)) s

/-- ROLI (04 R125): b is the sign-extended immediate. -/
def execRoli (f : IForm) (s : State) : Out :=
  issue (viewI 0x38 f) (pureVal fun e => e.a.rotateLeft (shiftCount e.b)) s

/-- CMPI (04 R125): b is the sign-extended immediate. -/
def execCmpi (f : IForm) (s : State) : Out :=
  issue (viewI 0x39 f) (pureVal fun e => boolWord (cmpHolds e.v.mod.toNat e.a e.b)) s

/-- MINI (04 R125): b is the sign-extended immediate. -/
def execMini (f : IForm) (s : State) : Out :=
  issue (viewI 0x3A f) (pureVal fun e => sminWord e.a e.b) s

/-- MAXI (04 R125): b is the sign-extended immediate. -/
def execMaxi (f : IForm) (s : State) : Out :=
  issue (viewI 0x3B f) (pureVal fun e => smaxWord e.a e.b) s

/-- MOVI (04 R125): b is the sign-extended immediate. -/
def execMovi (f : IForm) (s : State) : Out :=
  issue (viewI 0x3C f) (pureVal fun e => e.b) s

/-- MOVW (04 R126): IMM16 at its halfword, the rest 0. -/
def execMovw (f : WForm) (s : State) : Out :=
  issue (viewW 0x3D f) (pureVal fun _ => movwWord f) s

/-- MOVW.INS (04 R126): IMM16 replaces its halfword of the destination. -/
def execMovwIns (f : WForm) (s : State) : Out :=
  issue (viewW 0x3D f) (pureVal fun e => movwInsWord f e.d) s

end Sys2Proof.Machine
end

