-- ==== Sys2Proof/Machine/Packed.lean ====
section
/-! DEFINITION. Packed integer instructions (05 R152-R156). -/

namespace Sys2Proof.Machine

/-- The lane width of a packed MOD (02 R62). -/
def laneWidth (mode : BitVec 4) : Nat := 8 * 2 ^ (mode.toNat % 4)

/-- The format tag of a packed result (05 R138): by its lane size. -/
def packedTag (mode : BitVec 4) : BitVec 3 :=
  match mode.toNat % 4 with
  | 0 => 4
  | 1 => 3
  | _ => 0

/-- An integer saturated to a lane (01 R17). -/
def satLane (unsigned : Bool) (n : Nat) (x : Int) : BitVec n :=
  if unsigned then BitVec.ofInt n (max 0 (min x (2 ^ n - 1)))
  else BitVec.ofInt n (max (-(2 ^ (n - 1))) (min x (2 ^ (n - 1) - 1)))

/-- A lane as an integer. -/
def laneInt {n : Nat} (unsigned : Bool) (x : BitVec n) : Int := if unsigned then x.toNat else x.toInt

/-- One result lane for each lane pair, as a tagged word. -/
def lanesRes (e : Env) (g : (n : Nat) → Nat → BitVec n → BitVec n → BitVec n) : Res :=
  let n := laneWidth e.v.mod
  .val (ofLanes n ((List.range (64 / n)).map fun i => g n i (lane n e.a i) (lane n e.b i))) (packedTag e.v.mod)

/-- MOD[2]: unsigned readings, or the per-lane counts of the shifts. -/
def Env.m2 (e : Env) : Bool := e.v.mod.getLsbD 2

/-- The count of lane shifts (05 R153). -/
def vCount {n : Nat} (e : Env) (y : BitVec n) : Nat := if e.m2 then y.toNat else fldN e.b 0 6

/-- The condition of VCMP (05 R154). -/
def vcmpHolds {n : Nat} (cond : Nat) (x y : BitVec n) : Bool :=
  match cond % 4 with
  | 0 => x == y
  | 1 => x.slt y
  | 2 => x.ult y
  | _ => (x &&& y) != 0

/-- VPERM's lane (05 R155). -/
def vpermLane (n i : Nat) (a b : Word) : BitVec n :=
  let sel := fldN b (4 * i) 4
  if sel ≥ 8 then 0 else lane n a (sel % (64 / n))

/-- VPACKS (05 R156): `n` is the width of the source lanes, 16 or 32. -/
def vpacksWord (unsigned : Bool) (n : Nat) (a b : Word) : Word :=
  ofLanes (n / 2)
    (((List.range (64 / n)).map fun i => satLane unsigned (n / 2) (lane n a i).toInt) ++
     ((List.range (64 / n)).map fun i => satLane unsigned (n / 2) (lane n b i).toInt))

/-- VADD (05 R152). -/
def execVadd (f : RForm) (s : State) : Out :=
  issue (viewR 0x70 f) (fun e s => .ok (s, lanesRes e fun _ _ x y => x + y)) s

/-- VSUB (05 R152). -/
def execVsub (f : RForm) (s : State) : Out :=
  issue (viewR 0x71 f) (fun e s => .ok (s, lanesRes e fun _ _ x y => x - y)) s

/-- VADDS (05 R152). -/
def execVadds (f : RForm) (s : State) : Out :=
  issue (viewR 0x72 f) (fun e s => .ok (s, lanesRes e fun n _ x y => satLane e.m2 n (laneInt e.m2 x + laneInt e.m2 y))) s

/-- VSUBS (05 R152). -/
def execVsubs (f : RForm) (s : State) : Out :=
  issue (viewR 0x73 f) (fun e s => .ok (s, lanesRes e fun n _ x y => satLane e.m2 n (laneInt e.m2 x - laneInt e.m2 y))) s

/-- VMUL (05 R152). -/
def execVmul (f : RForm) (s : State) : Out :=
  issue (viewR 0x74 f) (fun e s => .ok (s, lanesRes e fun _ _ x y => x * y)) s

/-- VMULH (05 R152). -/
def execVmulh (f : RForm) (s : State) : Out :=
  issue (viewR 0x75 f) (fun e s => .ok (s, lanesRes e fun n _ x y => BitVec.ofInt n (Int.fdiv (laneInt e.m2 x * laneInt e.m2 y) (2 ^ n)))) s

/-- VMIN (05 R152). -/
def execVmin (f : RForm) (s : State) : Out :=
  issue (viewR 0x76 f) (fun e s => .ok (s, lanesRes e fun _ _ x y => if laneInt e.m2 x ≤ laneInt e.m2 y then x else y)) s

/-- VMAX (05 R152). -/
def execVmax (f : RForm) (s : State) : Out :=
  issue (viewR 0x77 f) (fun e s => .ok (s, lanesRes e fun _ _ x y => if laneInt e.m2 x ≤ laneInt e.m2 y then y else x)) s

/-- VABS (05 R152). -/
def execVabs (f : RForm) (s : State) : Out :=
  issue (viewR 0x78 f) (fun e s => .ok (s, lanesRes e fun _ _ x _ => if x.msb then 0 - x else x)) s

/-- VSHL (05 R152-R153). -/
def execVshl (f : RForm) (s : State) : Out :=
  issue (viewR 0x79 f) (fun e s => .ok (s, lanesRes e fun _ _ x y => x <<< vCount e y)) s

/-- VSHR (05 R152-R153). -/
def execVshr (f : RForm) (s : State) : Out :=
  issue (viewR 0x7A f) (fun e s => .ok (s, lanesRes e fun _ _ x y => x >>> vCount e y)) s

/-- VSAR (05 R152-R153). -/
def execVsar (f : RForm) (s : State) : Out :=
  issue (viewR 0x7B f) (fun e s => .ok (s, lanesRes e fun _ _ x y => x.sshiftRight (vCount e y))) s

/-- VCMP (05 R152, R154): lane masks; the condition is some lane's. -/
def execVcmp (f : RForm) (s : State) : Out :=
  issue (viewR 0x7C f) (fun e s =>
    let c := e.v.mod.toNat / 4
    let r := lanesRes e fun n _ x y => if vcmpHolds c x y then BitVec.allOnes n else 0
    .ok (s, r)) s

/-- VSUM (05 R152, R156): the exact sum of the lanes. -/
def execVsum (f : RForm) (s : State) : Out :=
  issue (viewR 0x7D f) (fun e s =>
    let n := laneWidth e.v.mod
    .ok (s, .val (BitVec.ofInt 64
      (((List.range (64 / n)).map fun i => laneInt e.m2 (lane n e.a i)).foldl (· + ·) 0)))) s

/-- VPERM (05 R155). -/
def execVperm (f : RForm) (s : State) : Out :=
  issue (viewR 0x7E f) (fun e s => .ok (s, lanesRes e fun n i _ _ => vpermLane n i e.a e.b)) s

/-- VPACKS (05 R156): a .h result has INT8 lanes, a .w result INT16 lanes. -/
def execVpacks (f : RForm) (s : State) : Out :=
  issue (viewR 0x7F f) (fun e s =>
    .ok (s, .val (vpacksWord e.m2 (laneWidth e.v.mod) e.a e.b) (if e.v.mod.toNat % 4 = 1 then 4 else 3))) s

end Sys2Proof.Machine
end

