-- ==== Sys2Proof/Machine/Predicate.lean ====
section
/-! DEFINITION. Predicate and context instructions (04 R127-R131). -/

namespace Sys2Proof.Machine

/-- PSET's new predicate byte (04 R127). -/
def psetByte (p : BitVec 8) (a b : Word) : BitVec 8 := (p &&& ~~~(b.setWidth 8)) ||| (a.setWidth 8 &&& b.setWidth 8)

/-- PLOGIC's bit: the entry of the table for the two predicates (04 R127, R129). -/
def plogicBit (v : View) (p : BitVec 8) : Bool :=
  v.mod.getLsbD (2 * (predBit p v.sa.toNat).toNat + (predBit p v.sb.toNat).toNat)

/-- PSET (04 R127, R129): the masked predicates are written before PACT. -/
def execPset (f : RForm) (s : State) : Out :=
  issue (viewR 0x40 f)
    (fun e s => .ok (s.modCtx e.p e.c fun C => { C with p := psetByte C.p e.a e.b }, .none)) s

/-- PGET (04 R127): the predicate byte. -/
def execPget (f : RForm) (s : State) : Out :=
  issue (viewR 0x41 f) (pureVal fun e => e.C.p.zeroExtend 64) s

/-- PLOGIC (04 R127, R129). -/
def execPlogic (f : RForm) (s : State) : Out :=
  issue (viewR 0x42 f) (pureVal fun e => boolWord (plogicBit e.v e.C.p)) s

/-- NOP (04 R130): only its guard, dequeues and PACT. -/
def execNop (f : RForm) (s : State) : Out :=
  issue (viewR 0x43 f) (fun _ s => .ok (s, .none)) s

/-- HALT (04 R131): the context halts after the other effects. -/
def execHalt (f : RForm) (s : State) : Out :=
  issue (viewR 0x44 f) (fun e s => .ok (s.modCtx e.p e.c fun C => { C with rstate := .halt }, .none)) s

end Sys2Proof.Machine
end

