-- ==== Sys2Proof/Machine/Restore.lean ====
section
/-! DEFINITION. RESTORE and rollback (16 R440, R442-R445). -/

namespace Sys2Proof.Machine

/-- RESTORE's issue fault (15 R415, 16 R442). -/
def restoreFaults (e : Env) (_ : State) : Option Flt :=
  if fldN e.b 30 34 ≠ 0 ∨ fldN e.b 14 2 ≠ 0 ∨ fldN e.b 6 2 ≠ 0 then some fltBounds else none

/-- RESTORE (16 R440). -/
def execRestore (f : RForm) (s : State) : Out := issue (viewR 0xFB f) (portEffect .restore modOf restoreFaults) s

/-! ### Placement -/

/-- Where an image came from and goes: the first cluster of the source and of the new placement, the elements and clusters of
the source, the new die and region. -/
structure Placing where
  src : Nat
  dst : Nat
  elems : List Nat
  clusters : List Nat
  d : Nat
  g : Nat
  deriving DecidableEq, Repr

/-- The placing of an image at cluster base `cbase` of die `d` as region `g`. -/
def placingOf (img : SaveImage) (d g cbase : Nat) : Placing :=
  let src := 32 * img.die + img.cbase
  { src := src, dst := 32 * d + cbase, d := d, g := g
    elems := img.recs.filterMap fun b => match b with | .channels c e _ => some (16 * (src + c) + e) | _ => none
    clusters := img.recs.filterMap fun b => match b with | .cluster c _ _ => some (src + c) | _ => none }

/-- The cluster of a record as placed: the field of its header wraps as it was written (16 R437, R442). -/
def Placing.at_ (m : Placing) (c : Nat) : Nat := (m.dst + c) % 256
/-- A cluster of the source as placed; another stays. -/
def Placing.cluster (m : Placing) (cl : Nat) : Nat := if m.clusters.contains cl then cl - m.src + m.dst else cl
/-- An element of the source as placed; another unit stays. -/
def Placing.elem (m : Placing) (e : Nat) : Nat := if m.elems.contains e then e - 16 * m.src + 16 * m.dst else e
/-- What a relocated register moves by (16 R442). -/
def Placing.shift (m : Placing) : Word := put m.dst 22 - put m.src 22
/-- Identifier of a copy on the new die. -/
def Placing.copyId (m : Placing) (id : Nat) : Nat := 128 * m.d + id % 128

/-- A request to be reissued (16 R442, 20 R491): it starts anew, with its operands as recorded, which are no relocated values
(03 R86, log entry 97). -/
def Placing.req (_ : Placing) (r : Req) : Req :=
  { r with code := 0, wide := 0, flying := false, stage := 0, resent := false, data := [], miss := none }

/-- A packet of a task-out queue: its sender is placed, its destination is an absolute number (08 R244). -/
def Placing.net (m : Placing) (n : NetPkt) : NetPkt := { n with src := m.elem n.src }

/-- A copy as placed: its binder moves, and its descriptor stands as recorded (03 R86, log entry 97). -/
def Placing.copy (m : Placing) (c : Copy) : Copy := { c with proc := m.elem c.proc }

/-! ### Writing the records (16 R442) -/

/-- A context as restored: the registers that RELOC records of the launch image name move. -/
def Placing.ctx (m : Placing) (launch : List ImgRec) (reloc : List Nat) (c e k : Nat) (C : Ctx) : Ctx :=
  match ctxRec launch c e k with
  | none => C
  | some x => { C with x := Vector.ofFn fun i => vget C.x i.val + (if reloc.contains (x.at_ + 2 + i.val) then m.shift else 0) }

/-- A unit with one context restored and its dirty bit set (16 R436). The faults it holds come with the unit's channels. -/
def Proc.restoreCtx (P : Proc) (k : Nat) (C : Ctx) : Proc :=
  { P with ctxs := vset P.ctxs k { C with faults := (P.ctx k).faults, stepOver := (P.ctx k).stepOver }, dirtyCtx := P.dirtyCtx ||| (1#4 <<< (k % 4)) }

/-- The channels of a unit as restored: its unfilled reservations' requests are reissued, and its contexts hold the faults they
held. -/
def Placing.channels (m : Placing) (U P : Proc) : Proc :=
  { P with
    ctxs := Vector.ofFn fun k =>
      { vget P.ctxs k.val with faults := (vget U.ctxs k.val).faults, stepOver := (vget U.ctxs k.val).stepOver }
    ins := Vector.ofFn fun i => { vget U.ins i.val with link := (vget P.ins i.val).link, linkSrc := (vget P.ins i.val).linkSrc }
    outs := U.outs, lanes := U.lanes, ml := U.ml, el := U.el, taskOut := U.taskOut.map m.net, parked := U.held.map m.req }

/-- The tables of a unit as restored. -/
def restoreTables (U P : Proc) : Proc :=
  { P with
    ins := Vector.ofFn fun i => { vget P.ins i.val with conf := (vget U.ins i.val).conf }
    sels := U.sels, owners := U.owners, hold := U.hold, openTasks := U.openTasks, last := U.last, ptr := U.ptr, head := U.head
    trace := U.trace
    slots := P.slots.map fun x => (x.1, { x.2 with w := (U.slots.get Slot.reset x.1).w }) }

/-- An operator's part as placed: steered tokens and bound copies follow. -/
def Placing.oper (m : Placing) (U : Cluster) : Cluster :=
  { U with
    cvt := U.cvt.map fun x => (x.1, { x.2 with steerQ := x.2.steerQ.map fun y => { y with port := movePort m.cluster y.port } })
    cnt := U.cnt.map fun x => (x.1, { x.2 with copy := x.2.copy.map m.copyId }) }

/-- An engine's or graph's part merged into a cluster (11 R336, 12 R362). -/
def Placing.engine (m : Placing) (now : Nat) (U C : Cluster) : Cluster :=
  let C1 := U.mx.foldl (fun C u =>
    let x := C.mx.get Mx.reset u.1
    let x1 : Mx := u.2.tmpl.foldl (fun x t => x.setSlot t.1 (t.2.map fun T => { T with proc := m.elem T.proc, region := some m.g })) x
    let x2 : Mx := { x1 with
      codebook := u.2.codebook
      queue := x1.queue ++ u.2.queue.map fun e => { e with born := now - e.born } }
    { C with mx := C.mx.set Mx.reset u.1 x2 }) C
  U.esp.foldl (fun C u =>
    let x : Esp := { u.2 with proc := m.elem u.2.proc, region := some m.g }
    let C2 : Cluster := { C with esp := C.esp.set Esp.reset u.1 x }
    match x.nrm with
    | some j => { C2 with nrm := C2.nrm.set Nrm.reset j { C2.nrm.get Nrm.reset j with graph := some u.1 } }
    | none => C2) C1

/-- Parameter registers of an operator whose recorded words are other than its recorded part gives: an image that was edited
(16 R437, R442; log entry 8). -/
def State.restoreParams (s : State) (cl k : Nat) (regs : List Word) : State :=
  (((List.range 4096).filter fun i => (s.operReg cl k i).isSome).zip regs).foldl (fun s x =>
    if s.operReg cl k x.1 = some x.2 then s
    else match s.paramWrite (.oper cl k) x.1 x.2 with | .ok s1 => s1 | .error _ => s) s

/-- The words of scratchpad that a record writes, by fabric address. -/
def SaveBody.writes (m : Placing) : SaveBody → List (Nat × Word)
  | .frame c f bs => (wordsOf bs).zipIdx.map fun x => (frameByte (m.at_ c) f 0 + 8 * x.2, x.1)
  | .cluster c _ sync => sync.zipIdx.map fun x => (syncAddr (m.at_ c) x.2, x.1)
  | _ => []

/-- Writes one record over the load, but for words of scratchpad (16 R442). -/
def State.restoreRec (m : Placing) (launch : List ImgRec) (reloc : List Nat) (s : State) (b : SaveBody) : State :=
  let el (c e : Nat) : Nat := 16 * m.at_ c + e
  match b with
  | .context c e k C => s.modProc (el c e) fun P => P.restoreCtx k (m.ctx launch reloc c e k C)
  | .slots c e slots => s.modProc (el c e) fun P => { P with slots := slots, dirtySlots := true }
  | .channels c e U => s.modProc (el c e) (m.channels U)
  | .tables c e U => s.modProc (el c e) (restoreTables U)
  | .caught _ _ items => s.modRegion m.d m.g fun R =>
      { R with entering := R.entering ++ items.map fun x => x.2.move m.at_ }
  | .operator c k regs U => (s.modCluster (m.at_ c) (copyOp k (m.oper U))).restoreParams (m.at_ c) k regs
  | .frame _ _ _ => s
  | .cluster c U _ => s.modCluster (m.at_ c) fun C => { C with tiles := U.tiles, tags := U.tags }
  | .router c r U =>
    let R := s.router (m.at_ c) r
    s.setRouter (m.at_ c) r { U with inq := R.inq, stuck := R.stuck, passWp := R.passWp }
  | .engine c _ U => s.modCluster (m.at_ c) (m.engine (s.islandCycle (m.at_ c)) U)
  | .copy id c => s.modDie m.d fun D => { D with copies := D.copies.set none (id % 128) (some (m.copy c)) }

/-- Writes a save image, but for words of scratchpad, over the load of its launch image: contexts without a record take the state RUN gave them, pending
position changes are applied, and caught items enter while there is room (16 R442). -/
def State.restoreAll (s : State) (m : Placing) (launch : List ImgRec) (img : SaveImage) : State :=
  let reloc := relocWords launch
  let s1 := (s.region m.d m.g).elems.foldl (fun s e => s.modProc e startElement) s
  let s2 := img.recs.foldl (State.restoreRec m launch reloc) s1
  let R := s2.region m.d m.g
  (s2.applyPending R.routers).enterAll m.d m.g R.entering.length

/-! ### Work that moves (16 R443) -/

/-- A placed element holds a task that CANCEL has ended while the element's state stood in an image: an open-task entry of it is
marked cancelled, and its packet is gone (06 R188, 13 R381; log entry 111). -/
def State.dropCancelled (s : State) (d g : Nat) : State :=
  let R := s.region d g
  let live (e idx : Nat) : Bool := s.dies.any fun D => D.2.tasks.any fun t => t.job == R.job && t.idx == idx && t.st == .dispatched e
  let keep (e : Nat) (k : TaskPkt) : Bool := k.task == 0xFFFF || live e k.task.toNat
  let s1 := R.elems.foldl (fun s e => s.modProc e fun P => { P with
    lanes := P.lanes.map fun l => l.filter (keep e)
    openTasks := P.openTasks.map fun o => { o with cancelled := o.cancelled || !live e o.task.toNat } }) s
  s1.modRegion d g fun R => { R with entering := R.entering.filter fun x => match x with | .packet e k => keep e k | _ => true }

/-- The open launches of a SAVED region's graph move to the new region's, and the source's counter falls to 0 naming it. What named
the SAVED region's units names the placed ones, and its waiting events are theirs. -/
def State.moveGraph (s : State) (sd sg d g : Nat) : State :=
  let old := 64 * sd + sg
  let new := 64 * d + g
  let shift (e : Nat) : Nat := e + 16 * (32 * d + (s.region d g).cbase) - 16 * (32 * sd + (s.region sd sg).cbase)
  let mine (c : Nat × Counter) : Bool := keyLevel c.1 == 1 && c.2.isOpen && c.2.up == old
  let n := ((List.range 8).map fun d => (s.die d).counters.countP mine).sum
  let s1 := (List.range 8).foldl (fun s d => s.modDie d fun D =>
    { D with counters := D.counters.map fun c => if mine c then (c.1, { c.2 with up := new }) else c }) s
  let k := cKey 2 0 g
  let s2 := (s1.setCounter d k { s1.counter d k with count := (s1.counter d k).count + n }).renameUnits
    (fun p => match savedAt p with | some x => if x.1 = sd ∧ x.2.1 = sg then shift x.2.2 else p | none => p) (fun _ _ _ => true) id
  let events := (s.region sd sg).entering.map fun x => match x with | .event e w => Caught.event (shift e) w | y => y
  let s3 := (s2.modRegion d g fun R => { R with entering := R.entering ++ events }).dropCancelled d g
  let k' := cKey 2 0 sg
  let s4 := (s3.setCounter sd k' { s3.counter sd k' with moved := some (256 * d + g) }).closeCounter sd k' 1
  s4.modRegion sd sg fun _ => Region.reset

/-! ### RESTORE (16 R442) -/

/-- The unit, router or frame of a record belongs to the region that an image's launch records place: otherwise the image is
malformed. A region may have bound engines in other clusters of its job, and its routers may have held tokens for other units
(15 R407; 16 R441). -/
def recordFits (launch : List ImgRec) (b : SaveBody) : Bool :=
  let elem (c e : Nat) : Bool := (namedElems launch).contains (c, e)
  match b with
  | .context c e _ _ | .slots c e _ | .channels c e _ | .tables c e _ | .router c e _ => elem c e
  | .operator c k _ _ => elem c (k % 16)
  | .frame c _ _ => (namedElems launch).any fun x => x.1 == c
  | .cluster c _ _ => (namedClusters launch).contains c
  | .caught _ _ items => items.all fun x => match x.2 with
      | .packet e _ | .event e _ => elem (e / 16) (e % 16)
      | .token _ _ => true
  | .engine _ _ _ | .copy _ _ => true

/-- An engine slot, array or copy entry that the image needs is taken (16 R442). -/
def State.placeTaken (s : State) (m : Placing) (img : SaveImage) : Bool :=
  img.recs.any fun b => match b with
    | .engine c _ U =>
      let C := s.cluster (m.at_ c)
      (U.mx.any fun u => u.2.tmpl.any fun t => ((C.mx.get Mx.reset u.1).slot t.1).isSome) ||
        U.esp.any fun u => (C.esp.get Esp.reset u.1).st != .free
    | .copy id _ => !s.entryFree (128 * m.d + id % 128) ((s.die m.d).copies.get none (id % 128))
    | _ => false

/-- A restore into region `g` of die `d` goes on: one word of scratchpad is written (20 R490), or it has ended, the work of the SAVED
region whose image it was has moved, and `f` follows. None: no restore of this request is in progress there. -/
def State.fillStep (s : State) (d g : Nat) (r : Req) (f : State → Served) : Option Served :=
  match (s.region d g).filling with
  | none => none
  | some x =>
    if x.rid ≠ r.rid then none
    else match x.writes with
      | y :: ys => match s.closeFor y.1 8 with
        | none => some (.wait s)
        | some s1 => some (.park ((s1.swrite y.1 (bytesOf 8 y.2)).modRegion d g fun R => { R with filling := some { x with writes := ys } }) r)
      | [] =>
        let s1 := s.modRegion d g fun R => { R with filling := none }
        some (f (match x.source with | some y => s1.moveGraph y.1 y.2 d g | none => s1))

/-- RESTORE on its two images: `launch` the words of the launch image (16 R442, R443). The words of scratchpad follow one by one. -/
def State.restoreWith (s : State) (p : Nat) (r : Req) (img : SaveImage) (launch : List Word) : Served :=
  let d := dieOf p
  let g := fldN r.b 0 6
  let job := fldN r.b 16 8
  let cbase := fldN r.b 8 5
  let rsel := fldN r.b 24 6
  let core := (p - 4096) % 4
  match parseImage launch with
  | none => .word s (loadWord 2 g)
  | some all =>
    if hasRegion all rsel = false then .word s (loadWord 2 g)
    else
      let rs := regionRecs all rsel
      let m := placingOf img d g cbase
      let st := s.loadStatus d job cbase g all rs
      if img.recs.all (recordFits rs) = false then .word s (loadWord 7 g)
      else if st ≠ 0 then .word (if st = 1 then s.postBadSlot d core cbase g all (BitVec.ofNat 64 img.launch) else s) (loadWord st g)
      else if s.placeTaken m img then .word s (loadWord 5 g)
      else
        let s1 := (s.loadRegion d g job cbase rsel img.launch core rs).restoreAll m rs img
        let src := s1.region img.die img.region
        let moves := if src.st = .saved ∧ src.savedAt = img.time.toNat ∧ img.cut ≠ 0 then some (img.die, img.region) else none
        .park (s1.modRegion d g fun R =>
          { R with st := .frozen, filling := some { rid := r.rid, writes := img.recs.flatMap (SaveBody.writes m), source := moves } }) r

/-- The state of the launch image's object, as `imageState`, once `k` words are in hand; then the image. -/
def State.launchImage (s : State) (p : Nat) (r : Req) (w k : Nat) (notSealed bad : State → Served)
    (f : List Word → State → Served) : Served :=
  if s.ownNode (wnNode w) then
    (if sealedCode (objCode (s.obj (wnSerial w)).st) then s.readImage p r w k bad f else notSealed s)
  else match r.data.drop k with
    | [] => s.objectAtHome p r w 0
    | x :: _ => if sealedCode (fldN x 0 4) then s.readImage p r w (k + 1) bad f else notSealed s

/-- Word at which the object of a wide address ends, counted from the address. -/
def State.wordsLeft (s : State) (w : Nat) : Nat :=
  match s.sizeOf w with
  | some n => (n - wnOff w) / 8
  | none => 2 ^ 56

/-- Reads a save image whole from wide address `w`: as many words as its records' headers make it (16 R437, R442). -/
def State.readSave (s : State) (p : Nat) (r : Req) (w : Nat) (f : List Word → State → Served) : Served :=
  s.readWords p r w (saveNeed (s.wordsLeft w) r.data) 0 f

/-- Words in hand once a save image of `n` words has been read: its own, and the one at which the chain of its records ended. -/
def State.saveTaken (s : State) (w n : Nat) : Nat := if n < s.wordsLeft w then n + 1 else n

/-- RESTORE once its codec serves it (15 R397, 16 R442). -/
def restoreServed : Server := fun p r s =>
  let g := fldN r.b 0 6
  let q : Req := { r with job := some (fldN r.b 16 8) }
  match s.fillStep (dieOf p) g r (fun s => .word s (loadWord 0 g)) with
  | some x => x
  | none =>
  if aSlot r.a = 0 then .word s (loadWord 7 g)
  else match (if q.wide ≠ 0 then .ok q.wide else s.resolveHandle (fldN r.b 16 8) r.a 32) with
    | .error x => .fail s x q
    | .ok w =>
      let q : Req := { q with wide := w }
      s.readSave p q w fun ws s1 => match s1.parseSave ws with
        | none => .word s1 (loadWord 7 g)
        | some img => s1.launchImage p q img.launch (s1.saveTaken w ws.length)
            (fun s2 => .word s2 (loadWord 8 g)) (fun s2 => .word s2 (loadWord 2 g))
            fun ls s2 => s2.restoreWith p q img ls

/-- A user of a codec is served once the codec is its own, and leaves it when its request ends or is held (16 R438). -/
def State.withCodec (s : State) (d : Nat) (u : CodecUser) (f : State → Served) : Served :=
  let s1 := s.joinCodec d u
  if s1.hasCodec d u = false then .wait s1
  else match f s1 with
    | .done s2 ws tag => .done (s2.leaveCodec d u) ws tag
    | .fail s2 x r => .fail (s2.leaveCodec d u) x r
    | .wait s2 => .wait s2
    | .park s2 r => .park s2 r

/-- RESTORE at the die's region table: it waits for its codec's turn (16 R438, R442). -/
def serveRestore : Server := fun p r s =>
  s.withCodec (dieOf p) (.restore (fldN r.b 0 6 % 2) r.rid) (restoreServed p r)

/-! ### Rollback (16 R445) -/

/-- The words that zero the frames of a region's clusters written since its last SNAP cut of which the image has no record. -/
def State.zeroFrames (s : State) (base : Nat) (img : SaveImage) (cls : List Nat) : List (Nat × Word) :=
  cls.flatMap fun cl =>
    let cd := (s.cluster cl).cdirty
    (List.range 1023).flatMap fun f =>
      let has := img.recs.any fun b => match b with | .frame c n _ => (base + c) % 256 == cl && n == f | _ => false
      if cd.getLsbD f && !has then (List.range 512).map fun i => (frameByte cl f 0 + 8 * i, 0) else []

/-- Tokens of a region that stand in routers or on links are discarded: the image holds what is to come. -/
def State.dropTravelling (s : State) (d g : Nat) : State :=
  let R := s.region d g
  let s1 := ((s.clusters.filter fun e => e.1 / 32 == d).flatMap fun e => e.2.routers.map fun y => (e.1, y.1)).foldl (fun s x =>
    let Rt := s.router x.1 x.2
    let mine (t : RTok) : Bool := s.tokenOf d g x.1 x.2 t
    s.setRouter x.1 x.2 { Rt with
      inq := Rt.inq.map fun q => q.filter fun t => !mine t
      stuck := Rt.stuck.filter fun y => match (vget Rt.inq (inqIdx y.1)).head? with | some t => !mine t | none => false }) s
  R.ports.foldl (fun s p => s.modInAt p fun c => { c with link := none, linkSrc := none }) s1

/-- The region's faults and requests are discarded (16 R445). -/
def State.discardFaults (s : State) (d g : Nat) : State :=
  (s.region d g).elems.foldl (fun s e => s.modProc e fun P => { P with reqs := [], parked := [], held := [], resps := [] }) s

/-- Copies that the region bound after its cut have ended with the roll, which leaves their entries so (16 R445): RESUME on one finds
no fault. -/
def State.endCopies (s : State) (cs : List (Nat × Copy)) : State :=
  cs.foldl (fun s x => s.modDie (x.1 / 128) fun D => if (D.copies.get none (x.1 % 128)).isSome then D else
    { D with copies := D.copies.set none (x.1 % 128) (some { x.2 with status := 2, reqs := [], active := [], stopping := none }) }) s

/-- roll: the image of the region's last complete SNAP cut is restored at its own placement, but for its words of scratchpad, which
follow one by one. Its graph counter stays as it is (16 R443, R445). -/
def State.rollWith (s : State) (d g rid : Nat) (img : SaveImage) (rs : List ImgRec) : State :=
  let R := s.region d g
  let base := 32 * d + R.cbase
  let m := placingOf img d g R.cbase
  let cs := s.copiesOf d g
  let s1 := ((s.discardFaults d g).dropTravelling d g).vacate d g
  let s2 := s1.modRegion d g fun _ =>
    { R with st := .frozen, held := [], entering := [], cut := none
             filling := some { rid := rid, source := none, writes := s.zeroFrames base img R.clusters ++ img.recs.flatMap (SaveBody.writes m) } }
  ((s2.loadUnits d g R.job R.cbase rs).restoreAll m rs img).endCopies cs

end Sys2Proof.Machine
end

