-- ==== Sys2Proof/Machine/Resume.lean ====
section
/-! DEFINITION. RESUME (15 R398, 16 R423-R427; 09 R276; 13 R381) and debug access (16 R448; 24 R542, R543). -/

namespace Sys2Proof.Machine

/-! ### Issue -/

/-- RESUME.retry (16 R425). -/
def execResumeRetry (f : RForm) (s : State) : Out := issue (viewR 0xFE f) (portEffect .resume modOf noFaults) s
/-- RESUME.skip (16 R425). -/
def execResumeSkip (f : RForm) (s : State) : Out := issue (viewR 0xFE f) (portEffect .resume modOf noFaults) s
/-- RESUME.roll (16 R425). -/
def execResumeRoll (f : RForm) (s : State) : Out := issue (viewR 0xFE f) (portEffect .resume modOf noFaults) s
/-- RESUME.cancel (16 R425). -/
def execResumeCancel (f : RForm) (s : State) : Out := issue (viewR 0xFE f) (portEffect .resume modOf noFaults) s

/-! ### Targets (16 R423) -/

/-- What a target word names: a context with its slot or PC, a copy, a router with its route tag, an operator, a watchpoint, or
a region. -/
inductive Target where
  | ctx (p c slot : Nat)
  | copy (id : Nat)
  | router (cl r tag : Nat)
  | oper (cl k : Nat)
  | watch (cl r w : Nat)
  | region (g : Nat)
  deriving DecidableEq, Repr

/-- A region number is that of a router's element. -/
def State.routerIn (s : State) (d cl r reg : Nat) : Bool := cl / 32 == d && s.regionAt cl r == some reg

/-- The target that a word names on a die, when there is one there in a job (16 R423, R426). -/
def State.targetOf (s : State) (d : Nat) (a : Word) : Option Target :=
  let reg := fldN a 52 6
  let ok (b : Bool) (t : Target) : Option Target := if b then some t else none
  if fldN a 58 3 ≠ d then none
  else match fldN a 61 3 with
    | 0 =>
      let e := fldN a 0 12
      ok (fldN a 19 33 == 0 && dieOf e == d && (s.proc e).region == some reg) (.ctx e (fldN a 12 2) (fldN a 14 5))
    | 1 =>
      ok (reg == 0 && fldN a 36 16 == 0 && fldN a 2 2 == 0 && fldN a 6 12 == 0)
        (.ctx (coreUnit d (fldN a 0 2)) (fldN a 4 2) (fldN a 18 18))
    | 2 =>
      let id := fldN a 0 10
      ok (fldN a 10 42 == 0 && id / 128 == d && (match s.copy id with
        | some c => (s.proc c.proc).region.getD 0 == reg
        | none => false)) (.copy id)
    | 3 =>
      ok (fldN a 24 28 == 0 && fldN a 14 2 == 0 && s.routerIn d (fldN a 0 8) (fldN a 8 4) reg)
        (.router (fldN a 0 8) (fldN a 8 4) (fldN a 16 8))
    | 4 =>
      match (if fldN a 32 20 = 0 ∧ fldN a 0 12 = 0 then opName (put (fldN a 0 32) 0) else none) with
      | some (.oper cl k) => ok (s.routerIn d cl (k % 16) reg) (.oper cl k)
      | _ => none
    | 5 =>
      ok (fldN a 13 39 == 0 && s.routerIn d (fldN a 0 8) (fldN a 8 4) reg) (.watch (fldN a 0 8) (fldN a 8 4) (fldN a 12 1))
    | 6 => ok (fldN a 0 52 == 0 && (s.region d reg).st != .free) (.region reg)
    | _ => none

/-- The fault of a context at a slot, or at a PC of which a target word holds 18 bits. -/
def State.faultAt (s : State) (p c slot : Nat) : Option CtxFault := (s.ctx p c).faults.find? fun x => x.slot % 2 ^ 18 == slot

/-- The held token of a router input, of a route tag or of a watchpoint (10 R304, 16 R449). -/
def State.stuckAt (s : State) (cl r : Nat) (w tag : Option Nat) : Option (RouterIn × Option Nat) :=
  let R := s.router cl r
  R.stuck.find? fun y => y.2 == w && (match tag, (vget R.inq (rinIdx y.1)).head? with
    | some t, some x => x.route.toNat == t
    | some _, none => false
    | none, _ => true)

/-- The region of a target. -/
def State.targetRegion (s : State) : Target → Option Nat
  | .ctx p _ _ => if isCore p then none else (s.proc p).region
  | .copy id => (s.copy id).bind fun c => if isCore c.proc then none else (s.proc c.proc).region
  | .router cl r _ => s.regionAt cl r
  | .oper cl k => s.regionOfOp cl k
  | .watch cl r _ => s.regionAt cl r
  | .region g => some g

/-- The job that RESUME acts for: that of the target's region, or outside any region the JOB field of the fault record, which is 0
where the party acted for no job (15 R397). -/
def State.targetJob (s : State) (d : Nat) (t : Target) : Nat :=
  match s.targetRegion t with
  | some g => (s.region d g).job
  | none => match t with
    | .ctx p c slot => match s.faultAt p c slot with | some x => x.job | none => 0
    | .copy id => ((s.copy id).bind (·.job)).getD 0
    | _ => 0

/-- The region holds a fault with FRZ 1 under this target word (16 R424). -/
def State.frozenFault (s : State) (d : Nat) (t : Target) (a : Word) : Bool :=
  match s.targetRegion t with
  | none => false
  | some g => (s.region d g).held.contains a

/-- The target holds a fault (16 R426). -/
def State.targetFaulted (s : State) (d : Nat) (t : Target) (a : Word) : Bool :=
  match t with
  | .ctx p c slot => (s.faultAt p c slot).isSome
  | .copy id => s.frozenFault d t a || (match s.copy id with | some c => !c.heldReqs.isEmpty | none => false)
  | .router cl r tag => (s.stuckAt cl r none (some tag)).isSome
  | .watch cl r w => (s.stuckAt cl r (some w) none).isSome
  | .oper _ _ => s.frozenFault d t a
  | .region _ => s.frozenFault d t a

/-! ### Actions (16 R426) -/

/-- An instruction delivers a value (16 R426). -/
def deliversValue (sh : Shape) : Bool :=
  match sh.dst with
  | .none | .mem | .out => false
  | _ => true

/-- The use of its fields by the word of a fault; one of no row uses none. -/
def faultShape (v : View) : Shape := (shapeOf v).getD blankShape

/-- The instruction of a fault takes its issue effects with supplied result words (16 R426): its dequeues, the delivery of the
first word or the filling of its response words, and PACT. A permit that the dequeue of FWD takes is forwarded nowhere (06 R178,
R179; log entry 120). -/
def State.skipIssue (s : State) (p c : Nat) (x : CtxFault) (w0 w1 : Word) : State :=
  let v := viewOf x.word
  let sh := faultShape v
  let r : Res := if deliversValue sh then .val w0 else .none
  let s1 := (s.dequeue p c sh v).deliver p c (outstOf sh v r 0 0)
  let s2 := if sh.dst = .mem then
      let i := s1.freshId
      i.2.modProc p fun P => { P with ml := mlFill (mlReserve P.ml c i.1 sh.resp false) i.1 [w0, w1] 0 }
    else s1
  (s2.advance p c none).leaveFault p c x

/-- The instruction's destinations have room again; until then RESUME.skip waits. -/
def State.skipRoom (s : State) (p c : Nat) (x : CtxFault) : Bool :=
  let v := viewOf x.word
  spaceReady s p c (faultShape v) v && takeReady s p c (faultShape v) v

/-- The held request of a path fault is sent again (16 R426); one already resolved goes on at its wide address (07 R215). -/
def State.resend (s : State) (p rid : Nat) : State :=
  match (s.proc p).held.find? fun r => r.rid == rid with
  | none => s
  | some r => s.parkReq p { r with code := 0, stage := 0, resent := false, data := [], miss := none }

/-- The held request of a path fault is released with supplied response words (16 R426, 20 R491). -/
def State.releaseHeld (s : State) (p rid : Nat) (w0 w1 : Word) : State :=
  s.modProc p fun P => { P with held := P.held.filter (fun r => r.rid != rid), ml := mlFill P.ml rid [w0, w1] 0 }

/-- retry of a context's fault (06 R204, 15 R398, 16 R426). -/
def State.retryCtx (s : State) (p c : Nat) (x : CtxFault) : State :=
  let s1 := match x.kind with
    | .path rid => s.resend p rid
    | .brk => s.modCtx p c fun C => { C with stepOver := x.slot :: C.stepOver }
    | _ => s
  s1.leaveFault p c x

/-- skip of a context's fault (15 R398, 16 R426); none while it waits for room. -/
def State.skipCtx (s : State) (p c : Nat) (x : CtxFault) (w0 w1 : Word) : Option State :=
  match x.kind with
  | .path rid => some ((s.releaseHeld p rid w0 w1).leaveFault p c x)
  | .fetch => some ((s.leaveFault p c x).modCtx p c fun C => { C with rstate := .halt })
  | _ => if s.skipRoom p c x then some (s.skipIssue p c x w0 w1) else none

/-- Drops request `n` of a copy. -/
def State.dropCopyReq (s : State) (id n : Nat) : State := s.modCopy id fun c => { c with reqs := c.reqs.filter fun x => x.n != n }

/-- skip of a held request of a load copy: the supplied word is written into every word of it, and they are counted (09 R276). None
while a word waits for a window. The words of a copy with a subgraph enter it in stream order, as words that were read do
(log entry 84). -/
def State.skipLoad (s : State) (id : Nat) (c : Copy) (q : CopyReq) (w0 : Word) : Option State :=
  let bs := bytesOf 8 w0
  if c.via = 0 then
    ((List.range q.len).foldl (fun o i => o.bind fun s => s.ringWrite id c ((q.n + i) / c.words) ((q.n + i) % c.words) bs) (some s)).map
      fun s => s.dropCopyReq id q.n
  else some (s.modReq id q.n fun q => { q with got := (List.range q.len).flatMap fun _ => bs, put := 0, phase := .going })

/-- skip of a held request of a store copy: it is discarded, and its words are counted (09 R276); a ring word that could not be read
for the subgraph does not enter it. -/
def State.skipStore (s : State) (id : Nat) (c : Copy) (q : CopyReq) : State :=
  let s1 := if c.via = 0 then
      ((List.range q.len).drop (q.out.length / 8)).foldl (fun s i =>
        s.ringDone id ((q.n + i) / c.words) ((q.n + i) % c.words)) s
    else if q.len = 0 then (s.ringDone id (c.sent / c.words) (c.sent % c.words)).modCopy id fun c => { c with sent := c.sent + 1 }
    else s
  ((List.range q.len).foldl (fun s i => s.farDone id (q.n + i)) s1).dropCopyReq id q.n

/-- skip of a copy (09 R276); none while it waits. -/
def State.skipCopy (s : State) (id : Nat) (w0 : Word) : Option State :=
  match s.copy id with
  | none => some s
  | some c => c.heldReqs.foldl (fun o q => o.bind fun s => if c.isStore then some (s.skipStore id c q) else s.skipLoad id c q w0) (some s)

/-- A fault with FRZ 1 that is dealt with leaves the region, which runs again when it stands FROZEN (16 R426). -/
def State.thawAfter (s : State) (d : Nat) (g : Option Nat) (a : Word) : State :=
  match g with
  | none => s
  | some g =>
    let s1 := s.modRegion d g fun R => { R with held := R.held.filter (· != a) }
    if (s1.region d g).st = .frozen ∧ (s1.region d g).cut.isNone = true then s1.thawRegion d g else s1

/-- retry of a region: a save that SAVE_AREA_MISS holds goes on, else THAW (16 R426, R439). -/
def State.retryRegion (s : State) (d g : Nat) (a : Word) : State :=
  match (s.region d g).cut with
  | some _ => s.modRegion d g fun R =>
      { R with held := R.held.erase a, cut := R.cut.map fun c => { c with missed := false } }
  | none => s.thawAfter d (some g) a

/-- retry (16 R426): the status and the state. -/
def State.retryTarget (s : State) (d : Nat) (t : Target) (a : Word) : Nat × State :=
  match t with
  | .ctx p c slot => (0, match s.faultAt p c slot with | some x => s.retryCtx p c x | none => s)
  | .copy id =>
    let frz := s.frozenFault d t a
    let s1 := s.modCopy id fun c => { c with reqs := c.reqs.map fun q => if q.isHeld then { q with phase := .going } else q }
    (0, if frz then s1.thawAfter d (s.targetRegion t) a else s1)
  | .router cl r tag => (0, match s.stuckAt cl r none (some tag) with
    | some y => (s.unstick cl r y).thawAfter d (s.targetRegion t) a
    | none => s)
  | .watch cl r w => (0, match s.stuckAt cl r (some w) none with
    | some y => (s.unstick cl r y).thawAfter d (s.targetRegion t) a
    | none => s)
  | .oper _ _ => (1, s)
  | .region g => (0, s.retryRegion d g a)

/-- skip (16 R426): the status and the state, none while it waits for room. -/
def State.skipTarget (s : State) (d : Nat) (t : Target) (a w0 w1 : Word) : Option (Nat × State) :=
  match t with
  | .ctx p c slot => match s.faultAt p c slot with
    | some x => (s.skipCtx p c x w0 w1).map fun s1 => (0, s1)
    | none => some (0, s)
  | .copy id =>
    (s.skipCopy id w0).map fun s1 => (0, if s.frozenFault d t a then s1.thawAfter d (s.targetRegion t) a else s1)
  | .router cl r tag => some (0, match s.stuckAt cl r none (some tag) with
    | some y => (s.discardStuck cl r y).thawAfter d (s.targetRegion t) a
    | none => s)
  | .watch cl r w => some (0, match s.stuckAt cl r (some w) none with
    | some y => (s.discardStuck cl r y).thawAfter d (s.targetRegion t) a
    | none => s)
  | .oper _ _ => some (1, s)
  | .region _ => some (1, s)

/-- The target's own fault is resolved by the cancellation: a context stays in FAULT, a held token is discarded
(16 R427; log entry 34). -/
def State.resolveFault (s : State) (d : Nat) (t : Target) (a : Word) : State :=
  let s1 := match t with
    | .ctx p c slot => match s.faultAt p c slot with
      | some x => s.modCtx p c fun C => { C with faults := C.faults.erase x }
      | none => s
    | .router cl r tag => match s.stuckAt cl r none (some tag) with | some y => s.discardStuck cl r y | none => s
    | .watch cl r w => match s.stuckAt cl r (some w) none with | some y => s.discardStuck cl r y | none => s
    | _ => s
  match s.targetRegion t with
  | none => s1
  | some g => s1.modRegion d g fun R => { R with held := R.held.filter (· != a) }

/-- cancel (16 R426, R427): the level in `w` is cancelled, and the target's fault with it when the level covers the target.
None while a cut of a region below has not ended (16 R435). -/
def State.cancelTarget (s : State) (d : Nat) (t : Target) (a w : Word) : Option (Nat × State) :=
  let ls := if workIdBad w then [] else s.levelsOf w (some (s.targetJob d t))
  let live := ls.filter fun x => (s.counter x.1 x.2).isOpen
  if ls.isEmpty then some (4, s)
  else if live.any fun x => s.cutBelow x.1 x.2 then none
  else
    let covered := match s.targetRegion t with
      | some g => live.any fun x => (s.regionsBelow x.1 x.2).contains (d, g)
      | none => false
    let s1 := live.foldl (fun s x => s.cancelLevel x.1 x.2) s
    some (if covered then (0, s1.resolveFault d t a) else (5, s1))

/-- The image that roll restores, when it is offered: SNAPSHOT mode, a REPLAYABLE region, and a complete SNAP cut whose image
stands at the area it was written to (16 R427, R445; 24 R541). -/
def State.rollImage (s : State) (d : Nat) (t : Target) : Option (Nat × Word) :=
  match s.targetRegion t with
  | none => none
  | some g =>
    let R := s.region d g
    if s.snapshotMode && R.replayable && !R.rel && (R.st == .running || R.st == .frozen) then R.snap.map fun b => (g, b) else none

/-- RESUME never faults: where its roll cannot read an image, the action is not offered (16 R426; log entry 98). -/
def Served.unfailing : Served → Served
  | .fail s _ _ => .word s 1
  | x => x

/-- roll (16 R427, R445): once the codec serves it, both images are read, the region restored word by word, and then it runs. -/
def State.serveRoll (s : State) (p : Nat) (r : Req) (t : Target) : Served :=
  let d := dieOf p
  match s.rollImage d t with
  | none => .word s 1
  | some (g, b) =>
    let R := s.region d g
    let q : Req := { r with job := some R.job }
    (s.withCodec d (.restore (g % 2) r.rid) fun s =>
      match s.resolveHandle R.job b 32 with
      | .error _ => .word s 1
      | .ok w =>
        s.readSave p q w fun ws s1 => match s1.parseSave ws with
          | none => .word s1 1
          | some img =>
            if img.cut ≠ 0 then .word s1 1
            else s1.launchImage p q R.image (s1.saveTaken w ws.length) (fun s2 => .word s2 1) (fun s2 => .word s2 1)
              fun ls s2 => match parseImage ls with
                | none => .word s2 1
                | some all =>
                  let rs := regionRecs all R.rsel
                  if img.recs.all (recordFits rs) then .park (s2.rollWith d g r.rid img rs) q else .word s2 1).unfailing

/-- A roll that has begun goes on word by word in its codec; at its end the region runs (16 R445). -/
def State.rollOn (s : State) (p : Nat) (r : Req) : Option Served :=
  let d := dieOf p
  (List.range 64).findSome? fun g =>
    match (s.region d g).filling with
    | some x => if x.rid = r.rid then
        s.fillStep d g r fun s => .word ((s.modRegion d g fun R => { R with st := .running }).leaveCodec d (.restore (g % 2) r.rid)) 0
      else none
    | none => none

/-- A cut of the target's region keeps RESUME waiting: one whose image is being written, as what the records hold may change no
more, and any cut where the action is to THAW the region (16 R426, R435; log entry 98). -/
def State.cutDelays (s : State) (d : Nat) (t : Target) (a : Word) (act : Nat) : Bool :=
  match s.targetRegion t with
  | none => false
  | some g => (s.region d g).filling.isSome || match (s.region d g).cut with
    | none => false
    | some c => match t with
      | .region _ => act == 0 && !c.missed
      | _ => c.image.isSome || (decide (act < 2) && s.frozenFault d t a)

/-- Ends RESUME with a status, or lets it wait. -/
def endResume (s : State) : Option (Nat × State) → Served
  | some x => .word x.2 (put x.1 0)
  | none => .wait s

/-- RESUME at the die (16 R425-R427): never faults. -/
def serveResume : Server := fun p r s =>
  let d := dieOf p
  match s.rollOn p r with
  | some x => x
  | none =>
  match s.targetOf d r.a with
  | none => .word s 3
  | some t =>
    if s.targetFaulted d t r.a = false then .word s 2
    else if s.cutDelays d t r.a (r.mode % 4) then .wait s
    else match r.mode % 4 with
      | 0 => endResume s (some (s.retryTarget d t r.a))
      | 1 => endResume s (s.skipTarget d t r.a r.b r.b2)
      | 2 => (match t, s.targetRegion t with
        | _, some g => if (s.region d g).busy then .wait s else s.serveRoll p r t
        | _, none => .word s 1)
      | _ => endResume s (s.cancelTarget d t r.a r.b)

/-! ### Debug access (16 R448) -/

/-- The element that DBGADDR names on a die. -/
def dbgElem (d : Nat) (a : Word) : Nat := 512 * d + fldN a 32 9

/-- An element of a job created under SECURE, while SECURE and DEBUG are both on, is closed to debug access (24 R543). -/
def State.dbgClosed (s : State) (e : Nat) : Bool :=
  s.secureMode && s.debugMode && (match s.regionOf e with | some R => s.jobKeys.get 0 (256 * dieOf e + R.job) != 0 | none => false)

/-- The item that DBGADDR names (16 R448). -/
def State.dbgItem (s : State) (d : Nat) : Word :=
  let a := s.ctlReg d 2048
  let e := dbgElem d a
  let P := s.proc e
  let C := P.ctx (fldN a 8 2)
  let n := fldN a 0 5
  match fldN a 62 2 with
  | 0 => (P.slots.get Slot.reset n).word.getD 0
  | 1 => if n < 16 then vget C.x n else 0
  | 2 => put C.p.toNat 56 ||| put C.rstate.code 0
  | _ => put ((List.range 32).foldl (fun m i => if (P.slots.get Slot.reset i).brk then m + 2 ^ i else m) 0) 0

/-- DBGDATA_READ (16 R448, 24 R543). -/
def execDbgdataRead (p k : Nat) (s : State) : Out :=
  match (s.proc p).pending[k]? with
  | none => .next s
  | some r =>
    if (r.kind = .ld ∨ r.kind = .ldacq) ∧ r.stage = 0 ∧ isCore p = true ∧ aSlot r.a = 0 ∧ aOff r.a / 2 ^ 30 = 2 ∧
        aOff r.a % 2 ^ 16 / 8 = regDbgData then
      let d := dieOf p
      .next (finishServed p r (.word s (if s.dbgClosed (dbgElem d (s.ctlReg d 2048)) then 0 else s.dbgItem d)))
    else .next s

/-- A debug write takes effect (16 R448; 24 R542, R543). -/
def State.dbgAllowed (s : State) (d : Nat) : Bool :=
  let a := s.ctlReg d 2048
  let e := dbgElem d a
  let still := match s.regionOf e with | some R => R.st == .loaded || R.st == .frozen | none => false
  let C := s.ctx e (fldN a 8 2)
  s.debugMode && !s.dbgClosed e &&
    (still || ((fldN a 62 2 == 1 || fldN a 62 2 == 2) && (C.rstate == .fault || C.rstate == .halt)))

/-- Sets the item that DBGADDR names: RSTATE alone is read-only, and a slot write is not checked (02 R71, 16 R436, R448). -/
def State.dbgWrite (s : State) (d : Nat) (w : Word) : State :=
  let a := s.ctlReg d 2048
  let e := dbgElem d a
  let c := fldN a 8 2
  let n := fldN a 0 5
  match fldN a 62 2 with
  | 0 => s.modProc e fun P => { P with
      slots := P.slots.set Slot.reset n { P.slots.get Slot.reset n with word := some w, bad := false }, dirtySlots := true }
  | 1 =>
    if n < 16 then
      (s.modCtx e c fun C => { C with x := vset C.x n w }).modProc e fun P => { P with badRegs := P.badRegs.filter (· != 16 * c + n) }
    else s
  | 2 => s.modCtx e c fun C => { C with p := fld w 56 8 }
  | _ => s.modProc e fun P => { P with
      slots := (List.range 32).foldl (fun m i => m.set Slot.reset i { m.get Slot.reset i with brk := bitOf w i }) P.slots
      dirtySlots := true }

/-- DBGDATA_WRITE (16 R448). -/
def execDbgdataWrite (p k : Nat) (s : State) : Out :=
  match s.ctlStore p k with
  | none => .next s
  | some (r, n) =>
    if n = regDbgData then .next ((if s.dbgAllowed (dieOf p) then s.dbgWrite (dieOf p) r.b else s).ctlDone p r) else .next s

end Sys2Proof.Machine
end

