-- ==== Sys2Proof/Machine/Serve.lean ====
section
/-! DEFINITION. MEMORY_REQUEST_SERVE (07 R228): one request of a unit, of a copy or of a peer is served. -/

namespace Sys2Proof.Machine

/-- What serves a request of each kind. A release store writes, a store to the control page acts and a read of DBGDATA is
answered by rows of their own. -/
def serverOf : ReqKind → Server
  | .ld | .ldacq => serveLd
  | .st | .stp => serveSt
  | .strel => fun _ _ s => .wait s
  | .fence | .flush => serveFence
  | .ldw => serveLdw
  | .stw => serveStw
  | .pref => servePref
  | .atom => serveAtom
  | .cas => serveCas
  | .alloc => serveAlloc
  | .free => serveFree
  | .seal => serveSeal
  | .persist => servePersist
  | .hbind => serveHbind
  | .hexp => serveHexp
  | .hshort => serveHshort
  | .hdrop => serveHdrop
  | .objq => serveObjq
  | .planLoad => servePlanLoad
  | .planStep => servePlanStep
  | .planDrop => servePlanDrop
  | .evict => serveEvict
  | .syncadd => serveSyncadd
  | .syncrd => serveSyncrd
  | .syncset => serveSyncset
  | .sfree => serveSfree
  | .sbind => serveSbind
  | .scancel => serveScancel
  | .mxbind => serveMxbind
  | .mxbindCb => serveMxbindCb
  | .mxbindFree => serveMxbindFree
  | .mxpri => serveMxpri
  | .mxstat => serveMxstat
  | .gload => serveGload
  | .gbind => serveGbind
  | .gunload => serveGunload
  | .opcfg => serveOpcfg
  | .oprd => serveOprd
  | .tsubmit | .launch => serveSubmit
  | .cancel => serveCancel
  | .wcount => serveWcount
  | .klend => serveKlend
  | .klendRet => serveKlendRet
  | .klendQ => serveKlendQ
  | .coll => serveColl
  | .rekey => serveRekey
  | .cfgload => serveCfgload
  | .run => serveRun
  | .freeze => serveFreeze
  | .freezeRel => serveFreezeRel
  | .thaw => serveThaw
  | .barrier => serveBarrier
  | .mark => serveMark
  | .save => serveSave
  | .restore => serveRestore
  | .resume => serveResume

/-- Serves pending request `k` of unit `p`, unless it waits for a row or an answer of its own. -/
def State.serveUnit (s : State) (p k : Nat) : State :=
  match (s.proc p).pending[k]? with
  | none => s
  | some r => if r.stage = 0 then finishServed p r (serverOf r.kind p r s) else s

/-- MEMORY_REQUEST_SERVE (07 R228, 09 R275, 22 R515). -/
def execMemoryRequestServe (src : ReqSrc) (s : State) : Out :=
  match src with
  | .unit p k => .next (s.serveUnit p k)
  | .copy d k pos w => .next (s.serveCopy d k pos w)
  | .home k => .next (s.homeRetry k)

end Sys2Proof.Machine
end

