-- ==== Sys2Proof/Machine/Dispatch.lean ====
section
/-! DEFINITION. The dispatch: one arm per constructor, each one direct call of its meaning. -/

namespace Sys2Proof.Machine

/-- What an instruction or event does. -/
def exec (i : Instr) (s : State) : Host.Outcome State Fault Refusal :=
  match i with
  | .add f => Sys2Proof.Machine.execAdd f s
  | .sub f => Sys2Proof.Machine.execSub f s
  | .mul f => Sys2Proof.Machine.execMul f s
  | .mulh f => Sys2Proof.Machine.execMulh f s
  | .mulhu f => Sys2Proof.Machine.execMulhu f s
  | .div f => Sys2Proof.Machine.execDiv f s
  | .divu f => Sys2Proof.Machine.execDivu f s
  | .rem f => Sys2Proof.Machine.execRem f s
  | .remu f => Sys2Proof.Machine.execRemu f s
  | .min f => Sys2Proof.Machine.execMin f s
  | .max f => Sys2Proof.Machine.execMax f s
  | .minu f => Sys2Proof.Machine.execMinu f s
  | .maxu f => Sys2Proof.Machine.execMaxu f s
  | .abs f => Sys2Proof.Machine.execAbs f s
  | .neg f => Sys2Proof.Machine.execNeg f s
  | .mad f => Sys2Proof.Machine.execMad f s
  | .and f => Sys2Proof.Machine.execAnd f s
  | .or f => Sys2Proof.Machine.execOr f s
  | .xor f => Sys2Proof.Machine.execXor f s
  | .andn f => Sys2Proof.Machine.execAndn f s
  | .orn f => Sys2Proof.Machine.execOrn f s
  | .xnor f => Sys2Proof.Machine.execXnor f s
  | .shl f => Sys2Proof.Machine.execShl f s
  | .shr f => Sys2Proof.Machine.execShr f s
  | .sar f => Sys2Proof.Machine.execSar f s
  | .rol f => Sys2Proof.Machine.execRol f s
  | .ror f => Sys2Proof.Machine.execRor f s
  | .clz f => Sys2Proof.Machine.execClz f s
  | .ctz f => Sys2Proof.Machine.execCtz f s
  | .popc f => Sys2Proof.Machine.execPopc f s
  | .brev f => Sys2Proof.Machine.execBrev f s
  | .bswap f => Sys2Proof.Machine.execBswap f s
  | .cmp f => Sys2Proof.Machine.execCmp f s
  | .sel f => Sys2Proof.Machine.execSel f s
  | .mov f => Sys2Proof.Machine.execMov f s
  | .ext f => Sys2Proof.Machine.execExt f s
  | .bfx f => Sys2Proof.Machine.execBfx f s
  | .bfi f => Sys2Proof.Machine.execBfi f s
  | .packlh f => Sys2Proof.Machine.execPacklh f s
  | .splat f => Sys2Proof.Machine.execSplat f s
  | .clamp f => Sys2Proof.Machine.execClamp f s
  | .addi f => Sys2Proof.Machine.execAddi f s
  | .muli f => Sys2Proof.Machine.execMuli f s
  | .andi f => Sys2Proof.Machine.execAndi f s
  | .ori f => Sys2Proof.Machine.execOri f s
  | .xori f => Sys2Proof.Machine.execXori f s
  | .shli f => Sys2Proof.Machine.execShli f s
  | .shri f => Sys2Proof.Machine.execShri f s
  | .sari f => Sys2Proof.Machine.execSari f s
  | .roli f => Sys2Proof.Machine.execRoli f s
  | .cmpi f => Sys2Proof.Machine.execCmpi f s
  | .mini f => Sys2Proof.Machine.execMini f s
  | .maxi f => Sys2Proof.Machine.execMaxi f s
  | .movi f => Sys2Proof.Machine.execMovi f s
  | .movw f => Sys2Proof.Machine.execMovw f s
  | .movwIns f => Sys2Proof.Machine.execMovwIns f s
  | .pset f => Sys2Proof.Machine.execPset f s
  | .pget f => Sys2Proof.Machine.execPget f s
  | .plogic f => Sys2Proof.Machine.execPlogic f s
  | .nop f => Sys2Proof.Machine.execNop f s
  | .halt f => Sys2Proof.Machine.execHalt f s
  | .sleepu f => Sys2Proof.Machine.execSleepu f s
  | .time f => Sys2Proof.Machine.execTime f s
  | .spr f => Sys2Proof.Machine.execSpr f s
  | .spw f => Sys2Proof.Machine.execSpw f s
  | .trap f => Sys2Proof.Machine.execTrap f s
  | .brkpt f => Sys2Proof.Machine.execBrkpt f s
  | .trace f => Sys2Proof.Machine.execTrace f s
  | .fadd f => Sys2Proof.Machine.execFadd f s
  | .fsub f => Sys2Proof.Machine.execFsub f s
  | .fmul f => Sys2Proof.Machine.execFmul f s
  | .ffma f => Sys2Proof.Machine.execFfma f s
  | .ffms f => Sys2Proof.Machine.execFfms f s
  | .fdiv f => Sys2Proof.Machine.execFdiv f s
  | .fsqrt f => Sys2Proof.Machine.execFsqrt f s
  | .fmin f => Sys2Proof.Machine.execFmin f s
  | .fmax f => Sys2Proof.Machine.execFmax f s
  | .fabs f => Sys2Proof.Machine.execFabs f s
  | .fneg f => Sys2Proof.Machine.execFneg f s
  | .fcmp f => Sys2Proof.Machine.execFcmp f s
  | .fclass f => Sys2Proof.Machine.execFclass f s
  | .frint f => Sys2Proof.Machine.execFrint f s
  | .fscale f => Sys2Proof.Machine.execFscale f s
  | .frcpa f => Sys2Proof.Machine.execFrcpa f s
  | .badd f => Sys2Proof.Machine.execBadd f s
  | .bsub f => Sys2Proof.Machine.execBsub f s
  | .bmul f => Sys2Proof.Machine.execBmul f s
  | .bfma f => Sys2Proof.Machine.execBfma f s
  | .bmin f => Sys2Proof.Machine.execBmin f s
  | .bmax f => Sys2Proof.Machine.execBmax f s
  | .bcmp f => Sys2Proof.Machine.execBcmp f s
  | .bdot f => Sys2Proof.Machine.execBdot f s
  | .bsgn f => Sys2Proof.Machine.execBsgn f s
  | .bsum f => Sys2Proof.Machine.execBsum f s
  | .vadd f => Sys2Proof.Machine.execVadd f s
  | .vsub f => Sys2Proof.Machine.execVsub f s
  | .vadds f => Sys2Proof.Machine.execVadds f s
  | .vsubs f => Sys2Proof.Machine.execVsubs f s
  | .vmul f => Sys2Proof.Machine.execVmul f s
  | .vmulh f => Sys2Proof.Machine.execVmulh f s
  | .vmin f => Sys2Proof.Machine.execVmin f s
  | .vmax f => Sys2Proof.Machine.execVmax f s
  | .vabs f => Sys2Proof.Machine.execVabs f s
  | .vshl f => Sys2Proof.Machine.execVshl f s
  | .vshr f => Sys2Proof.Machine.execVshr f s
  | .vsar f => Sys2Proof.Machine.execVsar f s
  | .vcmp f => Sys2Proof.Machine.execVcmp f s
  | .vsum f => Sys2Proof.Machine.execVsum f s
  | .vperm f => Sys2Proof.Machine.execVperm f s
  | .vpacks f => Sys2Proof.Machine.execVpacks f s
  | .fcvt f => Sys2Proof.Machine.execFcvt f s
  | .ftoi f => Sys2Proof.Machine.execFtoi f s
  | .itof f => Sys2Proof.Machine.execItof f s
  | .bcvtPack f => Sys2Proof.Machine.execBcvtPack f s
  | .bcvtUnpack f => Sys2Proof.Machine.execBcvtUnpack f s
  | .cbld f => Sys2Proof.Machine.execCbld f s
  | .cbdec f => Sys2Proof.Machine.execCbdec f s
  | .cbenc f => Sys2Proof.Machine.execCbenc f s
  | .tagset f => Sys2Proof.Machine.execTagset f s
  | .tagof f => Sys2Proof.Machine.execTagof f s
  | .csares f => Sys2Proof.Machine.execCsares f s
  | .csaadd f => Sys2Proof.Machine.execCsaadd f s
  | .fwd f => Sys2Proof.Machine.execFwd f s
  | .emit f => Sys2Proof.Machine.execEmit f s
  | .drop f => Sys2Proof.Machine.execDrop f s
  | .peek f => Sys2Proof.Machine.execPeek f s
  | .pgive f => Sys2Proof.Machine.execPgive f s
  | .chcfg f => Sys2Proof.Machine.execChcfg f s
  | .ctrlw f => Sys2Proof.Machine.execCtrlw f s
  | .hndbind f => Sys2Proof.Machine.execHndbind f s
  | .tsend f => Sys2Proof.Machine.execTsend f s
  | .tsend2 f => Sys2Proof.Machine.execTsend2 f s
  | .tdone f => Sys2Proof.Machine.execTdone f s
  | .tsubmit f => Sys2Proof.Machine.execTsubmit f s
  | .launch f => Sys2Proof.Machine.execLaunch f s
  | .cancel f => Sys2Proof.Machine.execCancel f s
  | .wcount f => Sys2Proof.Machine.execWcount f s
  | .klend f => Sys2Proof.Machine.execKlend f s
  | .klendRet f => Sys2Proof.Machine.execKlendRet f s
  | .klendQ f => Sys2Proof.Machine.execKlendQ f s
  | .ld f => Sys2Proof.Machine.execLd f s
  | .st f => Sys2Proof.Machine.execSt f s
  | .stp f => Sys2Proof.Machine.execStp f s
  | .ldacq f => Sys2Proof.Machine.execLdacq f s
  | .strel f => Sys2Proof.Machine.execStrel f s
  | .fence f => Sys2Proof.Machine.execFence f s
  | .flush f => Sys2Proof.Machine.execFlush f s
  | .ldw f => Sys2Proof.Machine.execLdw f s
  | .stw f => Sys2Proof.Machine.execStw f s
  | .pref f => Sys2Proof.Machine.execPref f s
  | .atom f => Sys2Proof.Machine.execAtom f s
  | .cas f => Sys2Proof.Machine.execCas f s
  | .alloc f => Sys2Proof.Machine.execAlloc f s
  | .free f => Sys2Proof.Machine.execFree f s
  | .seal f => Sys2Proof.Machine.execSeal f s
  | .persist f => Sys2Proof.Machine.execPersist f s
  | .hbind f => Sys2Proof.Machine.execHbind f s
  | .hexp f => Sys2Proof.Machine.execHexp f s
  | .hshort f => Sys2Proof.Machine.execHshort f s
  | .hdrop f => Sys2Proof.Machine.execHdrop f s
  | .objq f => Sys2Proof.Machine.execObjq f s
  | .planLoad f => Sys2Proof.Machine.execPlanLoad f s
  | .planStep f => Sys2Proof.Machine.execPlanStep f s
  | .planDrop f => Sys2Proof.Machine.execPlanDrop f s
  | .evict f => Sys2Proof.Machine.execEvict f s
  | .syncadd f => Sys2Proof.Machine.execSyncadd f s
  | .syncrd f => Sys2Proof.Machine.execSyncrd f s
  | .syncset f => Sys2Proof.Machine.execSyncset f s
  | .tlook f => Sys2Proof.Machine.execTlook f s
  | .tset f => Sys2Proof.Machine.execTset f s
  | .tclr f => Sys2Proof.Machine.execTclr f s
  | .tiletagCas f => Sys2Proof.Machine.execTiletagCas f s
  | .tiletagSet f => Sys2Proof.Machine.execTiletagSet f s
  | .tiletagRd f => Sys2Proof.Machine.execTiletagRd f s
  | .sfree f => Sys2Proof.Machine.execSfree f s
  | .sbind f => Sys2Proof.Machine.execSbind f s
  | .scancel f => Sys2Proof.Machine.execScancel f s
  | .mxbind f => Sys2Proof.Machine.execMxbind f s
  | .mxbindCb f => Sys2Proof.Machine.execMxbindCb f s
  | .mxbindFree f => Sys2Proof.Machine.execMxbindFree f s
  | .mxpri f => Sys2Proof.Machine.execMxpri f s
  | .mxstat f => Sys2Proof.Machine.execMxstat f s
  | .gload f => Sys2Proof.Machine.execGload f s
  | .gbind f => Sys2Proof.Machine.execGbind f s
  | .gunload f => Sys2Proof.Machine.execGunload f s
  | .opcfg f => Sys2Proof.Machine.execOpcfg f s
  | .oprd f => Sys2Proof.Machine.execOprd f s
  | .collSumf f => Sys2Proof.Machine.execCollSumf f s
  | .collMinf f => Sys2Proof.Machine.execCollMinf f s
  | .collMaxf f => Sys2Proof.Machine.execCollMaxf f s
  | .collSumi f => Sys2Proof.Machine.execCollSumi f s
  | .collMini f => Sys2Proof.Machine.execCollMini f s
  | .collMaxi f => Sys2Proof.Machine.execCollMaxi f s
  | .collBcast f => Sys2Proof.Machine.execCollBcast f s
  | .collBarrier f => Sys2Proof.Machine.execCollBarrier f s
  | .br f => Sys2Proof.Machine.execBr f s
  | .brl f => Sys2Proof.Machine.execBrl f s
  | .bx f => Sys2Proof.Machine.execBx f s
  | .evpop f => Sys2Proof.Machine.execEvpop f s
  | .mbxpop f => Sys2Proof.Machine.execMbxpop f s
  | .cfgload f => Sys2Proof.Machine.execCfgload f s
  | .run f => Sys2Proof.Machine.execRun f s
  | .runContext f => Sys2Proof.Machine.execRunContext f s
  | .freeze f => Sys2Proof.Machine.execFreeze f s
  | .freezeRel f => Sys2Proof.Machine.execFreezeRel f s
  | .thaw f => Sys2Proof.Machine.execThaw f s
  | .barrier f => Sys2Proof.Machine.execBarrier f s
  | .markSnap f => Sys2Proof.Machine.execMarkSnap f s
  | .markPre f => Sys2Proof.Machine.execMarkPre f s
  | .save f => Sys2Proof.Machine.execSave f s
  | .saveRel f => Sys2Proof.Machine.execSaveRel f s
  | .restore f => Sys2Proof.Machine.execRestore f s
  | .rekey f => Sys2Proof.Machine.execRekey f s
  | .resumeRetry f => Sys2Proof.Machine.execResumeRetry f s
  | .resumeSkip f => Sys2Proof.Machine.execResumeSkip f s
  | .resumeRoll f => Sys2Proof.Machine.execResumeRoll f s
  | .resumeCancel f => Sys2Proof.Machine.execResumeCancel f s
  | .illegalSlotIssue => Sys2Proof.Machine.execIllegalSlotIssue s
  | .brkSlotBit => Sys2Proof.Machine.execBrkSlotBit s
  | .coreFetchFault => Sys2Proof.Machine.execCoreFetchFault s
  | .resultDelivery a b c => Sys2Proof.Machine.execResultDelivery a b c s
  | .tokenArrival a => Sys2Proof.Machine.execTokenArrival a s
  | .steerResult a b => Sys2Proof.Machine.execSteerResult a b s
  | .discardHead a b => Sys2Proof.Machine.execDiscardHead a b s
  | .taskPacketArrival a b => Sys2Proof.Machine.execTaskPacketArrival a b s
  | .tlHeadChoice a => Sys2Proof.Machine.execTlHeadChoice a s
  | .taskInject a => Sys2Proof.Machine.execTaskInject a s
  | .sleepWake a b => Sys2Proof.Machine.execSleepWake a b s
  | .traceRecordPost a => Sys2Proof.Machine.execTraceRecordPost a s
  | .elEventPost a => Sys2Proof.Machine.execElEventPost a s
  | .unitComplete a b => Sys2Proof.Machine.execUnitComplete a b s
  | .eccError a b => Sys2Proof.Machine.execEccError a b s
  | .routeToken a b c => Sys2Proof.Machine.execRouteToken a b c s
  | .memoryRequestServe a => Sys2Proof.Machine.execMemoryRequestServe a s
  | .mlResponse a b => Sys2Proof.Machine.execMlResponse a b s
  | .strelWrite a b => Sys2Proof.Machine.execStrelWrite a b s
  | .fenceResponse a b => Sys2Proof.Machine.execFenceResponse a b s
  | .sealComplete a b => Sys2Proof.Machine.execSealComplete a b s
  | .persistComplete a b => Sys2Proof.Machine.execPersistComplete a b s
  | .objectReclaim a => Sys2Proof.Machine.execObjectReclaim a s
  | .copyPositionBegin a b => Sys2Proof.Machine.execCopyPositionBegin a b s
  | .counterFire a b => Sys2Proof.Machine.execCounterFire a b s
  | .copyEnd a b => Sys2Proof.Machine.execCopyEnd a b s
  | .normalise a b => Sys2Proof.Machine.execNormalise a b s
  | .convert a b => Sys2Proof.Machine.execConvert a b s
  | .suuUpdate a => Sys2Proof.Machine.execSuuUpdate a s
  | .suuWindowClose a => Sys2Proof.Machine.execSuuWindowClose a s
  | .reduceGroup a => Sys2Proof.Machine.execReduceGroup a s
  | .coalesceIssue a b => Sys2Proof.Machine.execCoalesceIssue a b s
  | .mxEntryCreate a b c => Sys2Proof.Machine.execMxEntryCreate a b c s
  | .mxStandbyLatch a b => Sys2Proof.Machine.execMxStandbyLatch a b s
  | .mxLatchEnd a b => Sys2Proof.Machine.execMxLatchEnd a b s
  | .mxPark a b => Sys2Proof.Machine.execMxPark a b s
  | .mxComputeEnd a b => Sys2Proof.Machine.execMxComputeEnd a b s
  | .mxDeliver a b => Sys2Proof.Machine.execMxDeliver a b s
  | .espTokenTake a b => Sys2Proof.Machine.execEspTokenTake a b s
  | .espRowOutput a b => Sys2Proof.Machine.execEspRowOutput a b s
  | .dispatchDecide a => Sys2Proof.Machine.execDispatchDecide a s
  | .taskDelivery a b => Sys2Proof.Machine.execTaskDelivery a b s
  | .workCounterDone a b c => Sys2Proof.Machine.execWorkCounterDone a b c s
  | .regionComplete a b => Sys2Proof.Machine.execRegionComplete a b s
  | .eventRecordPost a b => Sys2Proof.Machine.execEventRecordPost a b s
  | .faultRecord a => Sys2Proof.Machine.execFaultRecord a s
  | .watchdogExpiry a b => Sys2Proof.Machine.execWatchdogExpiry a b s
  | .cutMarkerArrival a => Sys2Proof.Machine.execCutMarkerArrival a s
  | .saveRecordWrite a b => Sys2Proof.Machine.execSaveRecordWrite a b s
  | .cutComplete a b => Sys2Proof.Machine.execCutComplete a b s
  | .restoreTokenEnter a b => Sys2Proof.Machine.execRestoreTokenEnter a b s
  | .islandWrite a b => Sys2Proof.Machine.execIslandWrite a b s
  | .islandChangeDone a => Sys2Proof.Machine.execIslandChangeDone a s
  | .jctlWrite a b => Sys2Proof.Machine.execJctlWrite a b s
  | .jkeysWrite a b => Sys2Proof.Machine.execJkeysWrite a b s
  | .jtrustWrite a b => Sys2Proof.Machine.execJtrustWrite a b s
  | .dbgdataRead a b => Sys2Proof.Machine.execDbgdataRead a b s
  | .dbgdataWrite a b => Sys2Proof.Machine.execDbgdataWrite a b s
  | .nodeidWrite a b => Sys2Proof.Machine.execNodeidWrite a b s
  | .apcmdGrant a => Sys2Proof.Machine.execApcmdGrant a s
  | .apcmdMigrate a => Sys2Proof.Machine.execApcmdMigrate a s
  | .apcmdRevoke => Sys2Proof.Machine.execApcmdRevoke s
  | .apcmdReserved => Sys2Proof.Machine.execApcmdReserved s
  | .modeSecureWrite a b => Sys2Proof.Machine.execModeSecureWrite a b s
  | .modeSnapshotWrite a b => Sys2Proof.Machine.execModeSnapshotWrite a b s
  | .modeDebugWrite a b => Sys2Proof.Machine.execModeDebugWrite a b s
  | .modeThrottleWrite a b => Sys2Proof.Machine.execModeThrottleWrite a b s
  | .controlRegisterWrite a b => Sys2Proof.Machine.execControlRegisterWrite a b s
  | .promote a b c d => Sys2Proof.Machine.execPromote a b c d s
  | .evictPage a => Sys2Proof.Machine.execEvictPage a s
  | .planPrefetch a b c d => Sys2Proof.Machine.execPlanPrefetch a b c d s
  | .durableAppend => Sys2Proof.Machine.execDurableAppend s
  | .compaction a => Sys2Proof.Machine.execCompaction a s
  | .powerLoss => Sys2Proof.Machine.execPowerLoss s
  | .holdupLow a => Sys2Proof.Machine.execHoldupLow a s
  | .counterReencrypt a b => Sys2Proof.Machine.execCounterReencrypt a b s
  | .counterWriteback a b => Sys2Proof.Machine.execCounterWriteback a b s
  | .scrubRead a b => Sys2Proof.Machine.execScrubRead a b s
  | .scrubLevel a => Sys2Proof.Machine.execScrubLevel a s
  | .ptpMessage a b => Sys2Proof.Machine.execPtpMessage a b s
  | .timeCorrection a b => Sys2Proof.Machine.execTimeCorrection a b s
  | .timeFailover => Sys2Proof.Machine.execTimeFailover s
  | .flitReplay a => Sys2Proof.Machine.execFlitReplay a s
  | .linkStateChange a b c => Sys2Proof.Machine.execLinkStateChange a b c s
  | .packetRoute a b => Sys2Proof.Machine.execPacketRoute a b s
  | .escapeTimeout a => Sys2Proof.Machine.execEscapeTimeout a s
  | .packetReceive a b => Sys2Proof.Machine.execPacketReceive a b s
  | .ackReceive a b => Sys2Proof.Machine.execAckReceive a b s
  | .rejectReceive a b => Sys2Proof.Machine.execRejectReceive a b s
  | .collComplete a b => Sys2Proof.Machine.execCollComplete a b s
  | .spdmMessage a b => Sys2Proof.Machine.execSpdmMessage a b s
  | .rekeyDrain a b c => Sys2Proof.Machine.execRekeyDrain a b c s
  | .rekeySwitch a => Sys2Proof.Machine.execRekeySwitch a s
  | .rekeyTimeout => Sys2Proof.Machine.execRekeyTimeout s
  | .mboxNop => Sys2Proof.Machine.execMboxNop s
  | .mboxReadboot => Sys2Proof.Machine.execMboxReadboot s
  | .mboxRestart => Sys2Proof.Machine.execMboxRestart s
  | .mboxClearfail => Sys2Proof.Machine.execMboxClearfail s
  | .mboxMeasure => Sys2Proof.Machine.execMboxMeasure s
  | .mboxRefused a => Sys2Proof.Machine.execMboxRefused a s
  | .coldStart a => Sys2Proof.Machine.execColdStart a s
  | .stageTimeout a => Sys2Proof.Machine.execStageTimeout a s
  | .thermalEvent a b => Sys2Proof.Machine.execThermalEvent a b s
  | .stagingBufferWriteback a => Sys2Proof.Machine.execStagingBufferWriteback a s
  | .holdupRegained a => Sys2Proof.Machine.execHoldupRegained a s
  | .powerControllerWrite a b c => Sys2Proof.Machine.execPowerControllerWrite a b c s
  | .lockHoldover => Sys2Proof.Machine.execLockHoldover s

end Sys2Proof.Machine
end

