-- ==== Sys2Proof/WellFormed.lean ====
section
/-! DEFINITION. Well-formed instructions: the word the fields stand for passes the decode check of 02 R67 in some place, and
the fields that tell an opcode's rows apart name this row. An event row is well formed when its indexes name units that
exist (00 R4, R5). -/

namespace Sys2Proof

open Sys2Proof.Machine

/-- The word passes the decode check in an element or on a control core. -/
def legalWord (w : Word) : Bool := check false w == 0 || check true w == 0

/-- Element and core numbers of a package: 0-4,095, then 4,096 + 4 × die + core (00 R5, 22 R522). -/
def unitOk (p : Nat) : Bool := p < 4128
/-- Element numbers (00 R5). -/
def elemOk (e : Nat) : Bool := e < 4096
/-- Cluster indexes (00 R5). -/
def clusterOk (c : Nat) : Bool := c < 256
/-- Die numbers (00 R4). -/
def dieOk (d : Nat) : Bool := d < 8

/-- An input that exists (06 R167, 10 R279, R301, 09 R264). -/
def inPortOk : InPort → Bool
  | .elem e ch => elemOk e && ch < 4
  | .oper cl k i => clusterOk cl && k < 27 && i < 4
  | .tile d g i => dieOk d && g < 16 && i < 2

/-- A router input that exists (10 R301). -/
def routerInOk : RouterIn → Bool
  | .mesh d => d < 4
  | .el j => j < 4
  | .att p i => p < 2 && i < 4

/-- A request source that exists. -/
def reqSrcOk : ReqSrc → Bool
  | .unit p _ => unitOk p
  | .copy d k _ _ => dieOk d && k < 128
  | .home _ => true

/-- A sparse-update unit that exists (10 R278). -/
def suuOk : SuuId → Bool
  | .cluster cl j => clusterOk cl && j < 2
  | .edge d j => dieOk d && j < 32

/-- A register of a context that an ECC error can strike: x0-x15, a codebook quarter, FPMODE, FPFLAGS, PATIENCE or DEADLINE, and
CTXJOB on a core (04 R94, 15 R397). -/
def eccReg (core : Bool) (r : Nat) : Bool := r < 16 || (r % 64 == 0 && 64 ≤ r && (r ≤ 768 || (core && r == 1920)))

/-- A place an ECC error can strike. -/
def eccOk : EccSite → Bool
  | .slot e s => elemOk e && s < 32
  | .reg p c r => unitOk p && c < 4 && eccReg (decide (4096 ≤ p)) r
  | .element e => elemOk e
  | .scratch cl off => clusterOk cl && off < 2 ^ 22
  | .oper cl k => clusterOk cl && k < 27
  | .edge d kind unit => dieOk d && unit < edgeUnits kind
  | .line d n => dieOk d && n < 1310720 * 1024
  | .block d n => dieOk d && n / 2 ^ 32 < 8 && n % 2 ^ 32 < 1310720 * 16 / 8 ^ (n / 2 ^ 32)

/-- A packet's header fields fit, and its payload has at most 64 bytes (22 R508, R509). -/
def packetOk (k : Packet) : Bool :=
  k.dst < 256 && k.src < 256 && k.ptype < 16 && k.op < 16 && k.len ≤ 64 && k.payload.length == (if k.ptype = 0 then 0 else (k.len + 7) / 8) &&
    k.epoch < 2 ^ 16 && k.seq < 2 ^ 64 && k.addr < 2 ^ 128

/-- Well-formedness of an instruction or event. -/
def Instr.wf : Instr → Bool
  | .add f => legalWord (rword 0x00 f)
  | .sub f => legalWord (rword 0x01 f)
  | .mul f => legalWord (rword 0x02 f)
  | .mulh f => legalWord (rword 0x03 f)
  | .mulhu f => legalWord (rword 0x04 f)
  | .div f => legalWord (rword 0x05 f)
  | .divu f => legalWord (rword 0x06 f)
  | .rem f => legalWord (rword 0x07 f)
  | .remu f => legalWord (rword 0x08 f)
  | .min f => legalWord (rword 0x09 f)
  | .max f => legalWord (rword 0x0A f)
  | .minu f => legalWord (rword 0x0B f)
  | .maxu f => legalWord (rword 0x0C f)
  | .abs f => legalWord (rword 0x0D f)
  | .neg f => legalWord (rword 0x0E f)
  | .mad f => legalWord (rword 0x0F f)
  | .and f => legalWord (rword 0x10 f)
  | .or f => legalWord (rword 0x11 f)
  | .xor f => legalWord (rword 0x12 f)
  | .andn f => legalWord (rword 0x13 f)
  | .orn f => legalWord (rword 0x14 f)
  | .xnor f => legalWord (rword 0x15 f)
  | .shl f => legalWord (rword 0x16 f)
  | .shr f => legalWord (rword 0x17 f)
  | .sar f => legalWord (rword 0x18 f)
  | .rol f => legalWord (rword 0x19 f)
  | .ror f => legalWord (rword 0x1A f)
  | .clz f => legalWord (rword 0x1B f)
  | .ctz f => legalWord (rword 0x1C f)
  | .popc f => legalWord (rword 0x1D f)
  | .brev f => legalWord (rword 0x1E f)
  | .bswap f => legalWord (rword 0x1F f)
  | .cmp f => legalWord (rword 0x20 f)
  | .sel f => legalWord (rword 0x21 f)
  | .mov f => legalWord (rword 0x22 f)
  | .ext f => legalWord (rword 0x23 f)
  | .bfx f => legalWord (rword 0x24 f)
  | .bfi f => legalWord (rword 0x25 f)
  | .packlh f => legalWord (rword 0x26 f)
  | .splat f => legalWord (rword 0x27 f)
  | .clamp f => legalWord (rword 0x28 f)
  | .addi f => legalWord (iword 0x30 f)
  | .muli f => legalWord (iword 0x31 f)
  | .andi f => legalWord (iword 0x32 f)
  | .ori f => legalWord (iword 0x33 f)
  | .xori f => legalWord (iword 0x34 f)
  | .shli f => legalWord (iword 0x35 f)
  | .shri f => legalWord (iword 0x36 f)
  | .sari f => legalWord (iword 0x37 f)
  | .roli f => legalWord (iword 0x38 f)
  | .cmpi f => legalWord (iword 0x39 f)
  | .mini f => legalWord (iword 0x3A f)
  | .maxi f => legalWord (iword 0x3B f)
  | .movi f => legalWord (iword 0x3C f)
  | .movw f => legalWord (wword 0x3D f) && f.ins.toNat == 0
  | .movwIns f => legalWord (wword 0x3D f) && f.ins.toNat == 1
  | .pset f => legalWord (rword 0x40 f)
  | .pget f => legalWord (rword 0x41 f)
  | .plogic f => legalWord (rword 0x42 f)
  | .nop f => legalWord (rword 0x43 f)
  | .halt f => legalWord (rword 0x44 f)
  | .sleepu f => legalWord (rword 0x45 f)
  | .time f => legalWord (rword 0x46 f)
  | .spr f => legalWord (iword 0x47 f)
  | .spw f => legalWord (iword 0x48 f)
  | .trap f => legalWord (iword 0x49 f)
  | .brkpt f => legalWord (rword 0x4A f)
  | .trace f => legalWord (rword 0x4B f)
  | .fadd f => legalWord (rword 0x50 f)
  | .fsub f => legalWord (rword 0x51 f)
  | .fmul f => legalWord (rword 0x52 f)
  | .ffma f => legalWord (rword 0x53 f)
  | .ffms f => legalWord (rword 0x54 f)
  | .fdiv f => legalWord (rword 0x55 f)
  | .fsqrt f => legalWord (rword 0x56 f)
  | .fmin f => legalWord (rword 0x57 f)
  | .fmax f => legalWord (rword 0x58 f)
  | .fabs f => legalWord (rword 0x59 f)
  | .fneg f => legalWord (rword 0x5A f)
  | .fcmp f => legalWord (rword 0x5B f)
  | .fclass f => legalWord (rword 0x5C f)
  | .frint f => legalWord (rword 0x5D f)
  | .fscale f => legalWord (rword 0x5E f)
  | .frcpa f => legalWord (rword 0x5F f)
  | .badd f => legalWord (rword 0x60 f)
  | .bsub f => legalWord (rword 0x61 f)
  | .bmul f => legalWord (rword 0x62 f)
  | .bfma f => legalWord (rword 0x63 f)
  | .bmin f => legalWord (rword 0x64 f)
  | .bmax f => legalWord (rword 0x65 f)
  | .bcmp f => legalWord (rword 0x66 f)
  | .bdot f => legalWord (rword 0x67 f)
  | .bsgn f => legalWord (rword 0x68 f)
  | .bsum f => legalWord (rword 0x69 f)
  | .vadd f => legalWord (rword 0x70 f)
  | .vsub f => legalWord (rword 0x71 f)
  | .vadds f => legalWord (rword 0x72 f)
  | .vsubs f => legalWord (rword 0x73 f)
  | .vmul f => legalWord (rword 0x74 f)
  | .vmulh f => legalWord (rword 0x75 f)
  | .vmin f => legalWord (rword 0x76 f)
  | .vmax f => legalWord (rword 0x77 f)
  | .vabs f => legalWord (rword 0x78 f)
  | .vshl f => legalWord (rword 0x79 f)
  | .vshr f => legalWord (rword 0x7A f)
  | .vsar f => legalWord (rword 0x7B f)
  | .vcmp f => legalWord (rword 0x7C f)
  | .vsum f => legalWord (rword 0x7D f)
  | .vperm f => legalWord (rword 0x7E f)
  | .vpacks f => legalWord (rword 0x7F f)
  | .fcvt f => legalWord (rword 0x80 f)
  | .ftoi f => legalWord (rword 0x81 f)
  | .itof f => legalWord (rword 0x82 f)
  | .bcvtPack f => legalWord (rword 0x83 f) && f.mod.toNat / 8 == 0
  | .bcvtUnpack f => legalWord (rword 0x83 f) && f.mod.toNat / 8 == 1
  | .cbld f => legalWord (rword 0x86 f)
  | .cbdec f => legalWord (rword 0x84 f)
  | .cbenc f => legalWord (rword 0x85 f)
  | .tagset f => legalWord (rword 0x87 f)
  | .tagof f => legalWord (rword 0x88 f)
  | .csares f => legalWord (rword 0x89 f)
  | .csaadd f => legalWord (rword 0x8A f)
  | .fwd f => legalWord (rword 0x90 f)
  | .emit f => legalWord (rword 0x91 f)
  | .drop f => legalWord (rword 0x92 f)
  | .peek f => legalWord (rword 0x93 f)
  | .pgive f => legalWord (rword 0x94 f)
  | .chcfg f => legalWord (rword 0x95 f)
  | .ctrlw f => legalWord (rword 0x96 f)
  | .hndbind f => legalWord (rword 0x97 f)
  | .tsend f => legalWord (rword 0xA0 f)
  | .tsend2 f => legalWord (rword 0xA1 f)
  | .tdone f => legalWord (rword 0xA2 f)
  | .tsubmit f => legalWord (rword 0xA3 f)
  | .launch f => legalWord (rword 0xA4 f)
  | .cancel f => legalWord (rword 0xA5 f)
  | .wcount f => legalWord (rword 0xA6 f)
  | .klend f => legalWord (rword 0xA7 f) && f.mod.toNat % 4 == 0
  | .klendRet f => legalWord (rword 0xA7 f) && f.mod.toNat % 4 == 1
  | .klendQ f => legalWord (rword 0xA7 f) && f.mod.toNat % 4 == 2
  | .ld f => legalWord (rword 0xB0 f)
  | .st f => legalWord (rword 0xB1 f)
  | .stp f => legalWord (rword 0xB2 f)
  | .ldacq f => legalWord (rword 0xB3 f)
  | .strel f => legalWord (rword 0xB4 f)
  | .fence f => legalWord (rword 0xB5 f)
  | .flush f => legalWord (rword 0xB6 f)
  | .ldw f => legalWord (rword 0xB7 f)
  | .stw f => legalWord (rword 0xB8 f)
  | .pref f => legalWord (rword 0xB9 f)
  | .atom f => legalWord (rword 0xC0 f)
  | .cas f => legalWord (rword 0xC1 f)
  | .alloc f => legalWord (rword 0xD0 f)
  | .free f => legalWord (rword 0xD1 f)
  | .seal f => legalWord (rword 0xD2 f)
  | .persist f => legalWord (rword 0xD3 f)
  | .hbind f => legalWord (rword 0xD4 f)
  | .hexp f => legalWord (rword 0xD5 f)
  | .hshort f => legalWord (rword 0xD6 f)
  | .hdrop f => legalWord (rword 0xD7 f)
  | .objq f => legalWord (rword 0xD8 f)
  | .planLoad f => legalWord (rword 0xD9 f) && f.mod.toNat % 4 == 0
  | .planStep f => legalWord (rword 0xD9 f) && f.mod.toNat % 4 == 1
  | .planDrop f => legalWord (rword 0xD9 f) && f.mod.toNat % 4 == 2
  | .evict f => legalWord (rword 0xDA f)
  | .syncadd f => legalWord (rword 0xC2 f)
  | .syncrd f => legalWord (rword 0xC3 f)
  | .syncset f => legalWord (rword 0xC4 f)
  | .tlook f => legalWord (rword 0xC5 f)
  | .tset f => legalWord (rword 0xC6 f)
  | .tclr f => legalWord (rword 0xC7 f)
  | .tiletagCas f => legalWord (rword 0xC8 f) && f.sb.toNat == 0
  | .tiletagSet f => legalWord (rword 0xC8 f) && f.sb.toNat == 1
  | .tiletagRd f => legalWord (rword 0xC8 f) && f.sb.toNat == 2
  | .sfree f => legalWord (rword 0xC9 f)
  | .sbind f => legalWord (rword 0xE0 f)
  | .scancel f => legalWord (rword 0xE1 f)
  | .mxbind f => legalWord (rword 0xE2 f) && f.mod.toNat % 4 == 0
  | .mxbindCb f => legalWord (rword 0xE2 f) && f.mod.toNat % 4 == 1
  | .mxbindFree f => legalWord (rword 0xE2 f) && f.mod.toNat % 4 == 2
  | .mxpri f => legalWord (rword 0xE3 f)
  | .mxstat f => legalWord (rword 0xE4 f)
  | .gload f => legalWord (rword 0xE5 f)
  | .gbind f => legalWord (rword 0xE6 f)
  | .gunload f => legalWord (rword 0xE7 f)
  | .opcfg f => legalWord (rword 0xE8 f)
  | .oprd f => legalWord (rword 0xE9 f)
  | .collSumf f => legalWord (rword 0xEA f) && f.mod.toNat == 0
  | .collMinf f => legalWord (rword 0xEA f) && f.mod.toNat == 1
  | .collMaxf f => legalWord (rword 0xEA f) && f.mod.toNat == 2
  | .collSumi f => legalWord (rword 0xEA f) && f.mod.toNat == 3
  | .collMini f => legalWord (rword 0xEA f) && f.mod.toNat == 4
  | .collMaxi f => legalWord (rword 0xEA f) && f.mod.toNat == 5
  | .collBcast f => legalWord (rword 0xEA f) && f.mod.toNat == 6
  | .collBarrier f => legalWord (rword 0xEA f) && f.mod.toNat == 7
  | .br f => legalWord (bword 0xF0 f)
  | .brl f => legalWord (bword 0xF1 f)
  | .bx f => legalWord (rword 0xF2 f)
  | .evpop f => legalWord (rword 0xF3 f)
  | .mbxpop f => legalWord (rword 0xF4 f)
  | .cfgload f => legalWord (rword 0xF5 f)
  | .run f => legalWord (rword 0xF6 f) && f.sb.toNat == 24
  | .runContext f => legalWord (rword 0xF6 f) && f.sb.toNat != 24
  | .freeze f => legalWord (rword 0xF7 f) && f.mod.toNat % 2 == 0
  | .freezeRel f => legalWord (rword 0xF7 f) && f.mod.toNat % 2 == 1
  | .thaw f => legalWord (rword 0xF8 f)
  | .barrier f => legalWord (rword 0xFC f)
  | .markSnap f => legalWord (rword 0xF9 f) && f.mod.toNat % 2 == 0
  | .markPre f => legalWord (rword 0xF9 f) && f.mod.toNat % 2 == 1
  | .save f => legalWord (rword 0xFA f) && f.mod.toNat % 2 == 0
  | .saveRel f => legalWord (rword 0xFA f) && f.mod.toNat % 2 == 1
  | .restore f => legalWord (rword 0xFB f)
  | .rekey f => legalWord (rword 0xFD f)
  | .resumeRetry f => legalWord (rword 0xFE f) && f.mod.toNat % 4 == 0
  | .resumeSkip f => legalWord (rword 0xFE f) && f.mod.toNat % 4 == 1
  | .resumeRoll f => legalWord (rword 0xFE f) && f.mod.toNat % 4 == 2
  | .resumeCancel f => legalWord (rword 0xFE f) && f.mod.toNat % 4 == 3
  | .illegalSlotIssue => true
  | .brkSlotBit => true
  | .coreFetchFault => true
  | .resultDelivery p c _ => unitOk p && c < 4
  | .tokenArrival port => inPortOk port
  | .steerResult cl j => clusterOk cl && j < 2
  | .discardHead e ch => elemOk e && ch < 4
  | .taskPacketArrival e _ => elemOk e
  | .tlHeadChoice e => elemOk e
  | .taskInject p => unitOk p
  | .sleepWake p c => unitOk p && c < 4
  | .traceRecordPost p => unitOk p
  | .elEventPost e => elemOk e
  | .unitComplete d _ => dieOk d
  | .eccError site _ => eccOk site
  | .routeToken cl r src => clusterOk cl && r < 16 && routerInOk src
  | .memoryRequestServe src => reqSrcOk src
  | .mlResponse p _ => unitOk p
  | .strelWrite p _ => unitOk p
  | .fenceResponse p _ => unitOk p
  | .sealComplete p _ => unitOk p
  | .persistComplete p _ => unitOk p
  | .objectReclaim _ => true
  | .copyPositionBegin d _ => dieOk d
  | .counterFire cl j => clusterOk cl && j < 8
  | .copyEnd d _ => dieOk d
  | .normalise cl j => clusterOk cl && j < 2
  | .convert cl j => clusterOk cl && j < 2
  | .suuUpdate u => suuOk u
  | .suuWindowClose u => suuOk u
  | .reduceGroup cl => clusterOk cl
  | .coalesceIssue d g => dieOk d && g < 16
  | .mxEntryCreate cl u t => clusterOk cl && u < 4 && t < 8
  | .mxStandbyLatch cl u => clusterOk cl && u < 4
  | .mxLatchEnd cl u => clusterOk cl && u < 4
  | .mxPark cl u => clusterOk cl && u < 4
  | .mxComputeEnd cl u => clusterOk cl && u < 4
  | .mxDeliver cl u => clusterOk cl && u < 4
  | .espTokenTake cl u => clusterOk cl && u < 4
  | .espRowOutput cl u => clusterOk cl && u < 4
  | .dispatchDecide d => dieOk d
  | .taskDelivery d e => dieOk d && elemOk e
  | .workCounterDone d lvl _ => dieOk d && lvl < 5
  | .regionComplete d g => dieOk d && g < 64
  | .eventRecordPost d _ => dieOk d
  | .faultRecord d => dieOk d
  | .watchdogExpiry d g => dieOk d && g < 64
  | .cutMarkerArrival port => inPortOk port
  | .saveRecordWrite d g => dieOk d && g < 64
  | .cutComplete d g => dieOk d && g < 64
  | .restoreTokenEnter d g => dieOk d && g < 64
  | .islandWrite p _ => unitOk p
  | .islandChangeDone cl => clusterOk cl
  | .jctlWrite p _ => unitOk p
  | .jkeysWrite p _ => unitOk p
  | .jtrustWrite p _ => unitOk p
  | .dbgdataRead p _ => unitOk p
  | .dbgdataWrite p _ => unitOk p
  | .nodeidWrite p _ => unitOk p
  | .apcmdGrant _ => true
  | .apcmdMigrate _ => true
  | .apcmdRevoke => true
  | .apcmdReserved => true
  | .modeSecureWrite p _ => unitOk p
  | .modeSnapshotWrite p _ => unitOk p
  | .modeDebugWrite p _ => unitOk p
  | .modeThrottleWrite p _ => unitOk p
  | .controlRegisterWrite p _ => unitOk p
  | .promote _ die _ _ => dieOk die
  | .evictPage _ => true
  | .planPrefetch p _ die _ => p < 16 && dieOk die
  | .durableAppend => true
  | .compaction _ => true
  | .powerLoss => true
  | .holdupLow _ => true
  | .counterReencrypt d _ => dieOk d
  | .counterWriteback d _ => dieOk d
  | .scrubRead d _ => dieOk d
  | .scrubLevel d => dieOk d
  | .ptpMessage link _ => link < 16
  | .timeCorrection _ lock => lock < 4
  | .timeFailover => true
  | .flitReplay link => link < 16
  | .linkStateChange link _ _ => link < 16
  | .packetRoute _ link => link < 16
  | .escapeTimeout _ => true
  | .packetReceive k _ => packetOk k
  | .ackReceive k _ => packetOk k
  | .rejectReceive k _ => packetOk k
  | .collComplete g _ => g < 16
  | .spdmMessage _ _ => true
  | .rekeyDrain _ _ _ => true
  | .rekeySwitch _ => true
  | .rekeyTimeout => true
  | .mboxNop => true
  | .mboxReadboot => true
  | .mboxRestart => true
  | .mboxClearfail => true
  | .mboxMeasure => true
  | .mboxRefused _ => true
  | .coldStart _ => true
  | .stageTimeout _ => true
  | .thermalEvent _ _ => true
  | .stagingBufferWriteback _ => true
  | .holdupRegained _ => true
  | .powerControllerWrite d _ _ => dieOk d
  | .lockHoldover => true

end Sys2Proof
end

