-- ==== Sys2Proof/Decode.lean ====
section
/-! DEFINITION. The decoder, total on any bytes, and after it the encoder, both from the opcode map of 02 R65 and the forms of
02 R52. A word is refused by the reason names of 02 R68; fewer than eight bytes are refused as truncated. Where an opcode has
several rows in the operation table, the field that tells them apart is the one its instruction table names. -/

namespace Sys2Proof

open Sys2Proof.Machine

/-- Why bytes are no instruction: the reason codes of 02 R68, and bytes that end inside a word. -/
inductive Reject where
  /-- reason 1: a reserved opcode, or 0xFF -/
  | badOpcode
  /-- reason 2 -/
  | badOperand
  /-- reason 3 -/
  | badField
  /-- reason 4 -/
  | badMode
  /-- fewer than eight bytes -/
  | truncated
  deriving DecidableEq, Repr

/-- The name of a reason code of 02 R68. -/
def rejectOf : Nat → Reject
  | 1 => .badOpcode
  | 2 => .badOperand
  | 3 => .badField
  | 4 => .badMode
  | _ => .truncated

/-- Opcodes 0x00 to 0x0F (02 R65), by the low digit. -/
def decodeRow0 (w : Word) : Nat → Except Reject Instr
  | 0 => .ok (.add (rformOf w))
  | 1 => .ok (.sub (rformOf w))
  | 2 => .ok (.mul (rformOf w))
  | 3 => .ok (.mulh (rformOf w))
  | 4 => .ok (.mulhu (rformOf w))
  | 5 => .ok (.div (rformOf w))
  | 6 => .ok (.divu (rformOf w))
  | 7 => .ok (.rem (rformOf w))
  | 8 => .ok (.remu (rformOf w))
  | 9 => .ok (.min (rformOf w))
  | 10 => .ok (.max (rformOf w))
  | 11 => .ok (.minu (rformOf w))
  | 12 => .ok (.maxu (rformOf w))
  | 13 => .ok (.abs (rformOf w))
  | 14 => .ok (.neg (rformOf w))
  | 15 => .ok (.mad (rformOf w))
  | _ => .error .badOpcode

/-- Opcodes 0x10 to 0x1F (02 R65), by the low digit. -/
def decodeRow1 (w : Word) : Nat → Except Reject Instr
  | 0 => .ok (.and (rformOf w))
  | 1 => .ok (.or (rformOf w))
  | 2 => .ok (.xor (rformOf w))
  | 3 => .ok (.andn (rformOf w))
  | 4 => .ok (.orn (rformOf w))
  | 5 => .ok (.xnor (rformOf w))
  | 6 => .ok (.shl (rformOf w))
  | 7 => .ok (.shr (rformOf w))
  | 8 => .ok (.sar (rformOf w))
  | 9 => .ok (.rol (rformOf w))
  | 10 => .ok (.ror (rformOf w))
  | 11 => .ok (.clz (rformOf w))
  | 12 => .ok (.ctz (rformOf w))
  | 13 => .ok (.popc (rformOf w))
  | 14 => .ok (.brev (rformOf w))
  | 15 => .ok (.bswap (rformOf w))
  | _ => .error .badOpcode

/-- Opcodes 0x20 to 0x2F (02 R65), by the low digit. -/
def decodeRow2 (w : Word) : Nat → Except Reject Instr
  | 0 => .ok (.cmp (rformOf w))
  | 1 => .ok (.sel (rformOf w))
  | 2 => .ok (.mov (rformOf w))
  | 3 => .ok (.ext (rformOf w))
  | 4 => .ok (.bfx (rformOf w))
  | 5 => .ok (.bfi (rformOf w))
  | 6 => .ok (.packlh (rformOf w))
  | 7 => .ok (.splat (rformOf w))
  | 8 => .ok (.clamp (rformOf w))
  | _ => .error .badOpcode

/-- Opcodes 0x30 to 0x3F (02 R65), by the low digit. -/
def decodeRow3 (w : Word) : Nat → Except Reject Instr
  | 0 => .ok (.addi (iformOf w))
  | 1 => .ok (.muli (iformOf w))
  | 2 => .ok (.andi (iformOf w))
  | 3 => .ok (.ori (iformOf w))
  | 4 => .ok (.xori (iformOf w))
  | 5 => .ok (.shli (iformOf w))
  | 6 => .ok (.shri (iformOf w))
  | 7 => .ok (.sari (iformOf w))
  | 8 => .ok (.roli (iformOf w))
  | 9 => .ok (.cmpi (iformOf w))
  | 10 => .ok (.mini (iformOf w))
  | 11 => .ok (.maxi (iformOf w))
  | 12 => .ok (.movi (iformOf w))
  | 13 =>
    match fldN w 2 1 with
    | 0 => .ok (.movw (wformOf w))
    | _ => .ok (.movwIns (wformOf w))
  | _ => .error .badOpcode

/-- Opcodes 0x40 to 0x4F (02 R65), by the low digit. -/
def decodeRow4 (w : Word) : Nat → Except Reject Instr
  | 0 => .ok (.pset (rformOf w))
  | 1 => .ok (.pget (rformOf w))
  | 2 => .ok (.plogic (rformOf w))
  | 3 => .ok (.nop (rformOf w))
  | 4 => .ok (.halt (rformOf w))
  | 5 => .ok (.sleepu (rformOf w))
  | 6 => .ok (.time (rformOf w))
  | 7 => .ok (.spr (iformOf w))
  | 8 => .ok (.spw (iformOf w))
  | 9 => .ok (.trap (iformOf w))
  | 10 => .ok (.brkpt (rformOf w))
  | 11 => .ok (.trace (rformOf w))
  | _ => .error .badOpcode

/-- Opcodes 0x50 to 0x5F (02 R65), by the low digit. -/
def decodeRow5 (w : Word) : Nat → Except Reject Instr
  | 0 => .ok (.fadd (rformOf w))
  | 1 => .ok (.fsub (rformOf w))
  | 2 => .ok (.fmul (rformOf w))
  | 3 => .ok (.ffma (rformOf w))
  | 4 => .ok (.ffms (rformOf w))
  | 5 => .ok (.fdiv (rformOf w))
  | 6 => .ok (.fsqrt (rformOf w))
  | 7 => .ok (.fmin (rformOf w))
  | 8 => .ok (.fmax (rformOf w))
  | 9 => .ok (.fabs (rformOf w))
  | 10 => .ok (.fneg (rformOf w))
  | 11 => .ok (.fcmp (rformOf w))
  | 12 => .ok (.fclass (rformOf w))
  | 13 => .ok (.frint (rformOf w))
  | 14 => .ok (.fscale (rformOf w))
  | 15 => .ok (.frcpa (rformOf w))
  | _ => .error .badOpcode

/-- Opcodes 0x60 to 0x6F (02 R65), by the low digit. -/
def decodeRow6 (w : Word) : Nat → Except Reject Instr
  | 0 => .ok (.badd (rformOf w))
  | 1 => .ok (.bsub (rformOf w))
  | 2 => .ok (.bmul (rformOf w))
  | 3 => .ok (.bfma (rformOf w))
  | 4 => .ok (.bmin (rformOf w))
  | 5 => .ok (.bmax (rformOf w))
  | 6 => .ok (.bcmp (rformOf w))
  | 7 => .ok (.bdot (rformOf w))
  | 8 => .ok (.bsgn (rformOf w))
  | 9 => .ok (.bsum (rformOf w))
  | _ => .error .badOpcode

/-- Opcodes 0x70 to 0x7F (02 R65), by the low digit. -/
def decodeRow7 (w : Word) : Nat → Except Reject Instr
  | 0 => .ok (.vadd (rformOf w))
  | 1 => .ok (.vsub (rformOf w))
  | 2 => .ok (.vadds (rformOf w))
  | 3 => .ok (.vsubs (rformOf w))
  | 4 => .ok (.vmul (rformOf w))
  | 5 => .ok (.vmulh (rformOf w))
  | 6 => .ok (.vmin (rformOf w))
  | 7 => .ok (.vmax (rformOf w))
  | 8 => .ok (.vabs (rformOf w))
  | 9 => .ok (.vshl (rformOf w))
  | 10 => .ok (.vshr (rformOf w))
  | 11 => .ok (.vsar (rformOf w))
  | 12 => .ok (.vcmp (rformOf w))
  | 13 => .ok (.vsum (rformOf w))
  | 14 => .ok (.vperm (rformOf w))
  | 15 => .ok (.vpacks (rformOf w))
  | _ => .error .badOpcode

/-- Opcodes 0x80 to 0x8F (02 R65), by the low digit. -/
def decodeRow8 (w : Word) : Nat → Except Reject Instr
  | 0 => .ok (.fcvt (rformOf w))
  | 1 => .ok (.ftoi (rformOf w))
  | 2 => .ok (.itof (rformOf w))
  | 3 =>
    match fldN w 3 1 with
    | 0 => .ok (.bcvtPack (rformOf w))
    | _ => .ok (.bcvtUnpack (rformOf w))
  | 4 => .ok (.cbdec (rformOf w))
  | 5 => .ok (.cbenc (rformOf w))
  | 6 => .ok (.cbld (rformOf w))
  | 7 => .ok (.tagset (rformOf w))
  | 8 => .ok (.tagof (rformOf w))
  | 9 => .ok (.csares (rformOf w))
  | 10 => .ok (.csaadd (rformOf w))
  | _ => .error .badOpcode

/-- Opcodes 0x90 to 0x9F (02 R65), by the low digit. -/
def decodeRow9 (w : Word) : Nat → Except Reject Instr
  | 0 => .ok (.fwd (rformOf w))
  | 1 => .ok (.emit (rformOf w))
  | 2 => .ok (.drop (rformOf w))
  | 3 => .ok (.peek (rformOf w))
  | 4 => .ok (.pgive (rformOf w))
  | 5 => .ok (.chcfg (rformOf w))
  | 6 => .ok (.ctrlw (rformOf w))
  | 7 => .ok (.hndbind (rformOf w))
  | _ => .error .badOpcode

/-- Opcodes 0xA0 to 0xAF (02 R65), by the low digit. -/
def decodeRowA (w : Word) : Nat → Except Reject Instr
  | 0 => .ok (.tsend (rformOf w))
  | 1 => .ok (.tsend2 (rformOf w))
  | 2 => .ok (.tdone (rformOf w))
  | 3 => .ok (.tsubmit (rformOf w))
  | 4 => .ok (.launch (rformOf w))
  | 5 => .ok (.cancel (rformOf w))
  | 6 => .ok (.wcount (rformOf w))
  | 7 =>
    match fldN w 0 2 with
    | 0 => .ok (.klend (rformOf w))
    | 1 => .ok (.klendRet (rformOf w))
    | 2 => .ok (.klendQ (rformOf w))
    | _ => .error .badField
  | _ => .error .badOpcode

/-- Opcodes 0xB0 to 0xBF (02 R65), by the low digit. -/
def decodeRowB (w : Word) : Nat → Except Reject Instr
  | 0 => .ok (.ld (rformOf w))
  | 1 => .ok (.st (rformOf w))
  | 2 => .ok (.stp (rformOf w))
  | 3 => .ok (.ldacq (rformOf w))
  | 4 => .ok (.strel (rformOf w))
  | 5 => .ok (.fence (rformOf w))
  | 6 => .ok (.flush (rformOf w))
  | 7 => .ok (.ldw (rformOf w))
  | 8 => .ok (.stw (rformOf w))
  | 9 => .ok (.pref (rformOf w))
  | _ => .error .badOpcode

/-- Opcodes 0xC0 to 0xCF (02 R65), by the low digit. -/
def decodeRowC (w : Word) : Nat → Except Reject Instr
  | 0 => .ok (.atom (rformOf w))
  | 1 => .ok (.cas (rformOf w))
  | 2 => .ok (.syncadd (rformOf w))
  | 3 => .ok (.syncrd (rformOf w))
  | 4 => .ok (.syncset (rformOf w))
  | 5 => .ok (.tlook (rformOf w))
  | 6 => .ok (.tset (rformOf w))
  | 7 => .ok (.tclr (rformOf w))
  | 8 =>
    match fldN w 13 5 with
    | 0 => .ok (.tiletagCas (rformOf w))
    | 1 => .ok (.tiletagSet (rformOf w))
    | 2 => .ok (.tiletagRd (rformOf w))
    | _ => .error .badOperand
  | 9 => .ok (.sfree (rformOf w))
  | _ => .error .badOpcode

/-- Opcodes 0xD0 to 0xDF (02 R65), by the low digit. -/
def decodeRowD (w : Word) : Nat → Except Reject Instr
  | 0 => .ok (.alloc (rformOf w))
  | 1 => .ok (.free (rformOf w))
  | 2 => .ok (.seal (rformOf w))
  | 3 => .ok (.persist (rformOf w))
  | 4 => .ok (.hbind (rformOf w))
  | 5 => .ok (.hexp (rformOf w))
  | 6 => .ok (.hshort (rformOf w))
  | 7 => .ok (.hdrop (rformOf w))
  | 8 => .ok (.objq (rformOf w))
  | 9 =>
    match fldN w 0 2 with
    | 0 => .ok (.planLoad (rformOf w))
    | 1 => .ok (.planStep (rformOf w))
    | 2 => .ok (.planDrop (rformOf w))
    | _ => .error .badField
  | 10 => .ok (.evict (rformOf w))
  | _ => .error .badOpcode

/-- Opcodes 0xE0 to 0xEF (02 R65), by the low digit. -/
def decodeRowE (w : Word) : Nat → Except Reject Instr
  | 0 => .ok (.sbind (rformOf w))
  | 1 => .ok (.scancel (rformOf w))
  | 2 =>
    match fldN w 0 2 with
    | 0 => .ok (.mxbind (rformOf w))
    | 1 => .ok (.mxbindCb (rformOf w))
    | 2 => .ok (.mxbindFree (rformOf w))
    | _ => .error .badField
  | 3 => .ok (.mxpri (rformOf w))
  | 4 => .ok (.mxstat (rformOf w))
  | 5 => .ok (.gload (rformOf w))
  | 6 => .ok (.gbind (rformOf w))
  | 7 => .ok (.gunload (rformOf w))
  | 8 => .ok (.opcfg (rformOf w))
  | 9 => .ok (.oprd (rformOf w))
  | 10 =>
    match fldN w 0 4 with
    | 0 => .ok (.collSumf (rformOf w))
    | 1 => .ok (.collMinf (rformOf w))
    | 2 => .ok (.collMaxf (rformOf w))
    | 3 => .ok (.collSumi (rformOf w))
    | 4 => .ok (.collMini (rformOf w))
    | 5 => .ok (.collMaxi (rformOf w))
    | 6 => .ok (.collBcast (rformOf w))
    | 7 => .ok (.collBarrier (rformOf w))
    | _ => .error .badField
  | _ => .error .badOpcode

/-- Opcodes 0xF0 to 0xFF (02 R65), by the low digit. -/
def decodeRowF (w : Word) : Nat → Except Reject Instr
  | 0 => .ok (.br (bformOf w))
  | 1 => .ok (.brl (bformOf w))
  | 2 => .ok (.bx (rformOf w))
  | 3 => .ok (.evpop (rformOf w))
  | 4 => .ok (.mbxpop (rformOf w))
  | 5 => .ok (.cfgload (rformOf w))
  | 6 =>
    match fldN w 13 5 with
    | 24 => .ok (.run (rformOf w))
    | _ => .ok (.runContext (rformOf w))
  | 7 =>
    match fldN w 0 1 with
    | 0 => .ok (.freeze (rformOf w))
    | _ => .ok (.freezeRel (rformOf w))
  | 8 => .ok (.thaw (rformOf w))
  | 9 =>
    match fldN w 0 1 with
    | 0 => .ok (.markSnap (rformOf w))
    | _ => .ok (.markPre (rformOf w))
  | 10 =>
    match fldN w 0 1 with
    | 0 => .ok (.save (rformOf w))
    | _ => .ok (.saveRel (rformOf w))
  | 11 => .ok (.restore (rformOf w))
  | 12 => .ok (.barrier (rformOf w))
  | 13 => .ok (.rekey (rformOf w))
  | 14 =>
    match fldN w 0 2 with
    | 0 => .ok (.resumeRetry (rformOf w))
    | 1 => .ok (.resumeSkip (rformOf w))
    | 2 => .ok (.resumeRoll (rformOf w))
    | _ => .ok (.resumeCancel (rformOf w))
  | _ => .error .badOpcode

/-- The instruction of a word by its opcode and the field that tells its rows apart, before the other fields are checked. -/
def selectInstr (w : Word) : Except Reject Instr :=
  let lo := fldN w 28 4
  match fldN w 32 4 with
  | 0 => decodeRow0 w lo
  | 1 => decodeRow1 w lo
  | 2 => decodeRow2 w lo
  | 3 => decodeRow3 w lo
  | 4 => decodeRow4 w lo
  | 5 => decodeRow5 w lo
  | 6 => decodeRow6 w lo
  | 7 => decodeRow7 w lo
  | 8 => decodeRow8 w lo
  | 9 => decodeRow9 w lo
  | 10 => decodeRowA w lo
  | 11 => decodeRowB w lo
  | 12 => decodeRowC w lo
  | 13 => decodeRowD w lo
  | 14 => decodeRowE w lo
  | _ => decodeRowF w lo

/-- The instruction that a word is in a place (`core` for a control core), or the reason it is none (02 R67). -/
def decodeAt (core : Bool) (w : Word) : Except Reject Instr :=
  if check core w = 0 then selectInstr w else .error (rejectOf (check core w))

/-- The instruction of a word that is legal in an element or on a control core. A word legal in neither is refused by the
reason of an element's check. -/
def decodeWord (w : Word) : Except Reject Instr :=
  if check false w = 0 then decodeAt false w
  else if check true w = 0 then decodeAt true w
  else decodeAt false w

/-- The decoder on bytes: the instruction of the first eight, lowest address first (01 R13), with the bytes after them. -/
def decode (bs : List Byte) : Except Reject (Instr × List Byte) :=
  if bs.length < 8 then .error .truncated
  else (decodeWord (wordOf (bs.take 8))).map fun i => (i, bs.drop 8)

/-- The instruction read from a word whose bits are those of `w`, bit 0 the least significant; every bit above `nbits` is 0. -/
def decodeTableWord (nbits w : Nat) : Option Instr :=
  match decode (bytesOf 8 (BitVec.ofNat 64 (w % 2 ^ nbits))) with
  | .ok (i, _) => some i
  | .error _ => none

/-- The word of an instruction (02 R52, R65); an event row has none. -/
def encode : Instr → Option Word
  | .add f => some (rword 0x00 f)
  | .sub f => some (rword 0x01 f)
  | .mul f => some (rword 0x02 f)
  | .mulh f => some (rword 0x03 f)
  | .mulhu f => some (rword 0x04 f)
  | .div f => some (rword 0x05 f)
  | .divu f => some (rword 0x06 f)
  | .rem f => some (rword 0x07 f)
  | .remu f => some (rword 0x08 f)
  | .min f => some (rword 0x09 f)
  | .max f => some (rword 0x0A f)
  | .minu f => some (rword 0x0B f)
  | .maxu f => some (rword 0x0C f)
  | .abs f => some (rword 0x0D f)
  | .neg f => some (rword 0x0E f)
  | .mad f => some (rword 0x0F f)
  | .and f => some (rword 0x10 f)
  | .or f => some (rword 0x11 f)
  | .xor f => some (rword 0x12 f)
  | .andn f => some (rword 0x13 f)
  | .orn f => some (rword 0x14 f)
  | .xnor f => some (rword 0x15 f)
  | .shl f => some (rword 0x16 f)
  | .shr f => some (rword 0x17 f)
  | .sar f => some (rword 0x18 f)
  | .rol f => some (rword 0x19 f)
  | .ror f => some (rword 0x1A f)
  | .clz f => some (rword 0x1B f)
  | .ctz f => some (rword 0x1C f)
  | .popc f => some (rword 0x1D f)
  | .brev f => some (rword 0x1E f)
  | .bswap f => some (rword 0x1F f)
  | .cmp f => some (rword 0x20 f)
  | .sel f => some (rword 0x21 f)
  | .mov f => some (rword 0x22 f)
  | .ext f => some (rword 0x23 f)
  | .bfx f => some (rword 0x24 f)
  | .bfi f => some (rword 0x25 f)
  | .packlh f => some (rword 0x26 f)
  | .splat f => some (rword 0x27 f)
  | .clamp f => some (rword 0x28 f)
  | .addi f => some (iword 0x30 f)
  | .muli f => some (iword 0x31 f)
  | .andi f => some (iword 0x32 f)
  | .ori f => some (iword 0x33 f)
  | .xori f => some (iword 0x34 f)
  | .shli f => some (iword 0x35 f)
  | .shri f => some (iword 0x36 f)
  | .sari f => some (iword 0x37 f)
  | .roli f => some (iword 0x38 f)
  | .cmpi f => some (iword 0x39 f)
  | .mini f => some (iword 0x3A f)
  | .maxi f => some (iword 0x3B f)
  | .movi f => some (iword 0x3C f)
  | .movw f => some (wword 0x3D f)
  | .movwIns f => some (wword 0x3D f)
  | .pset f => some (rword 0x40 f)
  | .pget f => some (rword 0x41 f)
  | .plogic f => some (rword 0x42 f)
  | .nop f => some (rword 0x43 f)
  | .halt f => some (rword 0x44 f)
  | .sleepu f => some (rword 0x45 f)
  | .time f => some (rword 0x46 f)
  | .spr f => some (iword 0x47 f)
  | .spw f => some (iword 0x48 f)
  | .trap f => some (iword 0x49 f)
  | .brkpt f => some (rword 0x4A f)
  | .trace f => some (rword 0x4B f)
  | .fadd f => some (rword 0x50 f)
  | .fsub f => some (rword 0x51 f)
  | .fmul f => some (rword 0x52 f)
  | .ffma f => some (rword 0x53 f)
  | .ffms f => some (rword 0x54 f)
  | .fdiv f => some (rword 0x55 f)
  | .fsqrt f => some (rword 0x56 f)
  | .fmin f => some (rword 0x57 f)
  | .fmax f => some (rword 0x58 f)
  | .fabs f => some (rword 0x59 f)
  | .fneg f => some (rword 0x5A f)
  | .fcmp f => some (rword 0x5B f)
  | .fclass f => some (rword 0x5C f)
  | .frint f => some (rword 0x5D f)
  | .fscale f => some (rword 0x5E f)
  | .frcpa f => some (rword 0x5F f)
  | .badd f => some (rword 0x60 f)
  | .bsub f => some (rword 0x61 f)
  | .bmul f => some (rword 0x62 f)
  | .bfma f => some (rword 0x63 f)
  | .bmin f => some (rword 0x64 f)
  | .bmax f => some (rword 0x65 f)
  | .bcmp f => some (rword 0x66 f)
  | .bdot f => some (rword 0x67 f)
  | .bsgn f => some (rword 0x68 f)
  | .bsum f => some (rword 0x69 f)
  | .vadd f => some (rword 0x70 f)
  | .vsub f => some (rword 0x71 f)
  | .vadds f => some (rword 0x72 f)
  | .vsubs f => some (rword 0x73 f)
  | .vmul f => some (rword 0x74 f)
  | .vmulh f => some (rword 0x75 f)
  | .vmin f => some (rword 0x76 f)
  | .vmax f => some (rword 0x77 f)
  | .vabs f => some (rword 0x78 f)
  | .vshl f => some (rword 0x79 f)
  | .vshr f => some (rword 0x7A f)
  | .vsar f => some (rword 0x7B f)
  | .vcmp f => some (rword 0x7C f)
  | .vsum f => some (rword 0x7D f)
  | .vperm f => some (rword 0x7E f)
  | .vpacks f => some (rword 0x7F f)
  | .fcvt f => some (rword 0x80 f)
  | .ftoi f => some (rword 0x81 f)
  | .itof f => some (rword 0x82 f)
  | .bcvtPack f => some (rword 0x83 f)
  | .bcvtUnpack f => some (rword 0x83 f)
  | .cbld f => some (rword 0x86 f)
  | .cbdec f => some (rword 0x84 f)
  | .cbenc f => some (rword 0x85 f)
  | .tagset f => some (rword 0x87 f)
  | .tagof f => some (rword 0x88 f)
  | .csares f => some (rword 0x89 f)
  | .csaadd f => some (rword 0x8A f)
  | .fwd f => some (rword 0x90 f)
  | .emit f => some (rword 0x91 f)
  | .drop f => some (rword 0x92 f)
  | .peek f => some (rword 0x93 f)
  | .pgive f => some (rword 0x94 f)
  | .chcfg f => some (rword 0x95 f)
  | .ctrlw f => some (rword 0x96 f)
  | .hndbind f => some (rword 0x97 f)
  | .tsend f => some (rword 0xA0 f)
  | .tsend2 f => some (rword 0xA1 f)
  | .tdone f => some (rword 0xA2 f)
  | .tsubmit f => some (rword 0xA3 f)
  | .launch f => some (rword 0xA4 f)
  | .cancel f => some (rword 0xA5 f)
  | .wcount f => some (rword 0xA6 f)
  | .klend f => some (rword 0xA7 f)
  | .klendRet f => some (rword 0xA7 f)
  | .klendQ f => some (rword 0xA7 f)
  | .ld f => some (rword 0xB0 f)
  | .st f => some (rword 0xB1 f)
  | .stp f => some (rword 0xB2 f)
  | .ldacq f => some (rword 0xB3 f)
  | .strel f => some (rword 0xB4 f)
  | .fence f => some (rword 0xB5 f)
  | .flush f => some (rword 0xB6 f)
  | .ldw f => some (rword 0xB7 f)
  | .stw f => some (rword 0xB8 f)
  | .pref f => some (rword 0xB9 f)
  | .atom f => some (rword 0xC0 f)
  | .cas f => some (rword 0xC1 f)
  | .alloc f => some (rword 0xD0 f)
  | .free f => some (rword 0xD1 f)
  | .seal f => some (rword 0xD2 f)
  | .persist f => some (rword 0xD3 f)
  | .hbind f => some (rword 0xD4 f)
  | .hexp f => some (rword 0xD5 f)
  | .hshort f => some (rword 0xD6 f)
  | .hdrop f => some (rword 0xD7 f)
  | .objq f => some (rword 0xD8 f)
  | .planLoad f => some (rword 0xD9 f)
  | .planStep f => some (rword 0xD9 f)
  | .planDrop f => some (rword 0xD9 f)
  | .evict f => some (rword 0xDA f)
  | .syncadd f => some (rword 0xC2 f)
  | .syncrd f => some (rword 0xC3 f)
  | .syncset f => some (rword 0xC4 f)
  | .tlook f => some (rword 0xC5 f)
  | .tset f => some (rword 0xC6 f)
  | .tclr f => some (rword 0xC7 f)
  | .tiletagCas f => some (rword 0xC8 f)
  | .tiletagSet f => some (rword 0xC8 f)
  | .tiletagRd f => some (rword 0xC8 f)
  | .sfree f => some (rword 0xC9 f)
  | .sbind f => some (rword 0xE0 f)
  | .scancel f => some (rword 0xE1 f)
  | .mxbind f => some (rword 0xE2 f)
  | .mxbindCb f => some (rword 0xE2 f)
  | .mxbindFree f => some (rword 0xE2 f)
  | .mxpri f => some (rword 0xE3 f)
  | .mxstat f => some (rword 0xE4 f)
  | .gload f => some (rword 0xE5 f)
  | .gbind f => some (rword 0xE6 f)
  | .gunload f => some (rword 0xE7 f)
  | .opcfg f => some (rword 0xE8 f)
  | .oprd f => some (rword 0xE9 f)
  | .collSumf f => some (rword 0xEA f)
  | .collMinf f => some (rword 0xEA f)
  | .collMaxf f => some (rword 0xEA f)
  | .collSumi f => some (rword 0xEA f)
  | .collMini f => some (rword 0xEA f)
  | .collMaxi f => some (rword 0xEA f)
  | .collBcast f => some (rword 0xEA f)
  | .collBarrier f => some (rword 0xEA f)
  | .br f => some (bword 0xF0 f)
  | .brl f => some (bword 0xF1 f)
  | .bx f => some (rword 0xF2 f)
  | .evpop f => some (rword 0xF3 f)
  | .mbxpop f => some (rword 0xF4 f)
  | .cfgload f => some (rword 0xF5 f)
  | .run f => some (rword 0xF6 f)
  | .runContext f => some (rword 0xF6 f)
  | .freeze f => some (rword 0xF7 f)
  | .freezeRel f => some (rword 0xF7 f)
  | .thaw f => some (rword 0xF8 f)
  | .barrier f => some (rword 0xFC f)
  | .markSnap f => some (rword 0xF9 f)
  | .markPre f => some (rword 0xF9 f)
  | .save f => some (rword 0xFA f)
  | .saveRel f => some (rword 0xFA f)
  | .restore f => some (rword 0xFB f)
  | .rekey f => some (rword 0xFD f)
  | .resumeRetry f => some (rword 0xFE f)
  | .resumeSkip f => some (rword 0xFE f)
  | .resumeRoll f => some (rword 0xFE f)
  | .resumeCancel f => some (rword 0xFE f)
  | .illegalSlotIssue => none
  | .brkSlotBit => none
  | .coreFetchFault => none
  | .resultDelivery _ _ _ => none
  | .tokenArrival _ => none
  | .steerResult _ _ => none
  | .discardHead _ _ => none
  | .taskPacketArrival _ _ => none
  | .tlHeadChoice _ => none
  | .taskInject _ => none
  | .sleepWake _ _ => none
  | .traceRecordPost _ => none
  | .elEventPost _ => none
  | .unitComplete _ _ => none
  | .eccError _ _ => none
  | .routeToken _ _ _ => none
  | .memoryRequestServe _ => none
  | .mlResponse _ _ => none
  | .strelWrite _ _ => none
  | .fenceResponse _ _ => none
  | .sealComplete _ _ => none
  | .persistComplete _ _ => none
  | .objectReclaim _ => none
  | .copyPositionBegin _ _ => none
  | .counterFire _ _ => none
  | .copyEnd _ _ => none
  | .normalise _ _ => none
  | .convert _ _ => none
  | .suuUpdate _ => none
  | .suuWindowClose _ => none
  | .reduceGroup _ => none
  | .coalesceIssue _ _ => none
  | .mxEntryCreate _ _ _ => none
  | .mxStandbyLatch _ _ => none
  | .mxLatchEnd _ _ => none
  | .mxPark _ _ => none
  | .mxComputeEnd _ _ => none
  | .mxDeliver _ _ => none
  | .espTokenTake _ _ => none
  | .espRowOutput _ _ => none
  | .dispatchDecide _ => none
  | .taskDelivery _ _ => none
  | .workCounterDone _ _ _ => none
  | .regionComplete _ _ => none
  | .eventRecordPost _ _ => none
  | .faultRecord _ => none
  | .watchdogExpiry _ _ => none
  | .cutMarkerArrival _ => none
  | .saveRecordWrite _ _ => none
  | .cutComplete _ _ => none
  | .restoreTokenEnter _ _ => none
  | .islandWrite _ _ => none
  | .islandChangeDone _ => none
  | .jctlWrite _ _ => none
  | .jkeysWrite _ _ => none
  | .jtrustWrite _ _ => none
  | .dbgdataRead _ _ => none
  | .dbgdataWrite _ _ => none
  | .nodeidWrite _ _ => none
  | .apcmdGrant _ => none
  | .apcmdMigrate _ => none
  | .apcmdRevoke => none
  | .apcmdReserved => none
  | .modeSecureWrite _ _ => none
  | .modeSnapshotWrite _ _ => none
  | .modeDebugWrite _ _ => none
  | .modeThrottleWrite _ _ => none
  | .controlRegisterWrite _ _ => none
  | .promote _ _ _ _ => none
  | .evictPage _ => none
  | .planPrefetch _ _ _ _ => none
  | .durableAppend => none
  | .compaction _ => none
  | .powerLoss => none
  | .holdupLow _ => none
  | .counterReencrypt _ _ => none
  | .counterWriteback _ _ => none
  | .scrubRead _ _ => none
  | .scrubLevel _ => none
  | .ptpMessage _ _ => none
  | .timeCorrection _ _ => none
  | .timeFailover => none
  | .flitReplay _ => none
  | .linkStateChange _ _ _ => none
  | .packetRoute _ _ => none
  | .escapeTimeout _ => none
  | .packetReceive _ _ => none
  | .ackReceive _ _ => none
  | .rejectReceive _ _ => none
  | .collComplete _ _ => none
  | .spdmMessage _ _ => none
  | .rekeyDrain _ _ _ => none
  | .rekeySwitch _ => none
  | .rekeyTimeout => none
  | .mboxNop => none
  | .mboxReadboot => none
  | .mboxRestart => none
  | .mboxClearfail => none
  | .mboxMeasure => none
  | .mboxRefused _ => none
  | .coldStart _ => none
  | .stageTimeout _ => none
  | .thermalEvent _ _ => none
  | .stagingBufferWriteback _ => none
  | .holdupRegained _ => none
  | .powerControllerWrite _ _ _ => none
  | .lockHoldover => none

end Sys2Proof
end

