-- ==== Sys2Proof/Machine/Select.lean ====
section
/-! DEFINITION. Which instruction a step runs: the selection of an element among its slots (04 R101-R107), the rotating fetch
of a control core (02 R64, 15 R393), and the other agents of a schedule (log entry 1). -/

namespace Sys2Proof.Machine

/-! ### Elements -/

/-- The context that owns a slot: the CTX field of its word (04 R99). -/
def slotOwner (x : Slot) : Option Nat := x.word.map fun w => (fld w 62 2).toNat

/-- Slot `n` of element `e` is eligible (04 R101). A word of no row has its guard and its channel tests alone: it uses no
operand, destination, predicate action or dequeue (02 R58, log entry 19). -/
def State.eligible (s : State) (e n : Nat) (x : Slot) : Bool :=
  match x.word with
  | none => false
  | some w =>
    let v := viewOf w
    let t : State := { s with cur := { proc := e, ctx := v.trig.ctx, slot := n, word := w } }
    (match shapeOf v with
      | some sh => admission sh v t
      | none => admission blankShape { v with pact := 0, dq := 0 } t) == .run

/-- The eligible slots of context `k`, lowest first. -/
def State.eligibleSlots (s : State) (e k : Nat) : List Nat :=
  (s.proc e).slots.filterMap fun x => if slotOwner x.2 = some k ∧ s.eligible e x.1 x.2 = true then some x.1 else none

/-- The candidate of a context among its eligible slots: the lowest expired one, else the lowest (04 R104). -/
def candOf (P : Proc) (k : Nat) (E : List Nat) : Option Nat :=
  let n := (P.ctx k).patience.toNat
  match E.find? fun j => n != 0 && n ≤ (P.slots.get Slot.reset j).w with
  | some j => some j
  | none => E.head?

/-- The context and slot that an element chooses (04 R104). -/
def State.pickSlot (s : State) (e : Nat) : Option (Nat × Nat) :=
  let P := s.proc e
  ([1, 2, 3, 4].map fun i => (P.last.toNat + i) % 4).findSome? fun k =>
    (candOf P k (s.eligibleSlots e k)).map fun j => (k, j)

/-- The pass counters and LAST after slot `j` of context `k` is chosen (04 R104). -/
def passCounters (P : Proc) (k j : Nat) (E : List Nat) : Proc :=
  { P with
    last := BitVec.ofNat 2 k
    slots := P.slots.map fun x =>
      if slotOwner x.2 = some k then
        (x.1, { x.2 with w := if x.1 = j ∨ E.contains x.1 = false then 0 else min (x.2.w + 1) 255 })
      else x }

/-! ### The order of tag operations in a cycle (09 R258) -/

/-- TLOOK, TSET, TCLR or TILETAG (09 R259). -/
def isTagOp (w : Word) : Bool :=
  let o := (viewOf w).opc.toNat
  decide (0xC5 ≤ o) && decide (o ≤ 0xC8)

/-- The cluster that the tag instruction of a context acts on (09 R262). -/
def State.tagAt (s : State) (p c : Nat) (w : Word) : Nat :=
  if isCore p then 32 * dieOf p + fldN (s.src p c (viewOf w).sa) 56 5 else p / 16

/-- A unit's place in the order of one cycle: elements by number, then cores (09 R258). -/
def tagRank (p : Nat) : Nat := if isCore p then 17 + (p - 4096) % 4 else 1 + p % 16

/-- Where a unit of rank `n` stands in a cluster's current cycle. -/
def State.tagNow (s : State) (cl n : Nat) : Nat := 64 * s.islandCycle cl + n

/-- A tag instruction whose place in its cluster's current cycle has passed: it is performed in a later one. -/
def State.tagWaits (s : State) (p c : Nat) (w : Word) : Bool :=
  isTagOp w && decide (s.tagNow (s.tagAt p c w) (tagRank p) ≤ s.tagLast.get 0 (s.tagAt p c w))

/-- A tag instruction takes its place in the cycle. -/
def State.tagTaken (s : State) (p c : Nat) (w : Word) : State :=
  if isTagOp w then { s with tagLast := s.tagLast.set 0 (s.tagAt p c w) (s.tagNow (s.tagAt p c w) (tagRank p)) } else s

/-- The cluster of a copy's ring. -/
def State.copyCluster (s : State) (id : Nat) : Nat := match s.copy id with | some c => c.ring / 2 ^ 22 | none => 0

/-- The clusters in which an engine holds a template, whose unbinding by a cancellation writes tile tags (11 R319, R337). -/
def State.boundClusters (s : State) : List Nat :=
  s.clusters.filterMap fun e => if e.2.mx.any fun u => u.2.tmpl.any fun t => t.2.isSome then some e.1 else none

/-- The clusters whose tile tags an event of an engine or a copy may write. -/
def State.tagEvent (s : State) : Instr → List Nat
  | .mxEntryCreate cl _ _ => [cl]
  | .mxLatchEnd cl _ => [cl]
  | .mxDeliver cl _ => [cl]
  | .copyPositionBegin d k => [s.copyCluster (128 * d + k)]
  | .memoryRequestServe (.copy d k _ _) => [s.copyCluster (128 * d + k)]
  | .memoryRequestServe (.unit p k) => match (s.proc p).pending[k]? with
    | some r => match r.kind with
      | .mxbindFree => [(engAddr r.a).1]
      | .cancel | .freezeRel => s.boundClusters
      | .resume => if r.mode % 4 = 3 then s.boundClusters else if fldN r.a 61 3 = 2 then [s.copyCluster (fldN r.a 0 10)] else []
      | _ => []
    | none => []
  | _ => []

/-- The engines and copies of a cluster go before the instructions of the same cycle (09 R258, 11 R318). -/
def State.eventTurn (s : State) (i : Instr) : Bool := (s.tagEvent i).all fun cl => decide (s.tagLast.get 0 cl ≤ s.tagNow cl 0)

/-! ### The issue of an element -/

/-- The issue of element `e`: the chosen slot's instruction, or the event that stops it, and the state at issue. A word that
holds an uncorrectable error takes INTEGRITY before its BRK bit is looked at (06 R207; log entry 82). -/
def State.fetchElement (s : State) (e : Nat) : Option Instr × State :=
  match s.pickSlot e with
  | none => (none, s)
  | some (k, j) =>
    let x := (s.proc e).slots.get Slot.reset j
    let w := x.word.getD 0
    let E := s.eligibleSlots e k
    if s.tagWaits e k w then (none, s)
    else
    let s1 := (s.tagTaken e k w).modProc e fun P => passCounters P k j E
    let s2 : State := { s1 with cur := { proc := e, ctx := BitVec.ofNat 2 k, slot := j, word := w } }
    if x.brk && !x.bad && s.debugMode && !(s.ctx e k).stepOver.contains j then (some .brkSlotBit, s2)
    else
      let s3 := if (s.ctx e k).stepOver.contains j then s2.modCtx e k fun C => { C with stepOver := C.stepOver.filter (· != j) }
        else s2
      match decodeAt false w with
      | .ok i => (some i, s3)
      | .error _ => (some .illegalSlotIssue, s3)

/-! ### Control cores -/

/-- The word at the PC of a core's context, from local memory as it stands (15 R396). -/
def State.coreWord (s : State) (p c : Nat) : Word := wordOf (s.mread (localKey p (s.ctx p c).pc.toNat) 8)

/-- The fetch of a core's context faults (02 R70, 15 R398). -/
def State.coreStops (s : State) (p c : Nat) : Bool :=
  decide ((s.ctx p c).pc.toNat > 0x3FFF8) || check true (s.coreWord p c) != 0

/-- The state with the word of context `c` of core `p` in hand. -/
def State.atCore (s : State) (p c : Nat) : State :=
  { s with cur := { proc := p, ctx := BitVec.ofNat 2 c, slot := (s.ctx p c).pc.toNat, word := s.coreWord p c } }

/-- A context takes part in its core's turn: it runs, and its word is not held (15 R393). -/
def State.coreTakes (s : State) (p c : Nat) : Bool :=
  (s.ctx p c).rstate == .run &&
  (s.coreStops p c ||
    (let v := viewOf (s.coreWord p c)
     admission ((shapeOf v).getD blankShape) v (s.atCore p c) != .hold))

/-- The context whose turn it is (15 R393). -/
def State.pickCtx (s : State) (p : Nat) : Option Nat :=
  ([1, 2, 3, 4].map fun i => ((s.proc p).last.toNat + i) % 4).find? fun c => s.coreTakes p c

/-- The issue of control core `p`. A word that faults at its fetch issues nothing, so the turn stays with the context that issued
last (15 R393); a word whose guard fails is passed over and waits for no place in a cluster's cycle (02 R64). -/
def State.fetchCore (s : State) (p : Nat) : Option Instr × State :=
  match s.pickCtx p with
  | none => (none, s)
  | some c =>
    let w := s.coreWord p c
    if s.coreStops p c then (some .coreFetchFault, s.atCore p c)
    else
      let v := viewOf w
      let runs := admission ((shapeOf v).getD blankShape) v (s.atCore p c) == .run
      if runs && s.tagWaits p c w then (none, s)
      else
        let s1 := ((if runs then s.tagTaken p c w else s).atCore p c).modProc p fun P => { P with last := BitVec.ofNat 2 c }
        match decodeAt true w with
        | .ok i => (some i, s1)
        | .error _ => (some .coreFetchFault, s1)

/-! ### The schedule -/

/-- The agent that moves next (log entry 1). -/
def State.nextAction (s : State) : Action × State :=
  match s.agenda with
  | a :: rest => (a, { s with agenda := rest })
  | [] => (Config.schedule s.choice, { s with choice := s.choice + 1 })

/-- An event row that a schedule may name: no word, units that exist, and not one of the three that only an issue reaches. -/
def isEvent (i : Instr) : Bool :=
  (encode i).isNone && i.wf && i != .illegalSlotIssue && i != .brkSlotBit && i != .coreFetchFault

/-- The instruction or event an agent's step runs, and the state it runs in. An agent with nothing to run is at rest. -/
def State.fetch (s : State) (a : Action) : Option Instr × State :=
  match a with
  | .event i => (if isEvent i && s.eventTurn i then some i else none, s)
  | .element e => if e < 4096 then s.fetchElement e else (none, s)
  | .core p => if 4096 ≤ p ∧ p < 4128 then s.fetchCore p else (none, s)
  | .clock => (none, s.clockCycle)
  | .mapPage page tier apnode rap w job => (none, s.mapPage page tier apnode rap w job)
  | .objectAt node serial code size => (none, s.objectAt node serial code size)

/-- The one agent that moves without power: the cold start (24 R536). -/
def isColdStart : Action → Bool
  | .event (.coldStart _) => true
  | _ => false

/-! ### Placing a word where the next step issues it -/

/-- A token that passes a head test (02 R49). -/
def passing (tga : Nat) : Token :=
  if tga < 8 then dataTok (BitVec.ofNat 3 tga) 0
  else if tga = 9 ∨ tga = 10 ∨ tga = 11 then endTok (tga - 8)
  else if tga = 12 then endTok 7
  else if tga = 13 then { kind := .permit, tag := 0, payload := 0 }
  else if tga = 14 then { kind := .ctrl, tag := 0, payload := 0 }
  else dataTok 0 0

/-- Unit `p` with such a token at the head of a channel, as far as that unit holds the channel. -/
def Proc.offer (P : Proc) (core : Bool) (c ch : Nat) (t : Token) : Proc :=
  if ch < 4 then { P with ins := vset P.ins ch { vget P.ins ch with q := List.replicate 4 (.tok t), drank := 0 } }
  else if ch = 4 then
    let h := t.tag.toNat
    let k : TaskPkt := { sel := 0, len2 := false, w0 := 0, w1 := 0, task := 0xFFFF, taint := 0 }
    if core then P
    else { P with lanes := vset P.lanes h [k], owners := vset P.owners h (BitVec.ofNat 2 c), head := some (Fin.ofNat 8 h) }
  else if ch = 5 then { P with ml := [{ ctx := c, rid := 0, part := 0, val := some 0, tag := t.tag, acq := false }] }
  else if ch = 6 then (if core then { P with evq := [[0, 0, 0, 0]] } else { P with el := [0] })
  else P

/-- The channels a word tests or reads, each with a token that passes. -/
def channelsOf (sh : Shape) (v : View) : List (Nat × Token) :=
  let src (u : SrcUse) (c : BitVec 5) : List Nat := match u with | .src | .input => (chanOfSrc c).toList | _ => []
  (if v.trig.cha = 7 then [] else [(v.trig.cha.toNat, passing v.trig.tga.toNat)]) ++
  ((if v.trig.chb = 7 then [] else [v.trig.chb.toNat]) ++ src sh.sa v.sa ++ (if sh.form = .i then [] else src sh.sb v.sb)).filterMap
    fun ch => if ch = v.trig.cha.toNat ∧ v.trig.cha ≠ 7 then none else some (ch, dataTok 0 0)

/-- Context `c` of unit `p` runs, its guard holds and the channels of the word offer what it tests. -/
def State.ready (s : State) (p c : Nat) (v : View) : State :=
  let chs := channelsOf ((shapeOf v).getD blankShape) v
  let core := isCore p
  let s1 := s.modProc p fun P => chs.foldl (fun P x => P.offer core c x.1 x.2) P
  let s2 := s1.modCtx p c fun C => { C with rstate := .run, p := if guardHolds v.trig C.p then C.p else v.trig.pval }
  if core && chs.any (fun x => x.1 == 4) then
    s2.modDie (dieOf p) fun D => { D with mailbox := [[0, 0, 0, 0, 0, 0, 0, 0]] }
  else s2

/-- The state in which the next step issues word `w`: on core 0 of die 0 at its context 0, or, for a word that only an
element may run, in slot 0 of element 0 (log entry 1). -/
def State.placeWord (s : State) (w : Word) : State :=
  let v := viewOf w
  if check true w = 0 then
    let pc := (s.ctx 4096 0).pc.toNat
    let s1 := (s.ready 4096 0 v).modProc 4096 fun P => { P with last := 3 }
    { s1.mwrite (localKey 4096 pc) (bytesOf 8 w) with agenda := [.core 4096], tagLast := [] }
  else
    let c := v.trig.ctx.toNat
    let s1 := (s.ready 0 c v).modProc 0 fun P =>
      { P with slots := [(0, { word := some w, w := 0, brk := false, bad := false })] }
    { s1 with agenda := [.element 0], tagLast := [] }

end Sys2Proof.Machine
end

