-- ==== Sys2Proof/Machine/Step.lean ====
section
/-! DEFINITION. One step of the machine: the next agent of the agenda, or of the schedule, moves. -/

namespace Sys2Proof.Machine

/-- One step. Without power nothing moves but a cold start. -/
def step (s : State) : Host.Outcome State Fault Refusal :=
  let a := s.nextAction
  if a.2.powered || isColdStart a.1 then
    match a.2.fetch a.1 with
    | (some i, t) => exec i t
    | (none, t) => .next t
  else .fault .unpowered

/-- The state with the instruction whose bits are `w` placed where the next step issues it; bits above `nbits` are 0. -/
def State.withFetchWord (s : State) (nbits w : Nat) : State := s.placeWord (BitVec.ofNat 64 (w % 2 ^ nbits))

end Sys2Proof.Machine
end

