-- ==== Sys2Proof/Safety.lean ====
section
/-! DEFINITION. What counts as a safe step, and the terms that claims use: memory in its canonical form, a word that issues,
what an issue leaves as it was, and a delivered result. -/

namespace Sys2Proof.Machine

/-- A step is safe when the machine goes on. -/
def safeStep (s : State) : Prop := ∃ t, step s = .next t

/-- Memory is in its canonical form. -/
def State.memOk (s : State) : Prop := Memory.wf s.mem = true

/-- The word with the fields `v` issues in the unit and context in hand: its opcode has the row `sh`; its context runs and is
not held by a freeze or a cut, its guard holds, its channels, operands and destination are ready (04 R101; 02 R64 on a control
core); and no uncorrectable error meets it (06 R207). -/
abbrev Issues (v : View) (sh : Shape) (s : State) : Prop :=
  shapeOf v = some sh ∧ admission sh v s = .run ∧ s.eccHit sh v = false

/-- What the issue of a word leaves as it was outside its own unit: every other unit, every byte of memory, the clusters, the
objects and their residency, the registers of the package and of the domain; and the dies, unless a control core dequeues the
mailbox. -/
structure KeptOutside (e : Env) (s t : State) : Prop where
  units : ∀ q, q ≠ e.p → t.proc q = s.proc q
  bytes : ∀ a, t.mget a = s.mget a
  clusters : t.clusters = s.clusters
  objects : t.objs = s.objs ∧ t.handles = s.handles ∧ t.leaves = s.leaves ∧ t.plans = s.plans ∧ t.store = s.store
  package : t.regs = s.regs ∧ t.fabric = s.fabric ∧ t.tai = s.tai ∧ t.cycle = s.cycle
  dies : isCore e.p = false ∨ (dqChans e.sh e.v).contains 4 = false → t.dies = s.dies

/-- The unit `P` of the word once DQ has taken from its task lane, where DQ selects it: the lane loses its first packet, and
the task of that packet, if it is a dispatched one, is open (06 R186, R188). -/
def tasksTaken (e : Env) (P : Proc) : Proc :=
  if (dqChans e.sh e.v).contains 4 = true ∧ isCore e.p = false then popTask P else P

/-- The permits that the word's dequeues take from its input channels, in the order of the dequeues; FWD moves its permit and
takes none (06 R178-R179). -/
def permitsTaken (e : Env) (P : Proc) : List Permit :=
  if e.v.opc = 0x90 then [] else
  (dqChans e.sh e.v).filterMap fun ch =>
    if ch < 4 then
      (frontOf (vget P.ins ch).q).bind fun t =>
        if t.kind = .permit then some { key := t.payload.setWidth 12, taint := bitOf t.payload 12 } else none
    else none

/-- The permits the unit holds once the word's dequeues are done (06 R178); their order is the model's (DESIGN CHOICE, log
entry 81). -/
def holdAfter (s : State) (e : Env) : List Permit := (s.proc e.p).hold ++ permitsTaken e (s.proc e.p)

/-- The dequeues of the word, and nothing else, change its input channels (02 R61), its task lanes and open tasks and its event
lane: each channel that DQ selects loses its head. Its slots, selector table, task-out queue, trace control and the requests
held or waiting are as they were. -/
structure ChannelsAfter (e : Env) (s t : State) : Prop where
  inputs : ∀ ch, ch < 4 → vget (t.proc e.p).ins ch =
    (if (dqChans e.sh e.v).contains ch then { vget (s.proc e.p).ins ch with q := (vget (s.proc e.p).ins ch).q.tail }
     else vget (s.proc e.p).ins ch)
  waiting : (t.proc e.p).held = (s.proc e.p).held ∧ (t.proc e.p).parked = (s.proc e.p).parked
  slots : (t.proc e.p).slots = (s.proc e.p).slots ∧ (t.proc e.p).sels = (s.proc e.p).sels ∧
    (t.proc e.p).taskOut = (s.proc e.p).taskOut ∧ (t.proc e.p).trace = (s.proc e.p).trace
  tasks : (t.proc e.p).lanes = (tasksTaken e (s.proc e.p)).lanes ∧ (t.proc e.p).head = (tasksTaken e (s.proc e.p)).head ∧
    (t.proc e.p).openTasks = (tasksTaken e (s.proc e.p)).openTasks
  events : (t.proc e.p).el = (if (dqChans e.sh e.v).contains 6 = true ∧ isCore e.p = false then (s.proc e.p).el.tail
      else (s.proc e.p).el) ∧ (t.proc e.p).elHeld = (s.proc e.p).elHeld

/-- The response lane after the dequeues of a word: its head is gone when DQ selects it (02 R61, 07 R223). -/
def laneAfter (e : Env) (s : State) : List MlEntry :=
  if (dqChans e.sh e.v).contains 5 then mlPop (s.proc e.p).ml e.c else (s.proc e.p).ml

/-- The word uses no request port: the queue is as it was, and the response lane loses only what DQ takes. -/
structure PortUnused (e : Env) (s t : State) : Prop where
  requests : (t.proc e.p).reqs = (s.proc e.p).reqs
  responses : (t.proc e.p).ml = laneAfter e s

/-- The PC after a word that is no branch: on a control core 8 further on, and no PC in an element (15 R393). -/
def pcAfter (e : Env) : BitVec 19 := if isCore e.p then e.C.pc + 8 else e.C.pc

/-- What the issue of a word leaves as it was in its own unit: the other contexts, and of its own the run state, the mode,
the codebooks, patience, deadline and job. -/
structure KeptInside (e : Env) (s t : State) : Prop where
  others : ∀ k, k < 4 → k ≠ e.c → t.ctx e.p k = s.ctx e.p k
  mode : (t.ctx e.p e.c).fpmode = (s.ctx e.p e.c).fpmode ∧ (t.ctx e.p e.c).rstate = (s.ctx e.p e.c).rstate ∧
    (t.ctx e.p e.c).ctxjob = (s.ctx e.p e.c).ctxjob
  books : (t.ctx e.p e.c).cb0 = (s.ctx e.p e.c).cb0 ∧ (t.ctx e.p e.c).cb1 = (s.ctx e.p e.c).cb1
  times : (t.ctx e.p e.c).patience = (s.ctx e.p e.c).patience ∧ (t.ctx e.p e.c).deadline = (s.ctx e.p e.c).deadline

/-- The value that register `n` of the context holds once the result `r` of a word is delivered: consecutive values from DST
on (04 R115), the others as they were. -/
def regAfter (e : Env) (r : Res) (n : Nat) : Word :=
  if e.v.dst.toNat < 16 ∧ e.v.dst.toNat ≤ n ∧ n < e.v.dst.toNat + r.vals.length then r.vals.getD (n - e.v.dst.toNat) 0
  else vget e.C.x n

/-- The predicate byte once the result `r` of a word is delivered: a predicate destination first takes whether the value is
nonzero, then PACT acts (02 R59-R60). -/
def predsAfter (e : Env) (r : Res) : BitVec 8 :=
  pactOf e.v.pact e.v.pidx.toNat r.cond
    (if 24 ≤ e.v.dst.toNat ∧ r.vals ≠ [] then
      setPred e.C.p (e.v.dst.toNat - 24) (r.pv.getD (r.vals.headD 0 != 0))
     else e.C.p)

/-- A result of latency 1 is delivered in the issue cycle: registers, predicates, sticky flags and the output channel named
(04 R108, R115; 02 R55). -/
structure DeliveredNow (s : State) (e : Env) (r : Res) (t : State) : Prop where
  regs : ∀ n, n < 16 → vget (t.ctx e.p e.c).x n = regAfter e r n
  preds : (t.ctx e.p e.c).p = predsAfter e r
  flags : (t.ctx e.p e.c).fpflags = (s.ctx e.p e.c).fpflags ||| r.flags
  outst : (t.ctx e.p e.c).outst = (s.ctx e.p e.c).outst
  outs : ∀ j, j < 4 → vget (t.proc e.p).outs j =
    (if e.v.dst.toNat = 16 + j ∧ r.vals ≠ [] then
      enqueue (vget (s.proc e.p).outs j) (dataTok r.tag (r.vals.headD 0))
     else vget (s.proc e.p).outs j)

/-- A result of a longer latency is outstanding: due `latencyOf e` cycles of its unit after the issue, with an entry reserved in the output
channel it goes to; registers, predicates and flags are as they were (04 R108-R110). -/
structure DeliveredLater (s : State) (e : Env) (r : Res) (t : State) : Prop where
  outst : ∃ o : Outst, (t.ctx e.p e.c).outst = (s.ctx e.p e.c).outst ++ [o] ∧ o.due = s.unitCycle e.p + latencyOf e ∧
    o.dst = e.v.dst ∧ o.vals = r.vals ∧ o.tag = r.tag ∧ o.pact = e.v.pact ∧ o.pidx = e.v.pidx ∧ o.cond = r.cond ∧
    o.flags = r.flags ∧ o.pv = r.pv.getD (r.vals.headD 0 != 0) ∧
    ∀ j, j < 4 → vget (t.proc e.p).outs j =
      (if e.v.dst.toNat = 16 + j ∧ r.vals ≠ [] then vget (s.proc e.p).outs j ++ [.resv o.resv]
       else vget (s.proc e.p).outs j)
  regs : ∀ n, n < 16 → vget (t.ctx e.p e.c).x n = vget e.C.x n
  preds : (t.ctx e.p e.c).p = e.C.p
  flags : (t.ctx e.p e.c).fpflags = (s.ctx e.p e.c).fpflags

/-- The result `r` of the word `e` is delivered, now or later, and the issue changes nothing else but what its dequeues and the
advance of the PC change. -/
structure Delivered (s : State) (e : Env) (r : Res) (t : State) : Prop where
  now : latencyOf e ≤ 1 → DeliveredNow s e r t
  later : 1 < latencyOf e → DeliveredLater s e r t
  pc : (t.ctx e.p e.c).pc = pcAfter e
  inside : KeptInside e s t
  channels : ChannelsAfter e s t
  hold : (t.proc e.p).hold = holdAfter s e
  port : PortUnused e s t
  outside : KeptOutside e s t

/-- Instruction `i`, whose fields are `v`, delivers what `res` makes of its operands whenever it issues. -/
def Gives (i : Instr) (v : View) (res : Env → Res) : Prop :=
  ∀ s sh, Issues v sh s → ∃ t, exec i s = .next t ∧ Delivered s (s.env sh v) (res (s.env sh v)) t

/-- Instruction `i` delivers one value, tagged RAW64, whose condition is that it is nonzero (02 R60). -/
def GivesWord (i : Instr) (v : View) (f : Env → Word) : Prop := Gives i v fun e => .val (f e)

/-- The word `e` leaves its context as `C` and the rest of its unit as it was, but for its dequeues; it delivers no value. -/
structure Leaves (s : State) (e : Env) (C : Ctx) (t : State) : Prop where
  ctx : t.ctx e.p e.c = C
  others : ∀ k, k < 4 → k ≠ e.c → t.ctx e.p k = s.ctx e.p k
  outs : (t.proc e.p).outs = (s.proc e.p).outs
  channels : ChannelsAfter e s t
  hold : (t.proc e.p).hold = holdAfter s e
  port : PortUnused e s t
  outside : KeptOutside e s t

/-- Instruction `i`, whose fields are `v`, leaves its context as `ctx` makes it whenever it issues, and changes nothing else. -/
def Acts (i : Instr) (v : View) (ctx : Env → Ctx) : Prop :=
  ∀ s sh, Issues v sh s → ∃ t, exec i s = .next t ∧ Leaves s (s.env sh v) (ctx (s.env sh v)) t

/-- The context after a word of no value: PACT with the condition 1, and the PC (02 R59-R60, 15 R393). -/
def plainAfter (e : Env) : Ctx := { e.C with p := predsAfter e .none, pc := pcAfter e }

/-- The word `e` queues one request `kind` with its operands as read at issue, its context, slot and job, and reserves its
response words in ML (07 R221, R223); its registers, flags and output channels are as they were, PACT acts with the condition
1 (02 R60), and the issue changes nothing else but what its dequeues and the advance of the PC change. -/
structure Requested (s : State) (e : Env) (kind : ReqKind) (mode : Nat) (t : State) : Prop where
  req : ∃ r : Req, (t.proc e.p).reqs = (s.proc e.p).reqs ++ [r] ∧ r.kind = kind ∧ r.mode = mode ∧ r.ctx = e.c ∧
    r.slot = s.cur.slot ∧ r.word = s.cur.word ∧ r.a = e.a ∧ r.a2 = e.a2 ∧ r.b = e.b ∧ r.b2 = e.b2 ∧
    r.job = s.jobOf e.p e.c ∧ r.resp = e.sh.resp ∧
    (t.proc e.p).ml = mlReserve (laneAfter e s) e.c r.rid e.sh.resp (kind == .ldacq)
  regs : (t.ctx e.p e.c).x = e.C.x
  preds : (t.ctx e.p e.c).p = predsAfter e .none
  flags : (t.ctx e.p e.c).fpflags = (s.ctx e.p e.c).fpflags
  outs : (t.proc e.p).outs = (s.proc e.p).outs
  pc : (t.ctx e.p e.c).pc = pcAfter e
  inside : KeptInside e s t
  channels : ChannelsAfter e s t
  hold : kind ≠ .klendRet → (t.proc e.p).hold = holdAfter s e
  outside : KeptOutside e s t

/-- Instruction `i`, whose fields are `v`, queues a request `kind` of mode `mode` whenever it issues and `ok` holds of its
operands and the state; `resp` response words are reserved. -/
def Requests (i : Instr) (v : View) (kind : ReqKind) (mode : Env → Nat) (resp : Nat) (ok : Env → State → Prop) : Prop :=
  ∀ s sh, Issues v sh s → ok (s.env sh v) s →
    sh.resp = resp ∧ ∃ t, exec i s = .next t ∧ Requested s (s.env sh v) kind (mode (s.env sh v)) t

/-- Only unit `p` differs: every other unit, every byte of memory and every other part of the state is as it was. -/
def OnlyUnit (s t : State) (p : Nat) : Prop := t = { s with procs := t.procs } ∧ ∀ q, q ≠ p → t.proc q = s.proc q

/-- Only die `d` differs. -/
def OnlyDie (s t : State) (d : Nat) : Prop := t = { s with dies := t.dies } ∧ ∀ k, k ≠ d → t.die k = s.die k

/-- Only cluster `n` differs. -/
def OnlyCluster (s t : State) (n : Nat) : Prop := t = { s with clusters := t.clusters } ∧ ∀ k, k ≠ n → t.cluster k = s.cluster k

/-- Only unit `p` and die `d` differ. -/
def OnlyUnitAndDie (s t : State) (p d : Nat) : Prop :=
  t = { s with procs := t.procs, dies := t.dies } ∧ (∀ q, q ≠ p → t.proc q = s.proc q) ∧ ∀ k, k ≠ d → t.die k = s.die k

/-- A view of the time counter as unit `p` reads it: it never decreases, and is the counter or at most 4 ns behind it, unless
the unit's last view is later still (00 R9, 06 R190). -/
def Viewed (s : State) (p : Nat) (now : Word) : Prop :=
  (s.proc p).view.toNat ≤ now.toNat ∧
    (now = (s.proc p).view ∨ (s.tai.toNat ≤ now.toNat + 4 ∧ now.toNat ≤ s.tai.toNat))

/-- The issue fault of the word `e` is taken: its context goes from RUN to FAULT (04 R97) and holds the fault, one record is queued for the
mailbox of its die, with its code, cause, job, target, word and operands and SEQ still 0, and nothing else of the word happens
(06 R205, 16 R421-R423). -/
structure FaultTaken (s : State) (e : Env) (kind : FaultKind) (code cause : Nat) (op0 op1 : Word) (t : State) : Prop where
  ctx : t.ctx e.p e.c =
    { e.C with rstate := e.C.rstate.faulted
               faults := e.C.faults ++ [{ kind := kind, code := code, slot := s.cur.slot, word := s.cur.word,
                                           job := (s.jobOf e.p e.c).getD 0 }] }
  others : ∀ k, k < 4 → k ≠ e.c → t.ctx e.p k = s.ctx e.p k
  unit : t.proc e.p = { s.proc e.p with ctxs := (t.proc e.p).ctxs, view := (t.proc e.p).view, dirtyCtx := (t.proc e.p).dirtyCtx }
  units : ∀ q, q ≠ e.p → t.proc q = s.proc q
  bytes : ∀ a, t.mget a = s.mget a
  clusters : t.clusters = s.clusters ∧ t.objs = s.objs ∧ t.handles = s.handles ∧ t.leaves = s.leaves ∧ t.regs = s.regs
  record : ∃ now, Viewed s e.p now ∧ (t.die (dieOf e.p)).faultPend = (s.die (dieOf e.p)).faultPend ++
    [[now, put code 56 ||| put ((s.jobOf e.p e.c).getD 0) 48 ||| put cause 32, s.ctxTarget e.p e.c s.cur.slot, s.cur.word,
      op0, op1, 0, 0]]

end Sys2Proof.Machine
end

