-- ==== Sys2Proof/Certificates/Slice0/Obligations.lean ====
section
/-! DEFINITION. The statements for the provers. Each says what the device's specification says an instruction, an event or the
machine does, in the terms of `Safety`; clauses that rest on a choice of the model name its log entry. -/

open Sys2Proof Sys2Proof.Machine

/-! ### Words that deliver a value -/

/-- 04 R118 with 01 R16: the integer arithmetic of register form. Results are those of the integers, narrowed to 64 bits; MOD is
0 in all of them, and SB in the two that do not use it. -/
def Obligations.IntegerArithmeticResults : Prop :=
  ∀ f : RForm,
    GivesWord (.add f) (viewR 0x00 f) (fun e => e.a + e.b) ∧
    GivesWord (.sub f) (viewR 0x01 f) (fun e => e.a - e.b) ∧
    GivesWord (.mul f) (viewR 0x02 f) (fun e => e.a * e.b) ∧
    GivesWord (.mulh f) (viewR 0x03 f) (fun e => BitVec.ofInt 64 (e.a.toInt * e.b.toInt / 2 ^ 64)) ∧
    GivesWord (.mulhu f) (viewR 0x04 f) (fun e => BitVec.ofNat 64 (e.a.toNat * e.b.toNat / 2 ^ 64)) ∧
    GivesWord (.div f) (viewR 0x05 f)
      (fun e => if e.b = 0 then BitVec.allOnes 64 else BitVec.ofInt 64 (e.a.toInt.tdiv e.b.toInt)) ∧
    GivesWord (.divu f) (viewR 0x06 f)
      (fun e => if e.b = 0 then BitVec.allOnes 64 else BitVec.ofNat 64 (e.a.toNat / e.b.toNat)) ∧
    GivesWord (.rem f) (viewR 0x07 f)
      (fun e => if e.b = 0 then e.a else BitVec.ofInt 64 (e.a.toInt.tmod e.b.toInt)) ∧
    GivesWord (.remu f) (viewR 0x08 f)
      (fun e => if e.b = 0 then e.a else BitVec.ofNat 64 (e.a.toNat % e.b.toNat)) ∧
    GivesWord (.min f) (viewR 0x09 f) (fun e => if e.a.toInt ≤ e.b.toInt then e.a else e.b) ∧
    GivesWord (.max f) (viewR 0x0A f) (fun e => if e.a.toInt ≤ e.b.toInt then e.b else e.a) ∧
    GivesWord (.minu f) (viewR 0x0B f) (fun e => if e.a.toNat ≤ e.b.toNat then e.a else e.b) ∧
    GivesWord (.maxu f) (viewR 0x0C f) (fun e => if e.a.toNat ≤ e.b.toNat then e.b else e.a) ∧
    GivesWord (.abs f) (viewR 0x0D f) (fun e => if e.a.toInt < 0 then 0 - e.a else e.a) ∧
    GivesWord (.neg f) (viewR 0x0E f) (fun e => 0 - e.a) ∧
    GivesWord (.mad f) (viewR 0x0F f) (fun e => e.d + e.a * e.b) ∧
    (∀ i ∈ ([.add f, .sub f, .mul f, .mulh f, .mulhu f, .div f, .divu f, .rem f, .remu f, .min f, .max f, .minu f, .maxu f,
      .abs f, .neg f, .mad f] : List Instr), i.wf = true → f.mod = 0) ∧
    (∀ i ∈ ([.abs f, .neg f] : List Instr), i.wf = true → f.sb = 0)

/-- 04 R120: logic, shifts, rotates and bit counts; a count is the low six bits of its operand; MOD is 0 in all of them, and SB
in the five that do not use it. -/
def Obligations.LogicAndShiftResults : Prop :=
  ∀ f : RForm,
    GivesWord (.and f) (viewR 0x10 f) (fun e => e.a &&& e.b) ∧
    GivesWord (.or f) (viewR 0x11 f) (fun e => e.a ||| e.b) ∧
    GivesWord (.xor f) (viewR 0x12 f) (fun e => e.a ^^^ e.b) ∧
    GivesWord (.andn f) (viewR 0x13 f) (fun e => e.a &&& ~~~e.b) ∧
    GivesWord (.orn f) (viewR 0x14 f) (fun e => e.a ||| ~~~e.b) ∧
    GivesWord (.xnor f) (viewR 0x15 f) (fun e => ~~~(e.a ^^^ e.b)) ∧
    GivesWord (.shl f) (viewR 0x16 f) (fun e => e.a <<< (e.b.toNat % 64)) ∧
    GivesWord (.shr f) (viewR 0x17 f) (fun e => e.a >>> (e.b.toNat % 64)) ∧
    GivesWord (.sar f) (viewR 0x18 f) (fun e => BitVec.ofInt 64 (e.a.toInt / 2 ^ (e.b.toNat % 64))) ∧
    GivesWord (.rol f) (viewR 0x19 f)
      (fun e => (e.a <<< (e.b.toNat % 64)) ||| (e.a >>> (64 - e.b.toNat % 64))) ∧
    GivesWord (.ror f) (viewR 0x1A f)
      (fun e => (e.a >>> (e.b.toNat % 64)) ||| (e.a <<< (64 - e.b.toNat % 64))) ∧
    GivesWord (.clz f) (viewR 0x1B f)
      (fun e => BitVec.ofNat 64 (((List.range 64).find? fun k => e.a.getLsbD (63 - k)).getD 64)) ∧
    GivesWord (.ctz f) (viewR 0x1C f)
      (fun e => BitVec.ofNat 64 (((List.range 64).find? fun k => e.a.getLsbD k).getD 64)) ∧
    GivesWord (.popc f) (viewR 0x1D f) (fun e => BitVec.ofNat 64 ((List.range 64).filter fun k => e.a.getLsbD k).length) ∧
    GivesWord (.brev f) (viewR 0x1E f) (fun e => e.a.reverse) ∧
    GivesWord (.bswap f) (viewR 0x1F f)
      (fun e => e.a.extractLsb' 0 8 ++ e.a.extractLsb' 8 8 ++ e.a.extractLsb' 16 8 ++ e.a.extractLsb' 24 8 ++
        e.a.extractLsb' 32 8 ++ e.a.extractLsb' 40 8 ++ e.a.extractLsb' 48 8 ++ e.a.extractLsb' 56 8) ∧
    (∀ i ∈ ([.and f, .or f, .xor f, .andn f, .orn f, .xnor f, .shl f, .shr f, .sar f, .rol f, .ror f, .clz f, .ctz f,
      .popc f, .brev f, .bswap f] : List Instr), i.wf = true → f.mod = 0) ∧
    (∀ i ∈ ([.clz f, .ctz f, .popc f, .brev f, .bswap f] : List Instr), i.wf = true → f.sb = 0)

/-- The conditions of CMP and CMPI by their codes (04 R121), said of the integers. -/
def compares (code : Nat) (a b : Word) : Bool :=
  match code with
  | 0 => a == b
  | 1 => a != b
  | 2 => decide (a.toInt < b.toInt)
  | 3 => decide (a.toInt ≤ b.toInt)
  | 4 => decide (b.toInt < a.toInt)
  | 5 => decide (b.toInt ≤ a.toInt)
  | 6 => decide (a.toNat < b.toNat)
  | 7 => decide (a.toNat ≤ b.toNat)
  | 8 => decide (b.toNat < a.toNat)
  | 9 => decide (b.toNat ≤ a.toNat)
  | 10 => (a &&& b) != 0
  | 11 => (a &&& b) == 0
  | _ => false

/-- The word `a` narrowed to 8, 16 or 32 bits and extended back, by sign or by zero (04 R122). -/
def extended (size : Nat) (signed : Bool) (a : Word) : Word :=
  match size, signed with
  | 0, true => (a.setWidth 8).signExtend 64
  | 1, true => (a.setWidth 16).signExtend 64
  | 2, true => (a.setWidth 32).signExtend 64
  | 0, false => (a.setWidth 8).zeroExtend 64
  | 1, false => (a.setWidth 16).zeroExtend 64
  | 2, false => (a.setWidth 32).zeroExtend 64
  | _, _ => a

/-- The bit field of `a` at `pos` of length `len` as a number (04 R123). -/
def fieldAt (a : Word) (pos len : Nat) : Nat := a.toNat / 2 ^ pos % 2 ^ len

/-- 04 R121-R124: comparison, select, moves, bit fields, packing and clamping. -/
def Obligations.CompareSelectMoveResults : Prop :=
  ∀ f : RForm,
    GivesWord (.cmp f) (viewR 0x20 f) (fun e => if compares f.mod.toNat e.a e.b then 1 else 0) ∧
    GivesWord (.sel f) (viewR 0x21 f) (fun e => if e.C.p.getLsbD (f.mod.toNat % 8) then e.a else e.b) ∧
    GivesWord (.mov f) (viewR 0x22 f) (fun e => e.a) ∧
    GivesWord (.ext f) (viewR 0x23 f) (fun e => extended (f.mod.toNat % 4) (f.mod.getLsbD 2) e.a) ∧
    GivesWord (.bfx f) (viewR 0x24 f) (fun e =>
      let len := min (e.b.toNat / 256 % 128) 64
      let x := fieldAt e.a (e.b.toNat % 64) len
      if f.mod.getLsbD 0 ∧ 0 < len ∧ 2 ^ (len - 1) ≤ x then BitVec.ofInt 64 ((x : Int) - 2 ^ len) else BitVec.ofNat 64 x) ∧
    GivesWord (.bfi f) (viewR 0x25 f) (fun e =>
      let m : Word := BitVec.ofNat 64 (2 ^ min (e.b.toNat / 256 % 128) 64 - 1) <<< (e.b.toNat % 64)
      (e.d &&& ~~~m) ||| ((e.a <<< (e.b.toNat % 64)) &&& m)) ∧
    GivesWord (.packlh f) (viewR 0x26 f) (fun e =>
      (if f.mod.getLsbD 1 then e.b.extractLsb' 32 32 else e.b.extractLsb' 0 32) ++
      (if f.mod.getLsbD 0 then e.a.extractLsb' 32 32 else e.a.extractLsb' 0 32)) ∧
    (f.mod.toNat < 3 → GivesWord (.splat f) (viewR 0x27 f) (fun e =>
      match f.mod.toNat with
      | 0 => BitVec.ofNat 64 (e.a.toNat % 2 ^ 8 * 0x0101010101010101)
      | 1 => BitVec.ofNat 64 (e.a.toNat % 2 ^ 16 * 0x0001000100010001)
      | _ => BitVec.ofNat 64 (e.a.toNat % 2 ^ 32 * 0x0000000100000001))) ∧
    GivesWord (.clamp f) (viewR 0x28 f) (fun e =>
      if f.mod.getLsbD 0 then
        (if (if e.d.toNat ≤ e.a.toNat then e.a else e.d).toNat ≤ e.b.toNat then (if e.d.toNat ≤ e.a.toNat then e.a else e.d)
         else e.b)
      else
        (if (if e.d.toInt ≤ e.a.toInt then e.a else e.d).toInt ≤ e.b.toInt then (if e.d.toInt ≤ e.a.toInt then e.a else e.d)
         else e.b))

/-- 04 R125-R126: the immediate forms. Their second operand is the sign-extended immediate; MOVW places IMM16 at the halfword
HW with zeros elsewhere, MOVW.INS replaces that halfword of the destination. -/
def Obligations.ImmediateResults : Prop :=
  (∀ f : IForm,
    GivesWord (.addi f) (viewI 0x30 f) (fun e => e.a + f.imm.signExtend 64) ∧
    GivesWord (.muli f) (viewI 0x31 f) (fun e => e.a * f.imm.signExtend 64) ∧
    GivesWord (.andi f) (viewI 0x32 f) (fun e => e.a &&& f.imm.signExtend 64) ∧
    GivesWord (.ori f) (viewI 0x33 f) (fun e => e.a ||| f.imm.signExtend 64) ∧
    GivesWord (.xori f) (viewI 0x34 f) (fun e => e.a ^^^ f.imm.signExtend 64) ∧
    GivesWord (.shli f) (viewI 0x35 f) (fun e => e.a <<< (f.imm.toNat % 64)) ∧
    GivesWord (.shri f) (viewI 0x36 f) (fun e => e.a >>> (f.imm.toNat % 64)) ∧
    GivesWord (.sari f) (viewI 0x37 f) (fun e => BitVec.ofInt 64 (e.a.toInt / 2 ^ (f.imm.toNat % 64))) ∧
    GivesWord (.roli f) (viewI 0x38 f) (fun e => (e.a <<< (f.imm.toNat % 64)) ||| (e.a >>> (64 - f.imm.toNat % 64))) ∧
    GivesWord (.cmpi f) (viewI 0x39 f) (fun e => if compares f.mod.toNat e.a (f.imm.signExtend 64) then 1 else 0) ∧
    GivesWord (.mini f) (viewI 0x3A f) (fun e => if e.a.toInt ≤ f.imm.toInt then e.a else f.imm.signExtend 64) ∧
    GivesWord (.maxi f) (viewI 0x3B f) (fun e => if e.a.toInt ≤ f.imm.toInt then f.imm.signExtend 64 else e.a) ∧
    GivesWord (.movi f) (viewI 0x3C f) (fun _ => f.imm.signExtend 64)) ∧
  (∀ f : WForm,
    GivesWord (.movw f) (viewW 0x3D f) (fun _ => BitVec.ofNat 64 (f.imm.toNat * 2 ^ (16 * f.hw.toNat))) ∧
    GivesWord (.movwIns f) (viewW 0x3D f) (fun e =>
      (e.d &&& ~~~((0xFFFF : Word) <<< (16 * f.hw.toNat))) ||| BitVec.ofNat 64 (f.imm.toNat * 2 ^ (16 * f.hw.toNat))))

/-- 05 R140, R142-R148: FP32 instructions. Operands are read from the low halves, FTZ as it stands at issue; the exact value is
rounded once in the effective mode; results are tagged FP32 and their flags are sticky. -/
def Obligations.FloatResults : Prop :=
  ∀ f : RForm,
    Gives (.fadd f) (viewR 0x50 f) (fun e => e.out32 (sumF e.rm [e.f32 e.a, e.f32 e.b])) ∧
    Gives (.fsub f) (viewR 0x51 f) (fun e => e.out32 (sumF e.rm [e.f32 e.a, negF (e.f32 e.b)])) ∧
    Gives (.fmul f) (viewR 0x52 f) (fun e => e.out32 (mulF (e.f32 e.a) (e.f32 e.b))) ∧
    Gives (.ffma f) (viewR 0x53 f) (fun e => e.out32 (sumF e.rm [mulF (e.f32 e.a) (e.f32 e.b), e.f32 e.d])) ∧
    Gives (.ffms f) (viewR 0x54 f) (fun e => e.out32 (sumF e.rm [negF (mulF (e.f32 e.a) (e.f32 e.b)), e.f32 e.d])) ∧
    Gives (.fdiv f) (viewR 0x55 f) (fun e => let q := divF (e.f32 e.a) (e.f32 e.b)
        e.out32 q.1 q.2) ∧
    Gives (.fsqrt f) (viewR 0x56 f) (fun e => e.out32 (sqrtF (e.f32 e.a))) ∧
    Gives (.fmin f) (viewR 0x57 f) (fun e => exact32 (minmaxF false (e.f32 e.a) (e.f32 e.b))) ∧
    Gives (.fmax f) (viewR 0x58 f) (fun e => exact32 (minmaxF true (e.f32 e.a) (e.f32 e.b))) ∧
    Gives (.fabs f) (viewR 0x59 f) (fun e => exact32 ((e.f32 e.a).withSign false)) ∧
    Gives (.fneg f) (viewR 0x5A f) (fun e => exact32 (negF (e.f32 e.a))) ∧
    Gives (.fcmp f) (viewR 0x5B f) (fun e => let r := fcmpHolds e.v.mod.toNat (e.f32 e.a) (e.f32 e.b)
        .val (boolWord r.1) 0 (flagIf r.2 flIV)) ∧
    Gives (.fclass f) (viewR 0x5C f) (fun e => .val (fclassBits (fldN e.a 0 32))) ∧
    Gives (.frint f) (viewR 0x5D f) (fun e => let r := frintF e.rm (e.f32 e.a)
        exact32 r.1 r.2) ∧
    Gives (.fscale f) (viewR 0x5E f) (fun e => e.out32 (fscaleF (e.f32 e.a) e.b.toInt)) ∧
    Gives (.frcpa f) (viewR 0x5F f) (fun e => let r := frcpa e.ftz (fldN e.a 0 32)
        .val (BitVec.ofNat 64 r.1) 1 r.2)

/-- 05 R149-R151: BF16x4 instructions, lane by lane, each lane rounded once; BDOT and BSUM round once to FP32.
The sign of a zero sum of several terms, and IV beside a quiet NaN, are read by inference (log entry 14). -/
def Obligations.BfloatResults : Prop :=
  ∀ f : RForm,
    Gives (.badd f) (viewR 0x60 f) (fun e => e.outBf (List.zipWith (fun x y => sumF e.rm [x, y]) (e.bf e.a) (e.bf e.b))) ∧
    Gives (.bsub f) (viewR 0x61 f) (fun e => e.outBf (List.zipWith (fun x y => sumF e.rm [x, negF y]) (e.bf e.a) (e.bf e.b))) ∧
    Gives (.bmul f) (viewR 0x62 f) (fun e => e.outBf (List.zipWith mulF (e.bf e.a) (e.bf e.b))) ∧
    Gives (.bfma f) (viewR 0x63 f) (fun e => e.outBf (List.zipWith (fun p z => sumF e.rm [p, z]) (List.zipWith mulF (e.bf e.a) (e.bf e.b)) (e.bf e.d))) ∧
    Gives (.bmin f) (viewR 0x64 f) (fun e => exactBf (List.zipWith (minmaxF false) (e.bf e.a) (e.bf e.b))) ∧
    Gives (.bmax f) (viewR 0x65 f) (fun e => exactBf (List.zipWith (minmaxF true) (e.bf e.a) (e.bf e.b))) ∧
    Gives (.bcmp f) (viewR 0x66 f) (fun e =>
        let rs := List.zipWith (fcmpHolds (e.v.mod.toNat % 8)) (e.bf e.a) (e.bf e.b)
        { vals := [ofLanes 16 (rs.map fun r => if r.1 then 0xFFFF else 0)], tag := 0,
          cond := if e.v.mod.getLsbD 3 then rs.all (·.1) else rs.any (·.1),
          flags := flagIf (rs.any (·.2)) flIV }) ∧
    Gives (.bdot f) (viewR 0x67 f) (fun e => e.out32 (sumF e.rm (List.zipWith mulF (e.bf e.a) (e.bf e.b) ++ [e.f32 e.d]))) ∧
    Gives (.bsgn f) (viewR 0x68 f) (fun e =>
        exactBf (List.zipWith
        (fun x i => x.withSign (bsgnSign e.v.mod.toNat (lane 16 e.a i).msb (lane 16 e.b i).msb)) (e.bf e.a) (List.range 4))) ∧
    Gives (.bsum f) (viewR 0x69 f) (fun e => e.out32 (sumF e.rm (e.bf e.a)))

/-- 05 R152-R156: packed integers, lane by lane in the lane size of MOD; results carry the lane size's tag. -/
def Obligations.PackedResults : Prop :=
  ∀ f : RForm,
    Gives (.vadd f) (viewR 0x70 f) (fun e => lanesRes e fun _ _ x y => x + y) ∧
    Gives (.vsub f) (viewR 0x71 f) (fun e => lanesRes e fun _ _ x y => x - y) ∧
    Gives (.vadds f) (viewR 0x72 f) (fun e => lanesRes e fun n _ x y => satLane e.m2 n (laneInt e.m2 x + laneInt e.m2 y)) ∧
    Gives (.vsubs f) (viewR 0x73 f) (fun e => lanesRes e fun n _ x y => satLane e.m2 n (laneInt e.m2 x - laneInt e.m2 y)) ∧
    Gives (.vmul f) (viewR 0x74 f) (fun e => lanesRes e fun _ _ x y => x * y) ∧
    Gives (.vmulh f) (viewR 0x75 f) (fun e => lanesRes e fun n _ x y => BitVec.ofInt n (Int.fdiv (laneInt e.m2 x * laneInt e.m2 y) (2 ^ n))) ∧
    Gives (.vmin f) (viewR 0x76 f) (fun e => lanesRes e fun _ _ x y => if laneInt e.m2 x ≤ laneInt e.m2 y then x else y) ∧
    Gives (.vmax f) (viewR 0x77 f) (fun e => lanesRes e fun _ _ x y => if laneInt e.m2 x ≤ laneInt e.m2 y then y else x) ∧
    Gives (.vabs f) (viewR 0x78 f) (fun e => lanesRes e fun _ _ x _ => if x.msb then 0 - x else x) ∧
    Gives (.vshl f) (viewR 0x79 f) (fun e => lanesRes e fun _ _ x y => x <<< vCount e y) ∧
    Gives (.vshr f) (viewR 0x7A f) (fun e => lanesRes e fun _ _ x y => x >>> vCount e y) ∧
    Gives (.vsar f) (viewR 0x7B f) (fun e => lanesRes e fun _ _ x y => x.sshiftRight (vCount e y)) ∧
    Gives (.vcmp f) (viewR 0x7C f) (fun e =>
        let c := e.v.mod.toNat / 4
        let r := lanesRes e fun n _ x y => if vcmpHolds c x y then BitVec.allOnes n else 0
        r) ∧
    Gives (.vsum f) (viewR 0x7D f) (fun e =>
        let n := laneWidth e.v.mod
        .val (BitVec.ofInt 64
        (((List.range (64 / n)).map fun i => laneInt e.m2 (lane n e.a i)).foldl (· + ·) 0))) ∧
    Gives (.vperm f) (viewR 0x7E f) (fun e => lanesRes e fun n i _ _ => vpermLane n i e.a e.b) ∧
    Gives (.vpacks f) (viewR 0x7F f) (fun e =>
        .val (vpacksWord e.m2 (laneWidth e.v.mod) e.a e.b) (if e.v.mod.toNat % 4 = 1 then 4 else 3))

/-- 05 R157-R166: conversions, codebooks, tags and carry-save words. CSAADD writes a register pair. The sign
of a zero that CSARES gives is read by inference (log entry 14), and how CSAADD writes an infinite or NaN partial is the model's
choice (log entry 101). -/
def Obligations.ConversionResults : Prop :=
  ∀ f : RForm,
    Gives (.fcvt f) (viewR 0x80 f) (fun e =>
        let k := fcvtFmts e.v.sb.toNat
        let r := k.1.round e.rm e.ftz (k.2.read e.ftz (fldN e.a 0 (k.2.top + 1)))
        .val (BitVec.ofNat 64 r.1) (if k.1 = fp32 then 1 else 0) r.2) ∧
    Gives (.ftoi f) (viewR 0x81 f) (fun e =>
        let r := ftoi e.rm e.v.sb.toNat (e.f32 e.a)
        .val (intWord r.1) 0 r.2) ∧
    Gives (.itof f) (viewR 0x82 f) (fun e => e.out32 (ofInt (itofInt e.v.sb.toNat e.a))) ∧
    Gives (.bcvtPack f) (viewR 0x83 f) (fun e =>
        e.outBf ([fldN e.a 0 32, fldN e.a 32 32, fldN e.b 0 32, fldN e.b 32 32].map fun x => fp32.read e.ftz x)) ∧
    Gives (.bcvtUnpack f) (viewR 0x83 f) (fun e =>
        let k := if e.v.mod.getLsbD 0 then 2 else 0
        let one (i : Nat) := fp32.round 0 e.ftz (bf16.read e.ftz (lane 16 e.a i).toNat)
        let x := one k
        let y := one (k + 1)
        .val (BitVec.ofNat 32 y.1 ++ BitVec.ofNat 32 x.1) 0 (x.2 ||| y.2)) ∧
    Gives (.cbdec f) (viewR 0x84 f) (fun e =>
        let t := e.C.codebook (e.v.mod.getLsbD 0)
        let g := e.v.mod.toNat / 2 % 4
        .val (ofLanes 16 ((List.range 4).map fun i => cbEntry t (fldN e.a (4 * (4 * g + i)) 4))) 2) ∧
    Gives (.cbenc f) (viewR 0x85 f) (fun e =>
        let t := e.C.codebook (e.v.mod.getLsbD 0)
        let g := e.v.mod.toNat / 2 % 4
        let cs := (e.bf e.a).map (cbCode t)
        let codes : Word := ofLanes 4 (cs.map fun c => BitVec.ofNat 4 c.1)
        .val ((e.b &&& ~~~(0xFFFF#64 <<< (16 * g))) ||| (codes <<< (16 * g))) 5 (cs.foldl (fun fl c => fl ||| c.2) 0)) ∧
    Gives (.tagset f) (viewR 0x87 f) (fun e => .val e.a (e.v.mod.setWidth 3)) ∧
    Gives (.tagof f) (viewR 0x88 f) (fun e =>
        .val (match e.pre.headOf e.p e.c (e.v.sa.toNat - 16) with
        | some t => t.tag.zeroExtend 64
        | none => 0)) ∧
    Gives (.csares f) (viewR 0x89 f) (fun e => e.out32 (csaresVal e.rm e.a e.b)) ∧
    ((Instr.csaadd f).wf = true →
    Gives (.csaadd f) (viewR 0x8A f) (fun e =>
        let r := combine (partOf (vget e.C.x e.v.sa.toNat) e.a2) (partOf (vget e.C.x e.v.sb.toNat) e.b2)
        let w := partWords r.1
        { vals := [w.1, w.2], cond := w.1 != 0, flags := flagIf r.2 flIV }))

/-! ### Words of the context: predicates, time, special registers, faults -/

/-- 04 R127-R131: PSET writes the masked predicates before PACT; PGET and PLOGIC deliver; NOP only guards, dequeues and acts on
its predicate; HALT halts its context after the other effects. -/
def Obligations.PredicateAndContextWords : Prop :=
  ∀ f : RForm,
    Acts (.pset f) (viewR 0x40 f) (fun e =>
      { e.C with p := pactOf f.pact f.pidx.toNat true ((e.C.p &&& ~~~(e.b.setWidth 8)) ||| (e.a.setWidth 8 &&& e.b.setWidth 8))
                 pc := pcAfter e }) ∧
    GivesWord (.pget f) (viewR 0x41 f) (fun e => e.C.p.zeroExtend 64) ∧
    GivesWord (.plogic f) (viewR 0x42 f) (fun e =>
      let i := (if e.C.p.getLsbD (f.sa.toNat % 8) then 2 else 0) + (if e.C.p.getLsbD (f.sb.toNat % 8) then 1 else 0)
      if f.mod.getLsbD i then 1 else 0) ∧
    Acts (.nop f) (viewR 0x43 f) plainAfter ∧
    Acts (.halt f) (viewR 0x44 f) (fun e => { plainAfter e with rstate := .halt })

/-- 00 R9, 06 R197-R198: TIME delivers the unit's view of the time counter; SLEEPU sets DEADLINE, relative to the view and
saturating when MOD[0] is 1, and the context sleeps while the view is below it. -/
def Obligations.TimeAndSleepWords : Prop :=
  ∀ (f : RForm) (s : State) (sh : Shape),
    (Issues (viewR 0x46 f) sh s → ∃ t now, exec (.time f) s = .next t ∧ Viewed s s.cur.proc now ∧
      (t.proc s.cur.proc).view = now ∧ Delivered s (s.env sh (viewR 0x46 f)) (.val now) t) ∧
    (Issues (viewR 0x45 f) sh s → ∃ t now, exec (.sleepu f) s = .next t ∧ Viewed s s.cur.proc now ∧
      (t.proc s.cur.proc).view = now ∧
      (let e := s.env sh (viewR 0x45 f)
       let d : Word := if f.mod.getLsbD 0 then BitVec.ofNat 64 (min (now.toNat + e.a.toNat) (2 ^ 64 - 1)) else e.a
       Leaves s e { plainAfter e with deadline := d, rstate := if now.toNat < d.toNat then .sleep else e.C.rstate } t))

/-- 06 R192-R193 with 15 R394, R397: what SPR delivers for each special register, in an element and on a control core. -/
def Obligations.SpecialRegisterReads : Prop :=
  ∀ f : IForm, GivesWord (.spr f) (viewI 0x47 f) (fun e =>
    let P := e.pre.proc e.p
    let core := isCore e.p
    match f.imm.toNat with
    | 0 => e.C.fpmode.zeroExtend 64
    | 1 => e.C.fpflags.zeroExtend 64
    | 2 => e.C.patience.zeroExtend 64
    | 3 => e.C.deadline
    | 4 => if core then put 1 14 ||| put e.c 12 ||| put (e.p - 4096) 0
           else put (P.region.getD 0 % 64) 18 ||| put e.c 12 ||| put e.p 0
    | 5 => if core then 0 else tlheadWord P e.c
    | 6 => if core then 0 else tlreadyWord P
    | 7 => if core then 0 else permitsWord P
    | 8 => if core then 0 else chstatWord (vget P.ins 0)
    | 9 => if core then 0 else chstatWord (vget P.ins 1)
    | 10 => if core then 0 else chstatWord (vget P.ins 2)
    | 11 => if core then 0 else chstatWord (vget P.ins 3)
    | 12 => if core then 0 else (vget P.ins 0).conf.zeroExtend 64
    | 13 => if core then 0 else (vget P.ins 1).conf.zeroExtend 64
    | 14 => if core then 0 else (vget P.ins 2).conf.zeroExtend 64
    | 15 => if core then 0 else (vget P.ins 3).conf.zeroExtend 64
    | 16 => if core then 0 else BitVec.ofNat 64 ((vget P.outs 0).length % 4)
    | 17 => if core then 0 else BitVec.ofNat 64 ((vget P.outs 1).length % 4)
    | 18 => if core then 0 else BitVec.ofNat 64 ((vget P.outs 2).length % 4)
    | 19 => if core then 0 else BitVec.ofNat 64 ((vget P.outs 3).length % 4)
    | 20 => tracectlWord P.trace
    | 21 => if core then e.C.ctxjob.zeroExtend 64 else put 1 8 ||| put ((e.pre.jobOf e.p e.c).getD 0) 0
    | _ => 0)

/-- 06 R192, R197; 15 R397; 05 R160: SPW sets the writable fields of its register, and the codebook load CBLD four entries of a
codebook; nothing else of the context changes. -/
def Obligations.SpecialRegisterWrites : Prop :=
  (∀ f : IForm,
    (f.imm = 0 → Acts (.spw f) (viewI 0x48 f) fun e => { plainAfter e with fpmode := e.a.setWidth 3 }) ∧
    (f.imm = 1 → Acts (.spw f) (viewI 0x48 f) fun e => { plainAfter e with fpflags := e.a.setWidth 5 }) ∧
    (f.imm = 2 → Acts (.spw f) (viewI 0x48 f) fun e => { plainAfter e with patience := e.a.setWidth 8 }) ∧
    (f.imm = 21 → Acts (.spw f) (viewI 0x48 f) fun e =>
      if isCore e.p then { plainAfter e with ctxjob := e.a.setWidth 9 } else plainAfter e) ∧
    (f.imm = 20 → ∀ s sh, Issues (viewI 0x48 f) sh s → ∃ t, exec (.spw f) s = .next t ∧
      (let e := s.env sh (viewI 0x48 f)
       t.ctx e.p e.c = plainAfter e ∧ KeptOutside e s t ∧ (t.proc e.p).trace.lost = e.a.extractLsb' 32 32 ∧
       (t.proc e.p).trace.core = e.a.extractLsb' 2 2 ∧ (t.proc e.p).trace.drop = e.a.getLsbD 1 ∧
       (t.proc e.p).trace.en = e.a.getLsbD 0))) ∧
  (∀ f : RForm, Acts (.cbld f) (viewR 0x86 f) fun e =>
    let q := f.mod.toNat / 2 % 4
    let load (b : Vector (BitVec 16) 16) : Vector (BitVec 16) 16 :=
      vset (vset (vset (vset b (4 * q) (e.a.extractLsb' 0 16)) (4 * q + 1) (e.a.extractLsb' 16 16)) (4 * q + 2)
        (e.a.extractLsb' 32 16)) (4 * q + 3) (e.a.extractLsb' 48 16)
    if f.mod.getLsbD 0 then { plainAfter e with cb1 := load e.C.cb1 } else { plainAfter e with cb0 := load e.C.cb0 })

/-- 06 R197, R203, R205; 16 R421-R422: TRAP takes SW_TRAP (19) with Src(SA) in OP0 and the sign-extended code in OP1; BRKPT
takes BREAKPOINT (18) with CAUSE 0, OP1 being left open here, as SB is unused (log entry 17); TRACE does nothing while EN is
0, counts one lost with a record already in the buffer, and otherwise forms a record of the view, the issuer, MOD and its
operands. -/
def Obligations.TrapBreakpointAndTraceWords : Prop :=
  (∀ (f : IForm) (s : State) (sh : Shape), Issues (viewI 0x49 f) sh s → ∃ t, exec (.trap f) s = .next t ∧
    FaultTaken s (s.env sh (viewI 0x49 f)) .issue 19 0 (s.env sh (viewI 0x49 f)).a (f.imm.signExtend 64) t) ∧
  (∀ (f : RForm) (s : State) (sh : Shape), Issues (viewR 0x4A f) sh s → ∃ t op1, exec (.brkpt f) s = .next t ∧
    FaultTaken s (s.env sh (viewR 0x4A f)) .brk 18 0 (s.env sh (viewR 0x4A f)).a op1 t) ∧
  (∀ (f : RForm) (s : State) (sh : Shape), Issues (viewR 0x4B f) sh s →
     let e := s.env sh (viewR 0x4B f)
     ∃ t, exec (.trace f) s = .next t ∧ t.ctx e.p e.c = plainAfter e ∧ KeptOutside e s t ∧
       ((s.proc e.p).trace.en = false → (t.proc e.p).traceBuf = (s.proc e.p).traceBuf ∧ (t.proc e.p).trace = (s.proc e.p).trace) ∧
       ((s.proc e.p).trace.en = true → (s.proc e.p).traceBuf ≠ none →
         (t.proc e.p).traceBuf = (s.proc e.p).traceBuf ∧
         (t.proc e.p).trace.lost.toNat = min ((s.proc e.p).trace.lost.toNat + 1) (2 ^ 32 - 1)) ∧
       ((s.proc e.p).trace.en = true → (s.proc e.p).traceBuf = none →
         ∃ now, Viewed s e.p now ∧ (t.proc e.p).trace = (s.proc e.p).trace ∧
           (t.proc e.p).traceBuf = some [now,
             put 0x20 56 ||| (if isCore e.p then put (e.p - 4096) 44 ||| put 1 32 ||| put (e.C.pc.toNat % 2 ^ 18) 14
               else put e.p 44 ||| put (s.cur.slot % 32) 37) ||| put e.c 42 ||| put f.mod.toNat 33, e.a, e.b]))

/-! ### Words of the channels, permits, selector table and tasks -/

/-- What a word that acts on its unit's channels leaves: its context but for PACT and the PC, its other contexts, its request
port, and everything outside its unit. -/
structure PlainWord (s : State) (e : Env) (t : State) : Prop where
  ctx : t.ctx e.p e.c = plainAfter e
  others : ∀ k, k < 4 → k ≠ e.c → t.ctx e.p k = s.ctx e.p k
  port : PortUnused e s t
  outside : KeptOutside e s t

/-- Output channel `j` of the word's unit takes a token, or merges it, and the others are as they were. -/
def SentTo (s : State) (e : Env) (j : Nat) (tok : Token) (t : State) : Prop :=
  ∀ k, k < 4 → vget (t.proc e.p).outs k =
    if k = j then enqueue (vget (s.proc e.p).outs j) tok else vget (s.proc e.p).outs k

/-- 06 R197, R179; 10 R305: FWD moves the head of CHA with kind, tag and payload, a permit only together with its dequeue; EMIT
sends an end marker of rank MOD; CTRLW sends a CTRL token of its operand's low eleven bits. -/
def Obligations.SendingWords : Prop :=
  ∀ (f : RForm) (s : State) (sh : Shape),
    ((Instr.fwd f).wf = true → Issues (viewR 0x90 f) sh s →
      let e := s.env sh (viewR 0x90 f)
      ∀ tok, s.headOf e.p e.c f.trig.cha.toNat = some tok →
        (tok.kind = .permit → f.dq.getLsbD 3 = true) →
        ∃ t, exec (.fwd f) s = .next t ∧ PlainWord s e t ∧ ChannelsAfter e s t ∧ SentTo s e (f.dst.toNat - 16) tok t ∧
          (t.proc e.p).hold = (s.proc e.p).hold) ∧
    ((Instr.fwd f).wf = true → Issues (viewR 0x90 f) sh s →
      let e := s.env sh (viewR 0x90 f)
      ∀ tok, s.headOf e.p e.c f.trig.cha.toNat = some tok → tok.kind = .permit → f.dq.getLsbD 3 = false →
        ∃ t op0 op1, exec (.fwd f) s = .next t ∧ FaultTaken s e .issue 7 0 op0 op1 t) ∧
    ((Instr.emit f).wf = true → Issues (viewR 0x91 f) sh s →
      let e := s.env sh (viewR 0x91 f)
      ∃ t, exec (.emit f) s = .next t ∧ PlainWord s e t ∧ ChannelsAfter e s t ∧
        (t.proc e.p).hold = holdAfter s e ∧
        SentTo s e (f.dst.toNat - 16) { kind := .mark, tag := 0, payload := BitVec.ofNat 64 f.mod.toNat } t) ∧
    ((Instr.ctrlw f).wf = true → Issues (viewR 0x96 f) sh s →
      let e := s.env sh (viewR 0x96 f)
      ∃ t, exec (.ctrlw f) s = .next t ∧ PlainWord s e t ∧ ChannelsAfter e s t ∧
        (t.proc e.p).hold = holdAfter s e ∧
        SentTo s e (f.dst.toNat - 16) { kind := .ctrl, tag := 0, payload := e.a &&& 0x7FF } t)

/-- 06 R173, R176, R181-R182, R197-R200: PEEK reads a token of an input channel without taking it; DROP puts a channel into
discard mode; CHCFG writes its configuration; HNDBIND binds a selector to a handler, or refuses with 1 and binds nothing. -/
def Obligations.ChannelStateWords : Prop :=
  ∀ (f : RForm),
    GivesWord (.peek f) (viewR 0x93 f) (fun e =>
      match (vget (e.pre.proc e.p).ins f.trig.cha.toNat).q[f.mod.toNat % 4]? with
      | some (.tok t) => if f.mod.getLsbD 2 then BitVec.ofNat 64 (t.tag.toNat + 8 * kindCode t.kind) else t.payload
      | _ => 0) ∧
    (∀ (s : State) (sh : Shape), (Instr.drop f).wf = true → Issues (viewR 0x92 f) sh s →
      let e := s.env sh (viewR 0x92 f)
      ∃ t, exec (.drop f) s = .next t ∧ PlainWord s e t ∧ (t.proc e.p).outs = (s.proc e.p).outs ∧
        (vget (t.proc e.p).ins f.sb.toNat).drank = f.mod.setWidth 3 ∧
        ∀ k, k < 4 → (vget (t.proc e.p).ins k).conf = (vget (s.proc e.p).ins k).conf ∧
          (vget (t.proc e.p).ins k).q = (if (dqChans e.sh e.v).contains k then (vget (s.proc e.p).ins k).q.tail
            else (vget (s.proc e.p).ins k).q) ∧
          (k ≠ f.sb.toNat → (vget (t.proc e.p).ins k).drank = (vget (s.proc e.p).ins k).drank)) ∧
    (∀ (s : State) (sh : Shape), (Instr.chcfg f).wf = true → Issues (viewR 0x95 f) sh s →
      let e := s.env sh (viewR 0x95 f)
      ∃ t, exec (.chcfg f) s = .next t ∧ PlainWord s e t ∧ (t.proc e.p).outs = (s.proc e.p).outs ∧
        (vget (t.proc e.p).ins f.sb.toNat).conf = e.a.setWidth 19 &&& 0x703FF ∧
        ∀ k, k < 4 → (vget (t.proc e.p).ins k).drank = (vget (s.proc e.p).ins k).drank ∧
          (vget (t.proc e.p).ins k).q = (if (dqChans e.sh e.v).contains k then (vget (s.proc e.p).ins k).q.tail
            else (vget (s.proc e.p).ins k).q) ∧
          (k ≠ f.sb.toNat → (vget (t.proc e.p).ins k).conf = (vget (s.proc e.p).ins k).conf)) ∧
    (∀ (s : State) (sh : Shape), Issues (viewR 0x97 f) sh s →
      let e := s.env sh (viewR 0x97 f)
      let P := (s.dequeue e.p e.c e.sh e.v).proc e.p
      let h := e.a.toNat / 2 ^ 8 % 8
      let c := e.a.toNat / 2 ^ 12 % 4
      let taken := e.a.getLsbD 15 = true ∧
        ((∃ x ∈ P.sels, x.1 ≠ e.a.toNat % 128 ∧ x.2.v = true ∧ x.2.handler.toNat = h ∧ x.2.ctx.toNat ≠ c) ∨
         (vget P.lanes h ≠ [] ∧ (vget P.owners h).toNat ≠ c))
      (taken → ∃ t, exec (.hndbind f) s = .next t ∧ Delivered s e (.val 1) t ∧ (t.proc e.p).owners = (s.proc e.p).owners) ∧
      (¬taken → ∃ t, exec (.hndbind f) s = .next t ∧ DeliveredNow s e (.val 0) t ∧ KeptInside e s t ∧ KeptOutside e s t ∧
        (∀ n, (t.proc e.p).sels.get Sel.reset n =
          if n = e.a.toNat % 128 then { v := e.a.getLsbD 15, ctx := BitVec.ofNat 2 c, handler := BitVec.ofNat 3 h }
          else (s.proc e.p).sels.get Sel.reset n) ∧
        ∀ k, k < 8 → (vget (t.proc e.p).owners k).toNat =
          if e.a.getLsbD 15 = true ∧ k = h then c else (vget (s.proc e.p).owners k).toNat))

/-- 06 R197, R201-R202; 13 R378: TSEND and TSEND2 queue a task packet for an element in a region of the issuer's job, and take
PROTECTION (7) for any other; TDONE closes an open task and, unless it was cancelled, queues its completion, and takes
PROTECTION for a task that is not open. -/
def Obligations.TaskWords : Prop :=
  ∀ (f : RForm) (s : State) (sh : Shape),
    (∀ two : Bool, let v := viewR (if two then 0xA1 else 0xA0) f
      Issues v sh s →
      let e := s.env sh v
      let dst := e.b.toNat % 4096
      (∀ j R, s.jobOf e.p e.c = some j → s.regionOf dst = some R → R.job = j →
        ∃ t, exec (if two then .tsend2 f else .tsend f) s = .next t ∧ t.ctx e.p e.c = plainAfter e ∧ KeptOutside e s t ∧
          (t.proc e.p).taskOut = (s.proc e.p).taskOut ++
            [{ src := e.p, dst := dst, job := j,
               pkt := { sel := e.b.extractLsb' 16 7, len2 := two, w0 := e.a, w1 := if two then e.a2 else 0, task := 0xFFFF, taint := 0 } }]) ∧
      ((∀ j R, s.jobOf e.p e.c = some j → s.regionOf dst = some R → R.job ≠ j) →
        ∃ t, exec (if two then .tsend2 f else .tsend f) s = .next t ∧ FaultTaken s e .issue 7 0 e.a e.b t)) ∧
    (Issues (viewR 0xA2 f) sh s →
      let e := s.env sh (viewR 0xA2 f)
      let opened := ((s.dequeue e.p e.c e.sh e.v).proc e.p).openTasks
      (∀ o, opened.find? (fun o => o.task.toNat == e.a.toNat % 2 ^ 16) = some o →
        ∃ t, exec (.tdone f) s = .next t ∧ t.ctx e.p e.c = plainAfter e ∧ (∀ a, t.mget a = s.mget a) ∧
          (∀ q, q ≠ e.p → t.proc q = s.proc q) ∧ (t.proc e.p).openTasks = opened.erase o ∧
          (t.die (dieOf e.p)).completing = (s.die (dieOf e.p)).completing ++
            (if o.cancelled then [] else
              [{ proc := e.p, ctx := e.c, before := s.fresh, job := (s.jobOf e.p e.c).getD 0, task := o.task.toNat }])) ∧
      (opened.find? (fun o => o.task.toNat == e.a.toNat % 2 ^ 16) = none →
        ∃ t op1, exec (.tdone f) s = .next t ∧ FaultTaken s e .issue 7 0 e.a op1 t))

/-! ### Words of the request port -/

/-- The unit may reach the scratchpad of cluster `cl`: its job holds a region there, or a control core that acts for no job and
the cluster lies on its die (07 R214, 15 R397). -/
def Reaches (s : State) (e : Env) (cl : Nat) : Prop :=
  match s.jobOf e.p e.c with
  | some j => s.jobInCluster j cl = true
  | none => isCore e.p = true ∧ cl / 32 = dieOf e.p

/-- What an access of `len` bytes at the short address `a` meets when it issues without a fault (07 R214, R230, R237; 15 R395,
R397): SLOT names a handle of a job; or SLOT and CHECK are 0 and the bytes lie in scratchpad the unit reaches, below the sync
page unless the access is atomic and aligned; or, on a control core, in its local memory or in one control-page register. -/
def ShortAllowed (s : State) (e : Env) (a : Word) (len : Nat) (acc : Acc) : Prop :=
  let off := aOff a
  (aSlot a ≠ 0 ∧ (isCore e.p = false ∨ s.jobOf e.p e.c ≠ none)) ∨
  (aSlot a = 0 ∧ aCheck a = 0 ∧
    ((off < 2 ^ 30 ∧ off % 2 ^ 22 + len ≤ 2 ^ 22 ∧ Reaches s e (off / 2 ^ 22) ∧
        (acc = .atomic → off % len = 0) ∧ (acc ≠ .atomic → off % 2 ^ 22 + len ≤ 0x3FF000)) ∨
     (isCore e.p = true ∧ acc ≠ .atomic ∧ off / 2 ^ 30 = 1 ∧ off % 2 ^ 30 < 2 ^ 18 ∧ off % 2 ^ 30 + len ≤ 2 ^ 18) ∨
     (isCore e.p = true ∧ acc ≠ .atomic ∧ off / 2 ^ 30 = 2 ∧ len = 8 ∧ off % 8 = 0 ∧ off % 2 ^ 30 / 8 < 2560)))

/-- The word acts for a job: every element of a region does, and a control core whose CTXJOB is valid (15 R397). -/
def HasJob (e : Env) (s : State) : Prop := s.jobOf e.p e.c ≠ none

/-- No condition. -/
def Always (_ : Env) (_ : State) : Prop := True

/-- 07 R221-R223, R230-R238: the words of loads, stores, fences and atomics queue one request, under the checks of a short
address at issue; STP and PREF reserve no response word. -/
def Obligations.MemoryWords : Prop :=
  ∀ f : RForm,
    Requests (.ld f) (viewR 0xB0 f) .ld modOf 1 (fun e s => ShortAllowed s e e.a (2 ^ (f.mod.toNat % 4)) .load) ∧
    Requests (.st f) (viewR 0xB1 f) .st modOf 1 (fun e s => ShortAllowed s e e.a (2 ^ (f.mod.toNat % 4)) .store) ∧
    Requests (.stp f) (viewR 0xB2 f) .stp modOf 0 (fun e s => ShortAllowed s e e.a (2 ^ (f.mod.toNat % 4)) .store) ∧
    Requests (.ldacq f) (viewR 0xB3 f) .ldacq modOf 1 (fun e s => ShortAllowed s e e.a 8 .load) ∧
    Requests (.strel f) (viewR 0xB4 f) .strel modOf 1 (fun e s => ShortAllowed s e e.a 8 .store) ∧
    Requests (.fence f) (viewR 0xB5 f) .fence modOf 1 Always ∧
    Requests (.flush f) (viewR 0xB6 f) .flush modOf 1 Always ∧
    Requests (.ldw f) (viewR 0xB7 f) .ldw modOf 1 Always ∧
    Requests (.stw f) (viewR 0xB8 f) .stw modOf 1 Always ∧
    Requests (.pref f) (viewR 0xB9 f) .pref modOf 0 Always ∧
    Requests (.atom f) (viewR 0xC0 f) .atom (fun _ => f.mod.toNat + (if f.pidx.getLsbD 0 then 16 else 0)) 1
      (fun e s => ShortAllowed s e e.a (if f.mod = 1 then 4 else 8) .atomic) ∧
    Requests (.cas f) (viewR 0xC1 f) .cas modOf 1 (fun e s => ShortAllowed s e e.a 8 .atomic)

/-- 07 R239, R231; 15 R397; 19 R466-R470: the words of objects, handles, plans and eviction. -/
def Obligations.ObjectWords : Prop :=
  ∀ f : RForm,
    Requests (.alloc f) (viewR 0xD0 f) .alloc modOf 1 (fun e s => HasJob e s ∧ 0 < e.a.toNat ∧ e.a.toNat ≤ 2 ^ 48) ∧
    Requests (.free f) (viewR 0xD1 f) .free modOf 1 (fun e s => HasJob e s ∧ aSlot e.a ≠ 0) ∧
    Requests (.seal f) (viewR 0xD2 f) .seal modOf 1 (fun e s => HasJob e s ∧ aSlot e.a ≠ 0) ∧
    Requests (.persist f) (viewR 0xD3 f) .persist modOf 1 (fun e s => HasJob e s ∧ aSlot e.a ≠ 0) ∧
    Requests (.hbind f) (viewR 0xD4 f) .hbind modOf 1 HasJob ∧
    Requests (.hexp f) (viewR 0xD5 f) .hexp modOf 2 (fun e s => HasJob e s ∧ aSlot e.a ≠ 0) ∧
    Requests (.hshort f) (viewR 0xD6 f) .hshort modOf 1 HasJob ∧
    Requests (.hdrop f) (viewR 0xD7 f) .hdrop modOf 1 (fun e s => HasJob e s ∨ aSlot e.a = 0) ∧
    Requests (.objq f) (viewR 0xD8 f) .objq modOf 1 Always ∧
    Requests (.planLoad f) (viewR 0xD9 f) .planLoad modOf 1 (fun e s => HasJob e s ∧ e.a.toNat % 32 = 0 ∧
      fldN e.b 12 20 = 0 ∧ fldN e.b 8 2 ≠ 3 ∧ ShortAllowed s e e.a 32 .load) ∧
    Requests (.planStep f) (viewR 0xD9 f) .planStep modOf 1 HasJob ∧
    Requests (.planDrop f) (viewR 0xD9 f) .planDrop modOf 1 HasJob ∧
    Requests (.evict f) (viewR 0xDA f) .evict modOf 1 (fun e s => HasJob e s ∧ aSlot e.a ≠ 0)

/-- SA names a sync word that the unit reaches (09 R260). -/
def SyncAllowed (e : Env) (s : State) : Prop :=
  e.a.toNat < 2 ^ 30 ∧ 0x3FF000 ≤ e.a.toNat % 2 ^ 22 ∧ e.a.toNat % 8 = 0 ∧ Reaches s e (e.a.toNat / 2 ^ 22)

/-- SA names a matrix engine that the unit reaches (11 R333). -/
def EngineAllowed (e : Env) (s : State) : Prop := engBad e.a = false ∧ Reaches s e (engAddr e.a).1

/-- SA names an Espalier group that the unit reaches (12 R357). -/
def GroupAllowed (e : Env) (s : State) : Prop :=
  e.a.toNat < 2 ^ 31 ∧ fldN e.a 19 4 = 1 ∧ fldN e.a 14 5 ≤ 3 ∧ fldN e.a 0 14 = 0 ∧ Reaches s e (fldN e.a 23 8)

/-- 09 R259-R260, R266; 10 R308; 11 R332-R335; 12 R356-R357: the words of sync words, stream copies, matrix engines, Espalier
and operators. -/
def Obligations.EngineWords : Prop :=
  ∀ f : RForm,
    Requests (.syncadd f) (viewR 0xC2 f) .syncadd modOf 1 SyncAllowed ∧
    Requests (.syncrd f) (viewR 0xC3 f) .syncrd modOf 1 SyncAllowed ∧
    Requests (.syncset f) (viewR 0xC4 f) .syncset modOf 1 SyncAllowed ∧
    Requests (.sfree f) (viewR 0xC9 f) .sfree modOf 0 Always ∧
    Requests (.sbind f) (viewR 0xE0 f) .sbind modOf 1
      (fun e s => e.a.toNat < 2 ^ 30 ∧ e.a.toNat % 64 = 0 ∧ ShortAllowed s e e.a 64 .load) ∧
    Requests (.scancel f) (viewR 0xE1 f) .scancel modOf 1 Always ∧
    Requests (.mxbind f) (viewR 0xE2 f) .mxbind modOf 1
      (fun e s => EngineAllowed e s ∧ e.b.toNat < 2 ^ 30 ∧ e.b.toNat % 64 = 0 ∧ ShortAllowed s e e.b 64 .load) ∧
    Requests (.mxbindCb f) (viewR 0xE2 f) .mxbindCb modOf 1
      (fun e s => EngineAllowed e s ∧ e.b.toNat % 32 = 0 ∧ ShortAllowed s e e.b 32 .load) ∧
    Requests (.mxbindFree f) (viewR 0xE2 f) .mxbindFree modOf 1 EngineAllowed ∧
    Requests (.mxpri f) (viewR 0xE3 f) .mxpri modOf 1 Always ∧
    Requests (.mxstat f) (viewR 0xE4 f) .mxstat modOf 1 Always ∧
    Requests (.gload f) (viewR 0xE5 f) .gload modOf 1
      (fun e s => GroupAllowed e s ∧ aSlot e.b ≠ 0 ∧ e.b.toNat % 8 = 0 ∧ ShortAllowed s e e.b 8 .load) ∧
    Requests (.gbind f) (viewR 0xE6 f) .gbind modOf 1
      (fun e s => GroupAllowed e s ∧ fldN e.b 8 24 = 0 ∧ fldN e.b 0 2 = 0 ∧ fldN e.b 4 2 ≠ 3) ∧
    Requests (.gunload f) (viewR 0xE7 f) .gunload modOf 1 GroupAllowed ∧
    Requests (.opcfg f) (viewR 0xE8 f) .opcfg modOf 1 Always ∧
    Requests (.oprd f) (viewR 0xE9 f) .oprd modOf 1 Always

/-- SB's reserved fields of TSUBMIT and LAUNCH are 0 and the region it names has an open graph counter of the unit's job `j`
(13 R368, R383). -/
def SubmitAllowed (most : Nat) (e : Env) (s : State) : Prop :=
  ∃ j, s.jobOf e.p e.c = some j ∧
    (let d := fldN e.b 24 3
     let g := if isCore e.p then fldN e.b 32 6 else (s.proc e.p).region.getD 0
     let n := fldN e.b 0 16
     e.a.toNat % 64 = 0 ∧ fldN e.b 38 26 = 0 ∧ fldN e.b 27 5 = 0 ∧ fldN e.b 16 8 = 0 ∧ 0 < n ∧ n ≤ most ∧
     (isCore e.p = false → fldN e.b 32 6 = 0) ∧
     (s.counter d (cKey 2 0 g)).isOpen = true ∧ (s.counter d (cKey 2 0 g)).job = j ∧
     (s.region d g).st ≠ .free ∧ (s.region d g).job = j)

/-- SA is a work identifier (13 R385). -/
def WorkIdOk (e : Env) (_ : State) : Prop :=
  e.a.toNat < 2 ^ 32 ∧ fldN e.a 27 2 = 0 ∧ fldN e.a 16 8 = 0 ∧ fldN e.a 29 3 ≤ 4

/-- SA names a permit key of the issuer's job (13 R371, R387). -/
def KeyAllowed (e : Env) (s : State) : Prop :=
  ∃ j, s.jobOf e.p e.c = some j ∧ e.a.toNat < 4096 ∧
    (let w := s.ctlReg (dieOf e.p) (4 * (j % 256) + 1)
     fldN w 0 12 ≤ e.a.toNat ∧ e.a.toNat < fldN w 0 12 + fldN w 16 13)

/-- SB of KLEND names an element of the issuer's die in a region of its job, with its reserved fields 0 (13 R387-R388). -/
def LendAllowed (e : Env) (s : State) : Prop :=
  fldN e.b 21 43 = 0 ∧ fldN e.b 18 2 = 0 ∧ fldN e.b 12 4 = 0 ∧ dieOf (fldN e.b 0 12) = dieOf e.p ∧
    ∃ R, s.regionOf (fldN e.b 0 12) = some R ∧ s.jobOf e.p e.c = some R.job

/-- 13 R382-R388; 22 R520-R521: the words of submission, cancelling, counts, lending and collectives. -/
def Obligations.WorkWords : Prop :=
  ∀ f : RForm,
    Requests (.tsubmit f) (viewR 0xA3 f) .tsubmit modOf 1
      (fun e s => SubmitAllowed 256 e s ∧ ShortAllowed s e e.a (64 * fldN e.b 0 16) .load) ∧
    Requests (.launch f) (viewR 0xA4 f) .launch modOf 1
      (fun e s => SubmitAllowed 65535 e s ∧ ShortAllowed s e e.a 64 .load) ∧
    Requests (.cancel f) (viewR 0xA5 f) .cancel modOf 1 WorkIdOk ∧
    Requests (.wcount f) (viewR 0xA6 f) .wcount modOf 1 WorkIdOk ∧
    Requests (.klend f) (viewR 0xA7 f) .klend modOf 1 (fun e s => KeyAllowed e s ∧ LendAllowed e s) ∧
    Requests (.klendQ f) (viewR 0xA7 f) .klendQ modOf 1 KeyAllowed ∧
    (let ok : Env → State → Prop := fun e s => HasJob e s ∧ fldN e.a 24 40 = 0 ∧ fldN e.a 4 12 = 0
     let v := viewR 0xEA f
     Requests (.collSumf f) v .coll modOf 2 ok ∧ Requests (.collMinf f) v .coll modOf 2 ok ∧
     Requests (.collMaxf f) v .coll modOf 2 ok ∧ Requests (.collSumi f) v .coll modOf 2 ok ∧
     Requests (.collMini f) v .coll modOf 2 ok ∧ Requests (.collMaxi f) v .coll modOf 2 ok ∧
     Requests (.collBcast f) v .coll modOf 2 ok ∧ Requests (.collBarrier f) v .coll modOf 2 ok)

/-- 06 R172, R178, R197; 13 R376, R387: PGIVE sends a permit that the unit holds, with its TAINT, and gives it up; `klend.ret`
gives one back: the entry goes at issue, and a request that carries its TAINT is queued. For both a key of more than twelve bits
is KEY_RANGE (14), and a key not held PROTECTION (7); a `klend.ret` of a control core is always PROTECTION. OP1
of these words, which leave SB unused, is the model's reading (log entry 17), as is that the hold set closes up over the entry that goes
(log entry 81). -/
def Obligations.PermitWords : Prop :=
  (∀ (f : RForm) (s : State) (sh : Shape), (Instr.pgive f).wf = true → Issues (viewR 0x94 f) sh s →
     let e := s.env sh (viewR 0x94 f)
     (e.a.toNat < 4096 → ∀ k, (holdAfter s e).find? (fun k => k.key.toNat == e.a.toNat) = some k →
       ∃ t, exec (.pgive f) s = .next t ∧ PlainWord s e t ∧ ChannelsAfter e s t ∧
         (t.proc e.p).hold = (holdAfter s e).erase k ∧
         SentTo s e (f.dst.toNat - 16)
           { kind := .permit, tag := 0, payload := BitVec.ofNat 64 (k.key.toNat + (if k.taint then 4096 else 0)) } t) ∧
     (4096 ≤ e.a.toNat → ∃ t, exec (.pgive f) s = .next t ∧ FaultTaken s e .issue 14 0 e.a e.b t) ∧
     (e.a.toNat < 4096 → (holdAfter s e).find? (fun k => k.key.toNat == e.a.toNat) = none →
       ∃ t, exec (.pgive f) s = .next t ∧ FaultTaken s e .issue 7 0 e.a e.b t)) ∧
  (∀ (f : RForm) (s : State) (sh : Shape), Issues (viewR 0xA7 f) sh s →
     let e := s.env sh (viewR 0xA7 f)
     (isCore e.p = true → ∃ t, exec (.klendRet f) s = .next t ∧ FaultTaken s e .issue 7 0 e.a e.b t) ∧
     (HasJob e s → isCore e.p = false →
       (∀ k, e.a.toNat < 4096 → (holdAfter s e).find? (fun k => k.key.toNat == e.a.toNat) = some k →
         ∃ t, exec (.klendRet f) s = .next t ∧ Requested s e .klendRet (if k.taint then 1 else 0) t ∧
           (t.proc e.p).hold = (holdAfter s e).erase k) ∧
       (e.a.toNat < 4096 → (holdAfter s e).find? (fun k => k.key.toNat == e.a.toNat) = none →
         ∃ t, exec (.klendRet f) s = .next t ∧ FaultTaken s e .issue 7 0 e.a e.b t) ∧
       (4096 ≤ e.a.toNat → ∃ t, exec (.klendRet f) s = .next t ∧ FaultTaken s e .issue 14 0 e.a e.b t)))

/-- The reserved fields of an image operand are 0 (15 R415). -/
def ImageOperandOk (b : Word) : Prop := b.toNat < 2 ^ 30 ∧ fldN b 14 2 = 0 ∧ fldN b 6 2 = 0

/-- 15 R413-R417; 16 R425, R440; 22 R529-R530: the words of a control core that configure, run, freeze, cut, save, restore,
resume and re-key queue their request. -/
def Obligations.ControlWords : Prop :=
  ∀ f : RForm,
    Requests (.cfgload f) (viewR 0xF5 f) .cfgload modOf 1
      (fun e _ => aSlot e.a ≠ 0 ∧ e.a.toNat % 8 = 0 ∧ ImageOperandOk e.b) ∧
    Requests (.run f) (viewR 0xF6 f) .run modOf 1 Always ∧
    Requests (.runContext f) (viewR 0xF6 f) .run modOf 1 Always ∧
    Requests (.freeze f) (viewR 0xF7 f) .freeze modOf 1 Always ∧
    Requests (.freezeRel f) (viewR 0xF7 f) .freezeRel modOf 1 Always ∧
    Requests (.thaw f) (viewR 0xF8 f) .thaw modOf 1 Always ∧
    Requests (.barrier f) (viewR 0xFC f) .barrier modOf 1 Always ∧
    Requests (.markSnap f) (viewR 0xF9 f) .mark modOf 1 Always ∧
    Requests (.markPre f) (viewR 0xF9 f) .mark modOf 1 Always ∧
    Requests (.save f) (viewR 0xFA f) .save modOf 1 Always ∧
    Requests (.saveRel f) (viewR 0xFA f) .save modOf 1 Always ∧
    Requests (.restore f) (viewR 0xFB f) .restore modOf 1 (fun e _ => ImageOperandOk e.b) ∧
    Requests (.rekey f) (viewR 0xFD f) .rekey modOf 1 (fun e s => HasJob e s ∧ aSlot e.a ≠ 0 ∧ e.a.toNat % 64 = 0) ∧
    Requests (.resumeRetry f) (viewR 0xFE f) .resume modOf 1 Always ∧
    Requests (.resumeSkip f) (viewR 0xFE f) .resume modOf 1 Always ∧
    Requests (.resumeRoll f) (viewR 0xFE f) .resume modOf 1 Always ∧
    Requests (.resumeCancel f) (viewR 0xFE f) .resume modOf 1 Always

/-- Instruction `i` of word `v` takes the fault that the check of its short address names, when the address of its `len` bytes
fails one: BOUNDS is 5, PROTECTION 7, SYNC_WRITE 9 (07 R214, R228, R230, R237; 15 R395). -/
def ChecksAddress (s : State) (i : Instr) (v : View) (len : Nat) (acc : Acc) : Prop :=
  ∀ sh, Issues v sh s →
    let e := s.env sh v
    let off := aOff e.a
    let takes (code : Nat) : Prop := ∃ t, exec i s = .next t ∧ FaultTaken s e .issue code 0 e.a e.b t
    aSlot e.a = 0 →
    (aCheck e.a ≠ 0 → takes 5) ∧
    (aCheck e.a = 0 → off < 2 ^ 30 →
      (2 ^ 22 < off % 2 ^ 22 + len → takes 5) ∧
      (off % 2 ^ 22 + len ≤ 2 ^ 22 → ¬ Reaches s e (off / 2 ^ 22) → takes 7) ∧
      (off % 2 ^ 22 + len ≤ 2 ^ 22 → Reaches s e (off / 2 ^ 22) →
        (acc = .atomic → off % len ≠ 0 → takes 7) ∧
        (acc = .store → 0x3FF000 < off % 2 ^ 22 + len → takes 9) ∧
        (acc = .load → 0x3FF000 < off % 2 ^ 22 + len → takes 7))) ∧
    (aCheck e.a = 0 → 2 ^ 30 ≤ off → isCore e.p = false → takes 5) ∧
    (aCheck e.a = 0 → isCore e.p = true →
      (off / 2 ^ 30 = 3 → takes 5) ∧
      (off / 2 ^ 30 = 1 ∨ off / 2 ^ 30 = 2 → acc = .atomic → takes 7) ∧
      (off / 2 ^ 30 = 1 → acc ≠ .atomic → off / 2 ^ 18 % 2 ^ 12 ≠ 0 ∨ 2 ^ 18 < off % 2 ^ 18 + len → takes 5) ∧
      (off / 2 ^ 30 = 2 → acc ≠ .atomic → len ≠ 8 ∨ off % 8 ≠ 0 ∨ off / 2 ^ 16 % 2 ^ 14 ≠ 0 ∨ 2559 < off % 2 ^ 16 / 8 → takes 5))

/-- 07 R214, R228, R230, R237; 06 R205; 15 R395; 16 R422: a load, a store, an atomic or a compare-and-swap whose short address fails
a check at issue takes the fault the check names and does nothing else: it queues no request and dequeues nothing. BOUNDS is 5,
PROTECTION 7 (for a load of the sync page, a misaligned atomic, and a cluster out of reach), SYNC_WRITE 9. OP1 of LD and LDACQ,
which leave SB unused, is the model's (log entry 17). -/
def Obligations.AddressFaults : Prop :=
  ∀ (f : RForm) (s : State),
    let size := 2 ^ (f.mod.toNat % 4)
    ChecksAddress s (.ld f) (viewR 0xB0 f) size .load ∧ ChecksAddress s (.st f) (viewR 0xB1 f) size .store ∧
    ChecksAddress s (.stp f) (viewR 0xB2 f) size .store ∧ ChecksAddress s (.ldacq f) (viewR 0xB3 f) 8 .load ∧
    ChecksAddress s (.strel f) (viewR 0xB4 f) 8 .store ∧
    ChecksAddress s (.atom f) (viewR 0xC0 f) (atomLen f.mod.toNat) .atomic ∧
    ChecksAddress s (.cas f) (viewR 0xC1 f) 8 .atomic

/-! ### Words of the tag tables, branches and pops -/

/-- The result `r` of a word is outstanding, and the issue changes nothing of the other contexts and units, of memory, the
objects and the package; it says nothing of the clusters and the dies. -/
structure DeliveredBeside (s : State) (e : Env) (r : Res) (t : State) : Prop where
  later : DeliveredLater s e r t
  pc : (t.ctx e.p e.c).pc = pcAfter e
  inside : KeptInside e s t
  channels : ChannelsAfter e s t
  hold : (t.proc e.p).hold = holdAfter s e
  port : PortUnused e s t
  units : ∀ q, q ≠ e.p → t.proc q = s.proc q
  bytes : ∀ a, t.mget a = s.mget a
  objects : t.objs = s.objs ∧ t.handles = s.handles ∧ t.leaves = s.leaves
  package : t.regs = s.regs ∧ t.fabric = s.fabric ∧ t.tai = s.tai ∧ t.cycle = s.cycle

/-- Clusters other than `n` are as they were, and all of cluster `n` but its tags and tile tags. -/
def ClusterKept (s t : State) (n : Nat) : Prop :=
  (∀ m, m ≠ n → t.cluster m = s.cluster m) ∧
    t.cluster n = { s.cluster n with tags := (t.cluster n).tags, tiles := (t.cluster n).tiles }

/-- The code TSET answers (09 R262): 3 for the sync frame, 1 outside the key's set, 2 when another frame holds the key. -/
def tsetCode (C : Cluster) (k : BitVec 52) (f : Nat) : Nat :=
  if f = 1023 then 3 else if f / 8 ≠ tagSet k then 1 else if C.lookTag k ≠ none ∧ C.lookTag k ≠ some f then 2 else 0

/-- 09 R254-R256, R262: TLOOK looks a key up in its set; TSET writes a tag or answers why it does not; TCLR clears one and
answers what it held; TILETAG reads, writes or compares and writes the tile tag of a frame, never the sync frame's. The
cluster is the element's own, and on a control core the one of its die that a[60:56] names. -/
def Obligations.TagWords : Prop :=
  (∀ e : Env, tagCluster e = if isCore e.p = true then 32 * dieOf e.p + e.a.toNat / 2 ^ 56 % 32 else e.p / 16) ∧
  ∀ (f : RForm) (s : State) (sh : Shape),
    (Issues (viewR 0xC5 f) sh s →
      let e := s.env sh (viewR 0xC5 f)
      ∃ t, exec (.tlook f) s = .next t ∧ t.clusters = s.clusters ∧
        DeliveredBeside s e (.val (match (s.cluster (tagCluster e)).lookTag (e.a.setWidth 52) with
          | some k => BitVec.ofNat 64 k
          | none => 0xFFFFFFFF)) t) ∧
    (Issues (viewR 0xC6 f) sh s →
      let e := s.env sh (viewR 0xC6 f)
      let n := tagCluster e
      let g := e.b.toNat % 1024
      let code := tsetCode (s.cluster n) (e.a.setWidth 52) g
      ∃ t, exec (.tset f) s = .next t ∧ DeliveredBeside s e (.val (BitVec.ofNat 64 code)) t ∧ ClusterKept s t n ∧
        (t.cluster n).tiles = (s.cluster n).tiles ∧
        ∀ k, (t.cluster n).tag k = if code = 0 ∧ k = g then some (e.a.setWidth 52) else (s.cluster n).tag k) ∧
    (Issues (viewR 0xC7 f) sh s →
      let e := s.env sh (viewR 0xC7 f)
      let n := tagCluster e
      let g := e.a.toNat % 1024
      ∃ t, exec (.tclr f) s = .next t ∧ ClusterKept s t n ∧ (t.cluster n).tiles = (s.cluster n).tiles ∧
        DeliveredBeside s e (.val (match (s.cluster n).tag g with
          | some k => BitVec.ofNat 64 (2 ^ 63 + k.toNat)
          | none => 0)) t ∧
        ∀ k, (t.cluster n).tag k = if k = g then none else (s.cluster n).tag k) ∧
    (Issues (viewR 0xC8 f) sh s →
      let e := s.env sh (viewR 0xC8 f)
      let n := tagCluster e
      let g := e.a.toNat % 1024
      let old := (s.cluster n).tile g
      let wrote (w : Bool) (t : State) : Prop :=
        DeliveredBeside s e { vals := [BitVec.ofNat 64 (old.toNat + (if w then 4 else 0))], cond := w, pv := some w } t ∧
        ClusterKept s t n ∧ (t.cluster n).tags = (s.cluster n).tags ∧
        ∀ k, (t.cluster n).tile k = if w = true ∧ k = g then f.mod.setWidth 2 else (s.cluster n).tile k
      (∃ t, exec (.tiletagCas f) s = .next t ∧ wrote (decide (g ≠ 1023) && old == f.mod.extractLsb' 2 2) t) ∧
      (∃ t, exec (.tiletagSet f) s = .next t ∧ wrote (decide (g ≠ 1023)) t) ∧
      (∃ t, exec (.tiletagRd f) s = .next t ∧ t.clusters = s.clusters ∧
        DeliveredBeside s e (.val (BitVec.ofNat 64 old.toNat)) t))

/-- 15 R393, R398, R414: BR and BRL go to PC + 8·DISP when that lies in local memory, BRL with the link in x15; BX goes to its
operand; a target outside local memory or not a multiple of 8 is BOUNDS (5). OP0 and OP1 of that record, where
the word has no such operand, are the model's reading (log entry 17). -/
def Obligations.BranchWords : Prop :=
  ∀ (s : State) (sh : Shape), isCore s.cur.proc = true →
    (∀ f : BForm, Issues (viewB 0xF0 f) sh s →
      let e := s.env sh (viewB 0xF0 f)
      let t : Int := e.C.pc.toNat + 8 * f.disp.toInt
      (0 ≤ t → t ≤ 0x3FFF8 →
        ∃ u, exec (.br f) s = .next u ∧ Leaves s e { plainAfter e with pc := BitVec.ofInt 19 t } u) ∧
      (t < 0 ∨ 0x3FFF8 < t → ∃ u, exec (.br f) s = .next u ∧ FaultTaken s e .issue 5 0 e.a e.b u)) ∧
    (∀ f : BForm, Issues (viewB 0xF1 f) sh s →
      let e := s.env sh (viewB 0xF1 f)
      let t : Int := e.C.pc.toNat + 8 * f.disp.toInt
      (0 ≤ t → t ≤ 0x3FFF8 →
        ∃ u, exec (.brl f) s = .next u ∧
          Leaves s e { plainAfter e with pc := BitVec.ofInt 19 t, x := vset e.C.x 15 (e.C.pc.zeroExtend 64 + 8) } u) ∧
      (t < 0 ∨ 0x3FFF8 < t → ∃ u, exec (.brl f) s = .next u ∧ FaultTaken s e .issue 5 0 e.a e.b u)) ∧
    (∀ f : RForm, Issues (viewR 0xF2 f) sh s →
      let e := s.env sh (viewR 0xF2 f)
      (e.a.toNat < 2 ^ 18 → e.a.toNat % 8 = 0 →
        ∃ u, exec (.bx f) s = .next u ∧ Leaves s e { plainAfter e with pc := e.a.setWidth 19 } u) ∧
      (2 ^ 18 ≤ e.a.toNat ∨ e.a.toNat % 8 ≠ 0 → ∃ u, exec (.bx f) s = .next u ∧ FaultTaken s e .issue 5 0 e.a e.b u))

/-- What a pop delivers: the `n` words of the oldest record, or zeros with the condition 0 when there is none (15 R414). -/
def popped (n : Nat) (q : List (List Word)) : Res :=
  match q with
  | [] => { vals := List.replicate n 0, cond := false }
  | r :: _ => { vals := (List.range n).map (r.getD · 0), cond := true }

/-- 15 R399, R401, R414: EVPOP takes the oldest event record of its core, and MBXPOP the oldest fault record of its die's
mailbox, and delivers its words; when there is none it delivers zeros. -/
def Obligations.PopWords : Prop :=
  ∀ (f : RForm) (s : State) (sh : Shape), isCore s.cur.proc = true →
    (Issues (viewR 0xF3 f) sh s →
      let e := s.env sh (viewR 0xF3 f)
      ∃ t, exec (.evpop f) s = .next t ∧ DeliveredBeside s e (popped 4 (s.proc e.p).evq) t ∧ t.clusters = s.clusters ∧
        (t.proc e.p).evq = (s.proc e.p).evq.tail) ∧
    (Issues (viewR 0xF4 f) sh s →
      let e := s.env sh (viewR 0xF4 f)
      ∃ t, exec (.mbxpop f) s = .next t ∧ DeliveredBeside s e (popped 8 (s.die (dieOf e.p)).mailbox) t ∧
        t.clusters = s.clusters ∧ (t.die (dieOf e.p)).mailbox = (s.die (dieOf e.p)).mailbox.tail ∧
        ∀ d, d ≠ dieOf e.p → t.die d = s.die d)

/-! ### Events of a unit: results, tokens, tasks, time and traces -/

/-- 04 R108-R110, R115; 05 R137; 02 R59: a result whose latency has passed is delivered: consecutive registers from DST on, or
a predicate, or the entry reserved in an output channel; its flags are sticky and PACT acts last. Nothing else changes. -/
def Obligations.ResultDelivery : Prop :=
  ∀ (p c k : Nat) (s : State) (o : Outst), c < 4 → (s.ctx p c).outst[k]? = some o → o.due ≤ s.unitCycle p →
    ∃ t, exec (.resultDelivery p c k) s = .next t ∧ OnlyUnit s t p ∧
      (∀ j, j < 4 → j ≠ c → t.ctx p j = s.ctx p j) ∧
      t.ctx p c = { s.ctx p c with
        outst := (s.ctx p c).outst.erase o
        x := if o.dst.toNat < 16 then
            (List.range o.vals.length).foldl (fun x j => vset x (o.dst.toNat + j) (o.vals.getD j 0)) (s.ctx p c).x
          else (s.ctx p c).x
        p := pactOf o.pact o.pidx.toNat o.cond
          (if 24 ≤ o.dst.toNat ∧ o.vals ≠ [] then setPred (s.ctx p c).p (o.dst.toNat - 24) o.pv else (s.ctx p c).p)
        fpflags := (s.ctx p c).fpflags ||| o.flags } ∧
      (∀ j, j < 4 → vget (t.proc p).outs j =
        if o.dst.toNat = 16 + j ∧ o.vals ≠ [] then
          (vget (s.proc p).outs j).map fun x => if x = .resv o.resv then .tok (dataTok o.tag (o.vals.headD 0)) else x
        else vget (s.proc p).outs j) ∧
      (t.proc p).ins = (s.proc p).ins ∧ (t.proc p).ml = (s.proc p).ml

/-- A channel diverts the token to its converter: a data token whose tag's ACCEPT bit is clear while STEER is 1 (06 R173). -/
def Steered (c : InChan) (t : Token) : Prop :=
  t.kind = .data ∧ c.conf.getLsbD 9 = true ∧ c.conf.getLsbD t.tag.toNat = false

/-- The tokens that the converter to which a channel of element `e` diverts has not yet converted (06 R174, 10 R279). -/
def steerInput (s : State) (e : Nat) (c : InChan) : List SteerTok :=
  ((s.cluster (e / 16)).cvt.get Cvt.reset (if c.conf.getLsbD 8 then 1 else 0)).steerQ

/-- No cut has recorded element `e` and no item of a resumed or restored image waits for it (16 R430, R433). -/
def ElementOpen (s : State) (e : Nat) : Prop :=
  match s.regionOf e with
  | none => True
  | some R => R.entering = [] ∧ (match R.cut with | none => True | some k => k.recorded.contains e = false)

/-- 06 R112, R168, R173-R177, R199: the token on the link of an input channel of an element enters the channel's tail when the
channel holds fewer than four, an end marker merges into an end marker there, and a steered token leaves a reservation and
goes to the converter of its cluster, whose in0 holds fewer than four (10 R279); otherwise it stays on the link. In discard
mode of rank DRANK a data token or an end marker of a lower rank is removed, and an end marker of that rank or a higher one
stays and ends the mode. Nothing else changes. -/
def Obligations.TokenArrivalAndDiscard : Prop :=
  (∀ (e ch : Nat) (s : State) (k : Token), ch < 4 →
     (vget (s.proc e).ins ch).link = some k → k.isCut = false → ElementOpen s e →
     let c := vget (s.proc e).ins ch
     (¬ Steered c k → c.q.length < 4 ∨ mergeable c.q k = true →
       ∃ t, exec (.tokenArrival (.elem e ch)) s = .next t ∧ OnlyUnit s t e ∧
         (t.proc e) = { s.proc e with ins := (t.proc e).ins } ∧
         (∀ j, j < 4 → vget (t.proc e).ins j =
           if j = ch then { c with q := enqueue c.q k, link := none } else vget (s.proc e).ins j)) ∧
     (¬ Steered c k → 4 ≤ c.q.length → mergeable c.q k = false → exec (.tokenArrival (.elem e ch)) s = .next s) ∧
     (Steered c k → c.q.length < 4 → (steerInput s e c).length < 4 →
       ∃ t, exec (.tokenArrival (.elem e ch)) s = .next t ∧ (∀ a, t.mget a = s.mget a) ∧ (∀ q, q ≠ e → t.proc q = s.proc q) ∧
         (∀ j, j < 4 → vget (t.proc e).ins j =
           if j = ch then { c with q := c.q ++ [.resv s.fresh], link := none } else vget (s.proc e).ins j) ∧
         (∀ n, n ≠ e / 16 → t.cluster n = s.cluster n) ∧
         steerInput t e c = steerInput s e c ++
           [{ tok := k, port := .elem e ch, id := s.fresh, cbslot := (c.conf.extractLsb' 16 3).toNat }]) ∧
     (Steered c k → 4 ≤ c.q.length ∨ 4 ≤ (steerInput s e c).length →
       exec (.tokenArrival (.elem e ch)) s = .next s)) ∧
  (∀ (e ch : Nat) (s : State) (k : Token), ch < 4 → ElementOpen s e →
     (vget (s.proc e).ins ch).drank ≠ 0 → frontOf (vget (s.proc e).ins ch).q = some k →
     let c := vget (s.proc e).ins ch
     let becomes (c' : InChan) : Prop := ∃ t, exec (.discardHead e ch) s = .next t ∧ OnlyUnit s t e ∧
       t.proc e = { s.proc e with ins := (t.proc e).ins } ∧
       ∀ j, j < 4 → vget (t.proc e).ins j = if j = ch then c' else vget (s.proc e).ins j
     (k.kind = .data ∨ (k.isEnd = true ∧ markRank k.payload < c.drank.toNat) → becomes { c with q := c.q.tail }) ∧
     (k.isEnd = true → c.drank.toNat ≤ markRank k.payload → becomes { c with drank := 0 }) ∧
     (k.kind ≠ .data → k.isEnd = false → exec (.discardHead e ch) s = .next s))

/-- The first handler from PTR on, in rotation, whose lane holds a packet and whose owner runs (06 R185). -/
def FirstReady (P : Proc) (h : Nat) : Prop :=
  h < 8 ∧ laneReady P h = true ∧
    ∃ i, i < 8 ∧ (P.ptr.toNat + i) % 8 = h ∧ ∀ j, j < i → laneReady P ((P.ptr.toNat + j) % 8) = false

/-- 06 R181-R185, R201: a packet of the task network enters the lane of the handler its selector binds, behind no earlier
packet of its sender, when the lane holds fewer than four; the lane's head is the first ready handler from PTR on, and is
chosen anew when its owner no longer runs; the oldest packet of a task-out queue enters the network, where no throttle (15
R412) holds it back, or stays there while its target refuses it. That a packet enters a
network without a limit of depth, and stays where it is while its target refuses it, is the model's (log entry 44). -/
def Obligations.TaskLaneEvents : Prop :=
  (∀ (e k : Nat) (s : State) (n : NetPkt), e < 4096 → (s.die (dieOf e)).net[k]? = some n → n.dst = e → ElementOpen s e →
    (∀ m ∈ (s.die (dieOf e)).net.take k, m.src = n.src → m.dst ≠ e) →
    let x := (s.proc e).sels.get Sel.reset n.pkt.sel.toNat
    let h := x.handler.toNat
    (x.v = true → (vget (s.proc e).lanes h).length < 4 →
      ∃ t, exec (.taskPacketArrival e k) s = .next t ∧ OnlyUnitAndDie s t e (dieOf e) ∧
        t.proc e = { s.proc e with lanes := vset (s.proc e).lanes h (vget (s.proc e).lanes h ++ [n.pkt]) } ∧
        t.die (dieOf e) = { s.die (dieOf e) with net := (s.die (dieOf e)).net.eraseIdx k }) ∧
    (x.v = false ∨ 4 ≤ (vget (s.proc e).lanes h).length → exec (.taskPacketArrival e k) s = .next s)) ∧
  (∀ (e : Nat) (s : State), ElementOpen s e →
    (∀ h, (s.proc e).head = none → FirstReady (s.proc e) h →
      ∃ t, exec (.tlHeadChoice e) s = .next t ∧ OnlyUnit s t e ∧
        t.proc e = { s.proc e with head := some (Fin.ofNat 8 h), ptr := BitVec.ofNat 3 (h + 1) }) ∧
    (∀ h, (s.proc e).head = some h → ((s.proc e).ctx (vget (s.proc e).owners h.val).toNat).rstate ≠ .run →
      ∃ t, exec (.tlHeadChoice e) s = .next t ∧ OnlyUnit s t e ∧ t.proc e = { s.proc e with head := none })) ∧
  (∀ (p : Nat) (s : State) (n : NetPkt) (rest : List NetPkt), (s.proc p).taskOut = n :: rest → ElementOpen s p →
    let x := (s.proc n.dst).sels.get Sel.reset n.pkt.sel.toNat
    let lane := vget (s.proc n.dst).lanes x.handler.toNat
    (x.v = true → lane.length < 4 → (∀ m ∈ (s.die (dieOf n.dst)).net, m.src = n.src → m.dst ≠ n.dst) →
      fldN (s.ctlReg (dieOf p) 1072) 0 16 = 0 →
      ∃ t, exec (.taskInject p) s = .next t ∧ OnlyUnitAndDie s t p (dieOf n.dst) ∧
        t.proc p = { s.proc p with taskOut := rest } ∧
        t.die (dieOf n.dst) = { s.die (dieOf n.dst) with net := (s.die (dieOf n.dst)).net ++ [n] }) ∧
    (x.v = false ∨ 4 ≤ lane.length → exec (.taskInject p) s = .next s))

/-- 06 R189-R191, R203; 15 R399; 16 R422: a sleeping context runs again once a view reaches DEADLINE, and sleeps on while it
does not (a DEADLINE that no uncorrectable error marks); a trace record and a held event record enter the event queue of the core they name while it holds fewer than 1024;
a waiting fault record enters the mailbox of its die while that holds fewer than 256, with the next SEQ; a held event enters
an event lane while it holds fewer than four. -/
def Obligations.QueueEvents : Prop :=
  (∀ (p c : Nat) (s : State), c < 4 → (s.ctx p c).rstate = .sleep → ElementOpen s p →
    (s.proc p).badRegs.contains (16 * c + sprSite 3) = false →
    ∃ t now, exec (.sleepWake p c) s = .next t ∧ Viewed s p now ∧ (∀ a, t.mget a = s.mget a) ∧
      (∀ q, q ≠ p → t.proc q = s.proc q) ∧ (∀ j, j < 4 → j ≠ c → t.ctx p j = s.ctx p j) ∧
      t.ctx p c = { s.ctx p c with rstate := if now.toNat < (s.ctx p c).deadline.toNat then .sleep else .run }) ∧
  (∀ (p : Nat) (s : State) (r : List Word), (s.proc p).traceBuf = some r →
    let u := coreUnit (dieOf p) (s.proc p).trace.core.toNat
    (s.proc u).evq.length < 1024 →
    ∃ t, exec (.traceRecordPost p) s = .next t ∧ t = { s with procs := t.procs } ∧ (t.proc p).traceBuf = none ∧
      (t.proc u).evq = (s.proc u).evq ++ [r] ∧ (∀ q, q ≠ p → q ≠ u → t.proc q = s.proc q) ∧
      (t.proc p).ctxs = (s.proc p).ctxs) ∧
  (∀ (d k : Nat) (s : State) (r : EvRec), (s.die d).evPend[k]? = some r →
    let u := coreUnit d r.core
    ((s.proc u).evq.length < 1024 →
      ∃ t, exec (.eventRecordPost d k) s = .next t ∧ OnlyUnitAndDie s t u d ∧
        t.proc u = { s.proc u with evq := (s.proc u).evq ++ [r.words] } ∧
        t.die d = { s.die d with evPend := (s.die d).evPend.eraseIdx k }) ∧
    (1024 ≤ (s.proc u).evq.length → exec (.eventRecordPost d k) s = .next s)) ∧
  (∀ (d : Nat) (s : State) (r : List Word) (rest : List (List Word)), (s.die d).faultPend = r :: rest →
    ((s.die d).mailbox.length < 256 →
      ∃ t m, exec (.faultRecord d) s = .next t ∧ OnlyDie s t d ∧
        t.die d = { s.die d with faultPend := rest, mailbox := (s.die d).mailbox ++ [m], mailSeq := (s.die d).mailSeq + 1 } ∧
        m.length = r.length ∧ ∀ j, j < r.length → m.getD j 0 =
          if j = 1 then r.getD 1 0 ||| BitVec.ofNat 64 ((s.die d).mailSeq % 2 ^ 16) else r.getD j 0) ∧
    (256 ≤ (s.die d).mailbox.length → exec (.faultRecord d) s = .next s)) ∧
  (∀ (e : Nat) (s : State) (w : Word) (rest : List Word), (s.proc e).elHeld = w :: rest → ElementOpen s e →
    (s.proc e).el.length < 4 →
    ∃ t, exec (.elEventPost e) s = .next t ∧ OnlyUnit s t e ∧
      t.proc e = { s.proc e with el := (s.proc e).el ++ [w], elHeld := rest })

/-- 02 R68-R71; 06 R204-R205, R207; 15 R398; 16 R421-R422: the faults that an issue meets before its effect. A word that fails
the decode check takes illegal-instruction (1), or illegal-in-mode (2) for reason 4; one that holds an uncorrectable error takes
INTEGRITY (21) (before ILLEGAL by the model's choice, log entry 82); a slot whose BRK bit is set takes BREAKPOINT (18) with
CAUSE 1; a PC past the end of a core's local memory takes BOUNDS (5) with the PC in OP0. The other operands of these records are the
model's reading (log entries 17 and 67). -/
def Obligations.IssueFaults : Prop :=
  ∀ s : State,
    (check false s.cur.word ≠ 0 → s.slotBad = true →
      ∃ t, exec .illegalSlotIssue s = .next t ∧ FaultTaken s s.curEnv .issue 21 0 s.curEnv.a s.curEnv.b t) ∧
    (check false s.cur.word ≠ 0 → s.slotBad = false →
      ∃ t, exec .illegalSlotIssue s = .next t ∧
        FaultTaken s s.curEnv .issue (if check false s.cur.word = 4 then 2 else 1) 0 s.curEnv.a s.curEnv.b t) ∧
    (∃ t, exec .brkSlotBit s = .next t ∧ FaultTaken s s.curEnv .brk 18 1 s.curEnv.a s.curEnv.b t) ∧
    (isCore s.cur.proc = true →
      let pc := (s.ctx s.cur.proc s.cur.ctx.toNat).pc
      (0x3FFF8 < pc.toNat →
        let s' : State := { s with cur := { s.cur with slot := pc.toNat % 2 ^ 18, word := 0 } }
        ∃ t, exec .coreFetchFault s = .next t ∧ FaultTaken s' s'.curEnv .fetch 5 0 (pc.zeroExtend 64) 0 t) ∧
      (pc.toNat ≤ 0x3FFF8 → check true s.cur.word ≠ 0 →
        ∃ t, exec .coreFetchFault s = .next t ∧
          FaultTaken s s.curEnv .issue (if check true s.cur.word = 4 then 2 else 1) 0 s.curEnv.a s.curEnv.b t))

/-- The history of errors of die `d` gained an entry of this class, severity and place; memory and the clusters' bytes are as
they were (19 R483). -/
def Logged (s t : State) (d cls sev wh : Nat) : Prop :=
  (t.die d).errs = (s.die d).errs + 1 ∧
    t.ctlReg d (1537 + 2 * ((s.die d).errs % 256)) =
      put 0x15 56 ||| put cls 53 ||| put sev 51 ||| put d 48 ||| put (wh % 2 ^ 48) 0 ∧
    ∀ a, t.mget a = s.mget a

/-- 06 R207; 09 R250; 19 R479, R483: a corrected error is logged and leaves all else; an uncorrectable one marks the slot, the
register or the scratchpad word it strikes; the error of a line of a stack marks its words, and that of a counter block its
block, which every line below it meets anew. The log's index and WHERE are the model's (log entry 16), as are the tree (log
entry 37) and what an error strikes (log entry 15). -/
def Obligations.ErrorEvents : Prop :=
  ∀ (s : State),
    (∀ (e n : Nat), e < 4096 → ∃ t, exec (.eccError (.slot e n) true) s = .next t ∧ Logged s t (dieOf e) 1 0 e ∧
      t.proc e = s.proc e ∧ t.clusters = s.clusters) ∧
    (∀ (e n : Nat), e < 4096 → ∃ t, exec (.eccError (.slot e n) false) s = .next t ∧ Logged s t (dieOf e) 1 1 e ∧
      ((t.proc e).slots.get Slot.reset n) = { (s.proc e).slots.get Slot.reset n with bad := true } ∧
      (∀ k, k ≠ n → (t.proc e).slots.get Slot.reset k = (s.proc e).slots.get Slot.reset k)) ∧
    (∀ (p c r : Nat), p < 4128 → ∃ t, exec (.eccError (.reg p c r) false) s = .next t ∧ Logged s t (dieOf p) 1 1 p ∧
      (t.proc p).badRegs = (s.proc p).badRegs ++ [16 * c + r]) ∧
    (∀ (n off : Nat), ∃ t, exec (.eccError (.scratch n off) false) s = .next t ∧ Logged s t (n / 32) 1 1 (n * 2 ^ 22 + off) ∧
      (t.cluster n).badWords = (s.cluster n).badWords ++ [off / 8 * 8]) ∧
    (∀ (d n : Nat), ∃ t, exec (.eccError (.line d n) false) s = .next t ∧ OnlyDie s t d ∧
      ∀ k, k ∈ (t.die d).poison ↔ (k ∈ (s.die d).poison ∨ k / 8 = n)) ∧
    (∀ (d n : Nat), ∃ t, exec (.eccError (.line d n) true) s = .next t ∧ Logged s t d 0 0 n) ∧
    (∀ (d n : Nat), ∃ t, exec (.eccError (.block d n) false) s = .next t ∧ OnlyDie s t d ∧
      (∀ b, b ∈ (t.die d).badBlk ↔ (b ∈ (s.die d).badBlk ∨ b = n)) ∧
      ∀ l, l ∈ (t.die d).met ↔ (l ∈ (s.die d).met ∧ n ∉ pathOf l))

/-! ### Control-page registers -/

/-- Request `r`, the `k`-th of control core `p`, is a store that may be performed now to register `n` of its die's control page
(15 R395); a release store awaits its context's earlier accesses first (07 R234). -/
def StoresTo (s : State) (p k : Nat) (r : Req) (n : Nat) : Prop :=
  isCore p = true ∧ (s.proc p).pending[k]? = some r ∧ aSlot r.a = 0 ∧ aOff r.a / 2 ^ 30 = 2 ∧ aOff r.a % 2 ^ 16 / 8 = n ∧
    (r.kind = .st ∨ r.kind = .stp ∨ (r.kind = .strel ∧ s.awaits p r.ctx r.rid r.mode false = false))

/-- Request `r` of unit `p` is gone, and its response words `ws` are sent (07 R223-R224); memory is as it was. -/
def Answered (s t : State) (p : Nat) (r : Req) (ws : List Word) : Prop :=
  (t.proc p).reqs = (s.proc p).reqs.filter (fun x => x.rid != r.rid) ∧
    (t.proc p).parked = (s.proc p).parked.filter (fun x => x.rid != r.rid) ∧
    (t.proc p).resps = (s.proc p).resps ++ (if r.resp = 0 then [] else [{ rid := r.rid, words := ws, tag := 0 }]) ∧
    ∀ a, t.mget a = s.mget a

/-- The register `n` of die `d` is `w` and the other registers of its control page are as they were. -/
def RegisterSet (s t : State) (d n : Nat) (w : Word) : Prop := t.ctlReg d n = w ∧ ∀ m, m ≠ n → t.ctlReg d m = s.ctlReg d m

/-- 15 R402-R403, 13 R369; 22 R514: JCTL creates a job with its phase 0 open, keeps PHASE and CLOSING, and is not cleared while
the job holds a region of the die; JKEYS is not written past the last key, over another job's keys, or while a key of the
job's range is not FREE; JTRUST without SECURE mode takes only 0. -/
def Obligations.JobRegisters : Prop :=
  ∀ (s : State) (p k n : Nat) (r : Req), StoresTo s p k r n → s.minimal = false → n < 1024 →
    let d := dieOf p
    let j := n / 4
    let old := s.ctlReg d n
    (n % 4 = 0 → old.getLsbD 0 = false → r.b.getLsbD 0 = true →
      ∃ t, exec (.jctlWrite p k) s = .next t ∧ Answered s t p r [0] ∧ RegisterSet s t d n ((r.b &&& 0x100006) ||| 1) ∧
        (t.counter d (cKey 4 0 j)).isOpen = true ∧ (t.counter d (cKey 3 j 0)).isOpen = true) ∧
    (n % 4 = 0 → old.getLsbD 0 = true → r.b.getLsbD 0 = true →
      ∃ t, exec (.jctlWrite p k) s = .next t ∧ Answered s t p r [0] ∧
        RegisterSet s t d n ((old &&& 0xFFFF8) ||| (r.b &&& 0x100006) ||| 1)) ∧
    (n % 4 = 0 → old.getLsbD 0 = true → r.b.getLsbD 0 = false → s.jobHolds d j = true →
      ∃ t, exec (.jctlWrite p k) s = .next t ∧ Answered s t p r [0] ∧ RegisterSet s t d n old) ∧
    (n % 4 = 1 →
      let bad := 4096 < fldN r.b 0 12 + fldN r.b 16 13 ∨
        (∃ i, i < 256 ∧ i ≠ j ∧ (s.ctlReg d (4 * i)).getLsbD 0 = true ∧ rangesMeet r.b (s.ctlReg d (4 * i + 1)) = true) ∨
        (∃ x ∈ (s.die d).keys, x.2.st ≠ .free ∧ s.keyInRange d j x.1 = true)
      (bad → ∃ t, exec (.jkeysWrite p k) s = .next t ∧ Answered s t p r [0] ∧ RegisterSet s t d n old) ∧
      (¬bad → ∃ t, exec (.jkeysWrite p k) s = .next t ∧ Answered s t p r [0] ∧ RegisterSet s t d n (r.b &&& 0x1FFF0FFF))) ∧
    (n % 4 = 3 →
      (fldN r.b 0 16 = 0 ∨ s.secureMode = true →
        ∃ t, exec (.jtrustWrite p k) s = .next t ∧ Answered s t p r [0] ∧ RegisterSet s t d n (r.b &&& 0xFFFF)) ∧
      (fldN r.b 0 16 ≠ 0 → s.secureMode = false →
        ∃ t, exec (.jtrustWrite p k) s = .next t ∧ Answered s t p r [0] ∧ RegisterSet s t d n old)) ∧
    (n % 4 = 2 →
      ∃ t, exec (.controlRegisterWrite p k) s = .next t ∧ Answered s t p r [0] ∧ RegisterSet s t d n r.b)

/-- 15 R410-R412; 24 R541-R542: a store of a POINT to an island begins its change, which ends when the island answers; a store
to a throttle sets its low 32 bits, as a write of the power controller does; SECURE, SNAPSHOT and DEBUG of MODE are written
only while no die holds a job; THROTTLE raises every island below it. -/
def Obligations.IslandAndModeRegisters : Prop :=
  (∀ (s : State) (p k n : Nat) (r : Req), StoresTo s p k r n → 1024 ≤ n → n < 1056 → s.reduced = false →
    s.throttleLevel = 0 → fldN r.b 0 3 ≤ 4 → fldN (s.ctlReg (dieOf p) n) 0 3 ≠ fldN r.b 0 3 →
    ∃ t, exec (.islandWrite p k) s = .next t ∧ Answered s t p r [0] ∧
      RegisterSet s t (dieOf p) n (BitVec.ofNat 64 (2 ^ 8 + fldN r.b 0 3)) ∧ (n - 1024) ∈ (t.die (dieOf p)).islandBusy) ∧
  (∀ (s : State) (n : Nat), n % 32 ∈ (s.die (n / 32)).islandBusy →
    ∃ t, exec (.islandChangeDone n) s = .next t ∧
      RegisterSet s t (n / 32) (1024 + n % 32) (s.ctlReg (n / 32) (1024 + n % 32) &&& 7) ∧
      n % 32 ∉ (t.die (n / 32)).islandBusy ∧ ∀ a, t.mget a = s.mget a) ∧
  (∀ (s : State) (p k n : Nat) (r : Req), StoresTo s p k r n → 1056 ≤ n → n ≤ 1072 →
    ∃ t, exec (.controlRegisterWrite p k) s = .next t ∧ Answered s t p r [0] ∧
      RegisterSet s t (dieOf p) n (r.b &&& 0xFFFFFFFF)) ∧
  (∀ (s : State) (d n : Nat) (w : Word), 1056 ≤ n → n ≤ 1072 →
    ∃ t, exec (.powerControllerWrite d n w) s = .next t ∧ OnlyDie s t d ∧ RegisterSet s t d n (w &&& 0xFFFFFFFF)) ∧
  (∀ (s : State) (p k : Nat) (r : Req), StoresTo s p k r 1080 →
    let written (i : Nat) (t : State) : Prop :=
      (∀ b, b < 64 → b ≠ i → (t.pkgReg 1080).getLsbD b = (s.pkgReg 1080).getLsbD b) ∧
        ((∀ d j, d < 8 → j < 256 → (s.ctlReg d (4 * j)).getLsbD 0 = false) → (t.pkgReg 1080).getLsbD i = r.b.getLsbD i) ∧
        ((∃ d j, d < 8 ∧ j < 256 ∧ (s.ctlReg d (4 * j)).getLsbD 0 = true) →
          (t.pkgReg 1080).getLsbD i = (s.pkgReg 1080).getLsbD i) ∧
        ∀ a, t.mget a = s.mget a
    (r.stage % 2 = 0 → ∃ t, exec (.modeSecureWrite p k) s = .next t ∧ written 0 t) ∧
    (r.stage / 2 % 2 = 0 → ∃ t, exec (.modeSnapshotWrite p k) s = .next t ∧ written 1 t) ∧
    (r.stage / 4 % 2 = 0 → ∃ t, exec (.modeDebugWrite p k) s = .next t ∧ written 2 t) ∧
    (r.stage / 8 % 2 = 0 → s.thermal = none → s.minimal = false →
      ∃ t, exec (.modeThrottleWrite p k) s = .next t ∧ fldN (t.pkgReg 1080) 4 2 = fldN r.b 4 2 ∧
        ∀ n, n < 256 → fldN (t.ctlReg (n / 32) (1024 + n % 32)) 0 3 =
          max (fldN (s.ctlReg (n / 32) (1024 + n % 32)) 0 3) (fldN r.b 4 2)))

/-! ### Upkeep, time and links -/

/-- Die `d` holds a new event record for its core `core`: a view of the time and three words (15 R399). -/
def Posted (s t : State) (d core : Nat) (w1 w2 w3 : Word) : Prop :=
  ∃ now, Viewed s (dieUnit d) now ∧
    (t.die d).evPend = (s.die d).evPend ++ [{ core := core, words := [now, w1, w2, w3] }]

/-- The scrubber finds a line of die `d` that its ECC reads or corrects: no counter block or line there is marked bad. -/
def SoundLine (s : State) (d line : Nat) : Prop :=
  (∀ b, lineBlock line = some b → b ∉ (s.die d).badBlk) ∧
    (lineBlock line = none → ∀ k ∈ (s.die d).poison, k / 8 ≠ line)

/-- 19 R477-R478, R481-R483: a re-encryption ends; a written-back counter block counts in the block above, which is verified
when it is fetched for it, and is lost when that fails; a write of a line waits while its block is re-encrypted; while EN is 1 and the
gate of its level lets it, the scrubber reads the next line, logs one it corrected, which waits to be written back, logs a
counter block it cannot read, and counts a pass at its end; the write due comes before the next read; its level is 0 on
schedule, 2 when more than 1/8 of the pass is missing, 1 when more than 1/16 is, and else no higher than before. The tree's
height and the place of its blocks are the model's (log entry 37), as are the queue's occupancy (log entry 89), the scrubber's
rising order, its corrections' SEV and class and their write as a step of its own (log entry 69), and the log's index (log
entry 16). -/
def Obligations.UpkeepEvents : Prop :=
  (∀ (s : State) (d blk : Nat), ∃ t, exec (.counterReencrypt d blk) s = .next t ∧ OnlyDie s t d ∧
    ∀ b, b ∈ (t.die d).wrapped ↔ (b ∈ (s.die d).wrapped ∧ b ≠ blk)) ∧
  (∀ (s : State) (d blk : Nat), blk ∈ (s.die d).dirtyBlk → (s.die d).cached.length + 7 ≤ cacheBlocks →
    let fetched (b : Nat) : Prop := b ∈ (blocksAbove blk).takeWhile fun b => !(s.die d).cached.contains b
    ((∀ b, fetched b → b ∉ (s.die d).badBlk) →
      ∃ t, exec (.counterWriteback d blk) s = .next t ∧ OnlyDie s t d ∧
      (∀ b, (t.die d).parent.get 0 b = if b = blk then (s.die d).parent.get 0 blk + 1 else (s.die d).parent.get 0 b) ∧
      ∀ b, b ∈ (t.die d).dirtyBlk ↔
        ((b ∈ (s.die d).dirtyBlk ∧ b ≠ blk) ∨ (blk / 2 ^ 32 < 7 ∧ b = (blk / 2 ^ 32 + 1) * 2 ^ 32 + blk % 2 ^ 32 / 8))) ∧
    ((∃ b, fetched b ∧ b ∈ (s.die d).badBlk) →
      ∃ t, exec (.counterWriteback d blk) s = .next t ∧ OnlyDie s t d ∧ (t.die d).parent = (s.die d).parent ∧
      (∀ b, b ∈ (t.die d).badBlk ↔ (b ∈ (s.die d).badBlk ∨ b = blk)) ∧
      ∀ b, b ∈ (t.die d).dirtyBlk ↔ (b ∈ (s.die d).dirtyBlk ∧ b ≠ blk))) ∧
  (∀ (s : State) (d : Nat) (flaw : Bool),
    let w := s.ctlReg d 1089
    ((s.ctlReg d 1088).getLsbD 0 = false → exec (.scrubRead d flaw) s = .next s) ∧
    ((s.ctlReg d 1088).getLsbD 0 = true → ∀ line, (s.die d).scrubW = some line → line < 1287314 * 1024 →
      line / 64 ∈ (s.die d).wrapped → exec (.scrubRead d flaw) s = .next s) ∧
    ((s.ctlReg d 1088).getLsbD 0 = true → ∀ line, (s.die d).scrubW = some line →
      (line < 1287314 * 1024 → line / 64 ∉ (s.die d).wrapped) →
      ∃ t, exec (.scrubRead d flaw) s = .next t ∧ OnlyDie s t d ∧ (t.die d).scrubW = none ∧ t.ctlReg d 1089 = w ∧
        (line < 1287314 * 1024 → (s.die d).badPath line = none →
          (t.die d).minor.get 0 line = if 127 ≤ (s.die d).minor.get 0 line then 0 else (s.die d).minor.get 0 line + 1)) ∧
    ((s.ctlReg d 1088).getLsbD 0 = true → (s.die d).scrubW = none → s.scrubMay d = false →
      exec (.scrubRead d flaw) s = .next s) ∧
    ((s.ctlReg d 1088).getLsbD 0 = true → (s.die d).scrubW = none → s.scrubMay d = true → fldN w 32 32 + 1 < 1342177280 →
      ∃ t, exec (.scrubRead d flaw) s = .next t ∧ fldN (t.ctlReg d 1089) 32 32 = fldN w 32 32 + 1 ∧
        fldN (t.ctlReg d 1089) 16 2 = fldN w 16 2 ∧ fldN (t.ctlReg d 1089) 0 16 = fldN w 0 16 ∧ (t.die d).scrubAt = s.cycle ∧
        (SoundLine s d (fldN w 32 32) →
          (flaw = true → (t.die d).scrubW = some (fldN w 32 32) ∧
            Logged s t d (if (lineBlock (fldN w 32 32)).isSome then 2 else 0) 0 (fldN w 32 32)) ∧
          (flaw = false → OnlyDie s t d)) ∧
        (∀ b, lineBlock (fldN w 32 32) = some b → b ∈ (s.die d).badBlk → flaw = false →
          Logged s t d 2 1 (fldN w 32 32))) ∧
    ((s.ctlReg d 1088).getLsbD 0 = true → (s.die d).scrubW = none → s.scrubMay d = true → fldN w 32 32 + 1 = 1342177280 →
      ∃ t, exec (.scrubRead d flaw) s = .next t ∧ fldN (t.ctlReg d 1089) 32 32 = 0 ∧
        fldN (t.ctlReg d 1089) 16 2 = fldN w 16 2 ∧ fldN (t.ctlReg d 1089) 0 16 = (fldN w 0 16 + 1) % 2 ^ 16 ∧
        (t.die d).scrubStart = s.cycle)) ∧
  (∀ (s : State) (d : Nat),
    let w := s.ctlReg d 1089
    let done := fldN w 32 32
    let total := 1342177280
    let gone := s.cycle - (s.die d).scrubStart
    let period := max 1 (fldN (s.ctlReg d 1088) 48 16) * 5400000000000
    ∃ t, exec (.scrubLevel d) s = .next t ∧ OnlyDie s t d ∧ fldN (t.ctlReg d 1089) 32 32 = done ∧
      fldN (t.ctlReg d 1089) 0 16 = fldN w 0 16 ∧
      fldN (t.ctlReg d 1089) 16 2 =
        if gone * total ≤ done * period then 0
        else if total * period < 8 * (gone * total - done * period) then 2
        else if total * period < 16 * (gone * total - done * period) then 1
        else min (fldN w 16 2) 1)

/-- LOCK of TIMESTAT became `l` and nothing else of the register changed; a change is posted with cause 0 (19 R485). -/
def LockBecomes (s t : State) (l : Nat) : Prop :=
  (∀ a, t.mget a = s.mget a) ∧ t.tai = s.tai ∧
    (s.lock = l → t = s) ∧
    (s.lock ≠ l → fldN (t.pkgReg 1091) 0 2 = l ∧ fldN (t.pkgReg 1091) 32 32 = fldN (s.pkgReg 1091) 32 32 ∧
      Posted s t 0 0 (put 0x16 56 ||| put l 48) 0 ((fld (s.pkgReg 1091) 32 32 : BitVec 32).signExtend 64))

/-- 19 R484-R485: the time unit is acquiring (1) or locked (2) to a master, holds over (3) when it is lost, and the other port
die's unit takes over without a step; a correction is slewed at 3000 parts, or stepped when it moves the counter forward by
1 µs or more. OFFSET's sign is the model's reading (log entry 38). -/
def Obligations.TimeEvents : Prop :=
  (∀ (s : State) (link : Nat) (locked : Bool), ∃ t, exec (.ptpMessage link locked) s = .next t ∧
    LockBecomes s t (if locked then 2 else 1)) ∧
  (∀ s : State, s.lock ≠ 0 → ∃ t, exec .lockHoldover s = .next t ∧ LockBecomes s t 3) ∧
  (∀ s : State, exec .timeFailover s = .next { s with time := { s.time with active := 1 } }) ∧
  (∀ (s : State) (offset : Int) (lock : Nat), ∃ t, exec (.timeCorrection offset lock) s = .next t ∧
    fldN (t.pkgReg 1091) 0 2 = lock % 4 ∧
    (fld (t.pkgReg 1091) 32 32 : BitVec 32).toInt = max (-(2 ^ 31)) (min offset (2 ^ 31 - 1)) ∧
    (-1000 < offset → t.tai = s.tai ∧ t.time.slew = -3000 * offset) ∧
    (offset ≤ -1000 → t.tai = s.tai + BitVec.ofInt 64 (-offset) ∧ t.time.slew = 0) ∧ ∀ a, t.mget a = s.mget a)

/-- The links by which a waiting packet may leave: of the route of its destination, those that carry packets, and on the escape
channel the escape link alone (22 R511, R532). -/
def MayLeave (s : State) (x : OutPkt) (l : Nat) : Prop :=
  let w := s.pkgReg (2304 + x.pkt.dst % 256)
  w.getLsbD 20 = true ∧ l < 16 ∧ 2 ≤ fldN (s.pkgReg (1112 + l)) 0 2 ∧
    (if x.pkt.escape then fldN w 16 4 = l else w.getLsbD l = true)

/-- A waiting packet stands in the queue of a link that carries packets (22 R511). -/
def Queued (s : State) (x : OutPkt) (l : Nat) : Prop := x.link = some l ∧ l < 16 ∧ 2 ≤ fldN (s.pkgReg (1112 + l)) 0 2

/-- A waiting packet has yet to choose a link, or its link carries packets no more (22 R511). -/
def Unqueued (s : State) (x : OutPkt) : Prop :=
  x.link = none ∨ ∃ l, x.link = some l ∧ l < 16 ∧ fldN (s.pkgReg (1112 + l)) 0 2 < 2

/-- Of the links by which a packet may leave, the one with the fewest packets in its queue, the lower number on a tie
(22 R511). -/
def BestLink (s : State) (x : OutPkt) (l : Nat) : Prop :=
  let load (m : Nat) : Nat := s.fabric.outq.countP fun y => y.link == some m
  MayLeave s x l ∧ ∀ m, MayLeave s x m → load l < load m ∨ (load l = load m ∧ l ≤ m)

/-- A packet may leave this package: stage 6 is complete, and a packet of its own needs a valid NODEID (22 R513; 24 R537). -/
def GoesOut (s : State) (k : Packet) : Prop := 6 < (s.pkgReg 1082).toNat ∧ (s.nodeValid = true ∨ k.src ≠ s.nodeId)

/-- 22 R510-R511, R513, R532-R533; 24 R537: no packet leaves before stage 6 is complete, nor one of this node while its NODEID is
not valid; a replayed flit is counted and logged with class 4; a link's new state and peer stand in LINKSTAT
and a change is posted; a packet enters the queue of the best link of its route and leaves as the first of that queue, and
one that no link can take is held and reported once; after 256 cycles it moves to the escape channel. Whose history a link's
errors enter and the queue a packet waits in are the model's choice (log entries 40 and 76), as is the log's index (log
entry 16). -/
def Obligations.LinkEvents : Prop :=
  (∀ (s : State) (link : Nat), link < 16 → fldN (s.pkgReg (1112 + link)) 0 2 ≠ 0 →
    ∃ t, exec (.flitReplay link) s = .next t ∧ Logged s t 0 4 0 link ∧
      fldN (t.pkgReg (1112 + link)) 32 32 = min (fldN (s.pkgReg (1112 + link)) 32 32 + 1) (2 ^ 32 - 1) ∧
      fldN (t.pkgReg (1112 + link)) 0 32 = fldN (s.pkgReg (1112 + link)) 0 32) ∧
  (∀ (s : State) (link st peer : Nat), link < 16 → st < 4 → peer < 256 →
    ∃ t, exec (.linkStateChange link st peer) s = .next t ∧ (∀ a, t.mget a = s.mget a) ∧
      fldN (t.pkgReg (1112 + link)) 0 2 = st ∧ fldN (t.pkgReg (1112 + link)) 16 8 = peer ∧
      fldN (t.pkgReg (1112 + link)) 32 32 = fldN (s.pkgReg (1112 + link)) 32 32 ∧
      (fldN (s.pkgReg (1112 + link)) 0 2 ≠ st →
        Posted s t 0 0 (put 0x18 56 ||| put link 48 ||| put st 40 ||| put peer 24) 0 0)) ∧
  (∀ (s : State) (k link : Nat) (x : OutPkt), s.fabric.outq[k]? = some x → ¬GoesOut s x.pkt →
    exec (.packetRoute k link) s = .next s) ∧
  (∀ (s : State) (k link : Nat) (x : OutPkt), s.fabric.outq[k]? = some x → GoesOut s x.pkt →
    (Unqueued s x → BestLink s x link → exec (.packetRoute k link) s =
      .next { s with fabric := { s.fabric with outq := s.fabric.outq.set k { x with link := some link } } }) ∧
    (Queued s x link → (∀ y ∈ s.fabric.outq.take k, ¬Queued s y link) →
      exec (.packetRoute k link) s = .next { s with fabric := { s.fabric with outq := s.fabric.outq.eraseIdx k } }) ∧
    (Unqueued s x → (∀ l, ¬MayLeave s x l) → x.posted = false →
      ∃ t, exec (.packetRoute k link) s = .next t ∧ t.fabric.outq = s.fabric.outq.set k { x with posted := true } ∧
        Posted s t 0 0 (put 0x18 56 ||| put 1 32 ||| put (x.pkt.dst % 256) 24) 0 0) ∧
    (Unqueued s x → (∀ l, ¬MayLeave s x l) → x.posted = true → exec (.packetRoute k link) s = .next s)) ∧
  (∀ (s : State) (k : Nat) (x : OutPkt), s.fabric.outq[k]? = some x →
    (x.pkt.escape = false → x.since + 256 ≤ s.cycle → exec (.escapeTimeout k) s =
      (let y : OutPkt := { x with pkt := { x.pkt with escape := true }, link := none }
       .next { s with fabric := { s.fabric with outq := s.fabric.outq.set k y } })) ∧
    (x.pkt.escape = true ∨ s.cycle < x.since + 256 → exec (.escapeTimeout k) s = .next s))

/-! ### Start, heat and the management mailbox -/

/-- BOOTCAUSE's fields (24 R540). -/
def BootCause (t : State) (fails stage reason : Nat) : Prop :=
  fldN (t.pkgReg 1081) 56 8 = fails ∧ fldN (t.pkgReg 1081) 48 8 = stage ∧ fldN (t.pkgReg 1081) 40 8 = reason

/-- A failed start (24 R538-R540): FAILS counts it, BOOTCAUSE names the stage and the reason, and a new start begins, or after
the third the machine is in minimal mode, at the stage that failed. -/
def StartFailed (s t : State) (reason : Nat) : Prop :=
  let n := min 3 (fldN (s.pkgReg 1081) 56 8 + 1)
  BootCause t n s.bootStage reason ∧
    (n < 3 → t.pkgReg 1082 = 1 ∧ t.minimal = false) ∧ (n = 3 → t.pkgReg 1082 = s.pkgReg 1082 ∧ t.minimal = true)

/-- 24 R536-R540, R545; 15 R392: a cold start passes through its stages in order; stage 2 loads the firmware into the local
memory of every core, starts core 0 of each die and measures it; dies fail in stages 3 and 4, and with none left the start
fails; a stage fails for the reason that is its own; stage 6 ends once the time unit has locked; stage 7 ends in service with
FAILS 0 and REDUCED clear; a stage past its limit, counted in cycles of 1.5 GHz, fails the start but in stages 3, 4 and 6, of
which stage 4 fails it with no die left. That BOOTS counts a start at the end of stage 1, and what a return of power does,
are the model's readings (log entries 70 and 30). -/
def Obligations.StartStages : Prop :=
  (∀ (s : State) (res : StageResult), s.powered = false → fldN (s.pkgReg 1081) 56 8 ≠ 3 →
    exec (.coldStart res) s = .next { s with powered := true }) ∧
  (∀ (s : State) (mask : BitVec 8) (fw : List Word) (locked : Bool), s.powered = true → s.minimal = false →
    let go (P : State → Prop) : Prop := ∃ t, exec (.coldStart (.done mask fw locked)) s = .next t ∧ P t
    let enters (n : Nat) (t : State) : Prop := t.pkgReg 1082 = BitVec.ofNat 64 n ∧ t.stageStart = s.cycle
    (s.pkgReg 1082 = 1 → go fun t => enters 2 t ∧ t.firmware = fw ∧
      fldN (t.pkgReg 1081) 0 32 = min (fldN (s.pkgReg 1081) 0 32 + 1) (2 ^ 32 - 1) ∧
      fldN (t.pkgReg 1081) 32 32 = fldN (s.pkgReg 1081) 32 32) ∧
    (s.pkgReg 1082 = 2 → go fun t => enters 3 t ∧ t.measured = s.firmware ∧ ∀ d, d < 8 →
      (t.ctx (4096 + 4 * d) 0).rstate = .run ∧ (t.ctx (4096 + 4 * d) 0).pc = 0 ∧ (t.ctx (4096 + 4 * d) 0).ctxjob = 0 ∧
      ∀ c off, c < 4 → off < 8 * s.firmware.length → off < 2 ^ 18 →
        t.mget (localKey (4096 + 4 * d + c) off) = (s.firmware.getD (off / 8) 0).extractLsb' (8 * (off % 8)) 8) ∧
    (s.pkgReg 1082 = 3 → go fun t => enters 4 t ∧ ∀ d, d < 8 →
      (t.die d).failed = (mask.getLsbD d || (s.die d).failed)) ∧
    (s.pkgReg 1082 = 4 → (∃ d, d < 8 ∧ mask.getLsbD d = false ∧ (s.die d).failed = false) → go fun t => enters 5 t ∧
      ∀ d, d < 8 → (t.die d).failed = (mask.getLsbD d || (s.die d).failed) ∧
        ((t.die d).failed = false → ∀ c, c < 32 → t.ctlReg d (1024 + c) = BitVec.ofNat 64 (max 2 (fldN (s.pkgReg 1080) 4 2)))) ∧
    (s.pkgReg 1082 = 4 → (∀ d, d < 8 → mask.getLsbD d = true ∨ (s.die d).failed = true) → go fun t => StartFailed s t 3) ∧
    (s.pkgReg 1082 = 5 → go fun t => enters 6 t) ∧
    (s.pkgReg 1082 = 6 → locked = true → go fun t => enters 7 t ∧ fldN (t.pkgReg 1091) 0 2 = 2) ∧
    (s.pkgReg 1082 = 6 → locked = false → exec (.coldStart (.done mask fw locked)) s = .next s) ∧
    (s.pkgReg 1082 = 7 → go fun t => enters 8 t ∧ fldN (t.pkgReg 1081) 56 8 = 0 ∧ t.reduced = false ∧ t.mbox.status = 1)) ∧
  (∀ (s : State) (reason : BitVec 8), s.powered = true → s.minimal = false → fldN (s.pkgReg 1081) 56 8 ≤ 3 →
    let fails := (s.bootStage, reason.toNat) ∈ [(1, 1), (2, 2), (5, 4), (7, 5)]
    (fails → ∃ t, exec (.coldStart (.failed reason)) s = .next t ∧ StartFailed s t reason.toNat) ∧
    (¬fails → exec (.coldStart (.failed reason)) s = .next s)) ∧
  (∀ (s : State) (mask : BitVec 8), s.minimal = false →
    let limit := (match s.bootStage with | 1 => 5 | 2 => 2 | 3 => 30 | 4 => 20 | 5 => 10 | 6 => 120 | _ => 60) * 1500000000
    s.bootStage ≤ 7 →
    (s.cycle < s.stageStart + limit → exec (.stageTimeout mask) s = .next s) ∧
    (s.stageStart + limit ≤ s.cycle →
      (s.bootStage ∈ [1, 2, 5, 7] → ∃ t, exec (.stageTimeout mask) s = .next t ∧ StartFailed s t 6) ∧
      (s.bootStage = 3 → ∃ t, exec (.stageTimeout mask) s = .next t ∧ t.pkgReg 1082 = 4 ∧
        ∀ d, d < 8 → (t.die d).failed = (mask.getLsbD d || (s.die d).failed)) ∧
      (s.bootStage = 4 → (∃ d, d < 8 ∧ mask.getLsbD d = false ∧ (s.die d).failed = false) →
        ∃ t, exec (.stageTimeout mask) s = .next t ∧ t.pkgReg 1082 = 5 ∧
          ∀ d, d < 8 → (t.die d).failed = (mask.getLsbD d || (s.die d).failed)) ∧
      (s.bootStage = 4 → (∀ d, d < 8 → mask.getLsbD d = true ∨ (s.die d).failed = true) →
        ∃ t, exec (.stageTimeout mask) s = .next t ∧ StartFailed s t 6) ∧
      (s.bootStage = 6 → ∃ t, exec (.stageTimeout mask) s = .next t ∧ t.pkgReg 1082 = 7 ∧ fldN (t.pkgReg 1091) 0 2 = 1)))

/-- The command in progress ended with `status`, the words `ws` stand at the start of the payload, MSI-X vector 0 was raised, and
nothing else changed (24 R545). -/
def MboxEnds (s t : State) (status : Word) (ws : List Word) : Prop :=
  t = { s with mbox := t.mbox } ∧ t.mbox.command = s.mbox.command ∧ t.mbox.status = status ∧
    t.mbox.raised = s.mbox.raised + 1 ∧
    ∀ k, t.mbox.payload.get 0 k = if k < ws.length then ws.getD k 0 else s.mbox.payload.get 0 k

/-- 24 R544-R545, 22 R525: POWERSTAT shows the heat; at 105 °C THROTTLE is forced to 3, below 95 °C restored, at 115 °C power
goes; a command of the management mailbox sets its status to 0 and ends with its status and payload, and MSI-X vector 0 is
raised; one written while another runs is ignored; RESTART begins a cold start, CLEARFAIL acts in minimal mode only, MEASURE
gives the measurement of what stage 2 measured, and an unassigned command is refused with 2. That a command other than NOP
begins and ends in two steps is the model's (log entry 113), as is the measurement's value (log entry 11). -/
def Obligations.HeatAndMailbox : Prop :=
  (∀ (s : State) (celsius watts : Nat), celsius < 256 → watts < 65536 →
    (celsius < 95 → s.thermal = none → exec (.thermalEvent celsius watts) s =
      .next (s.setPkgReg 1083 (BitVec.ofNat 64 (watts * 2 ^ 16 + celsius)))) ∧
    (celsius < 95 → ∀ l, s.thermal = some l → ∃ t, exec (.thermalEvent celsius watts) s = .next t ∧ t.thermal = none ∧
      fldN (t.pkgReg 1080) 4 2 = l.toNat ∧ t.pkgReg 1083 = BitVec.ofNat 64 (watts * 2 ^ 16 + celsius)) ∧
    (95 ≤ celsius → celsius < 105 → exec (.thermalEvent celsius watts) s =
      .next (s.setPkgReg 1083 (BitVec.ofNat 64 (watts * 2 ^ 16 + celsius)))) ∧
    (105 ≤ celsius → celsius < 115 → s.thermal = none → ∃ t, exec (.thermalEvent celsius watts) s = .next t ∧
      t.thermal.map BitVec.toNat = some (fldN (s.pkgReg 1080) 4 2) ∧ fldN (t.pkgReg 1080) 4 2 = 3) ∧
    (115 ≤ celsius → ∃ t, exec (.thermalEvent celsius watts) s = .next t ∧ t.powered = false)) ∧
  (∀ (s : State) (x : Instr × Word), s.mbox.status ≠ 0 →
    x ∈ ([(.mboxReadboot, 1), (.mboxRestart, 2), (.mboxClearfail, 3), (.mboxMeasure, 4)] : List (Instr × Word)) ∨
      (∃ code : Word, 5 ≤ code.toNat ∧ x = (.mboxRefused code, code)) →
    exec x.1 s = .next { s with mbox := { s.mbox with command := x.2, status := 0 } }) ∧
  (∀ s : State, s.mbox.status ≠ 0 → ∃ t, exec .mboxNop s = .next t ∧
    MboxEnds { s with mbox := { s.mbox with command := 0 } } t 1 []) ∧
  (∀ (s : State) (x : Instr × Word), s.mbox.status = 0 → s.mbox.command ≠ x.2 →
    x ∈ ([(.mboxReadboot, 1), (.mboxRestart, 2), (.mboxClearfail, 3), (.mboxMeasure, 4)] : List (Instr × Word)) ∨
      (∃ code : Word, x = (.mboxRefused code, code)) → exec x.1 s = .next s) ∧
  (∀ s : State, s.mbox.status = 0 → exec .mboxNop s = .next s) ∧
  ∀ s : State, s.mbox.status = 0 →
    (s.mbox.command = 1 → ∃ t, exec .mboxReadboot s = .next t ∧
      MboxEnds s t 1 [s.pkgReg 1081, s.pkgReg 1082, s.pkgReg 1080, s.pkgReg 1083]) ∧
    (s.mbox.command = 2 → ∃ t, exec .mboxRestart s = .next t ∧ t.pkgReg 1082 = 1 ∧ t.minimal = false ∧
      t.mbox.status = 1 ∧ t.mbox.raised = s.mbox.raised + 1 ∧
      fldN (t.pkgReg 1081) 32 32 = fldN (s.pkgReg 1081) 32 32 ∧
      fldN (t.pkgReg 1081) 0 32 = (if s.pkgReg 1082 = 1 ∧ s.minimal = false then min (fldN (s.pkgReg 1081) 0 32 + 1) (2 ^ 32 - 1)
        else fldN (s.pkgReg 1081) 0 32) ∧
      ∀ d j, j < 256 → (t.ctlReg d (4 * j)).getLsbD 0 = false) ∧
    (s.mbox.command = 3 → s.minimal = false → ∃ t, exec .mboxClearfail s = .next t ∧ MboxEnds s t 2 []) ∧
    (s.mbox.command = 3 → s.minimal = true → ∃ t, exec .mboxClearfail s = .next t ∧
      MboxEnds (s.setPkgReg 1081 (t.pkgReg 1081)) t 1 [] ∧ fldN (t.pkgReg 1081) 56 8 = 0 ∧
      fldN (t.pkgReg 1081) 0 56 = fldN (s.pkgReg 1081) 0 56) ∧
    (s.mbox.command = 4 → ∃ t, exec .mboxMeasure s = .next t ∧
      MboxEnds s t 1 ((List.range 8).map (Config.measurement s.measured))) ∧
    (5 ≤ s.mbox.command.toNat → ∃ t, exec (.mboxRefused s.mbox.command) s = .next t ∧ MboxEnds s t 2 [])

/-! ### Residency and the store -/

/-- Only the leaf entry of `page` changed, to `l`; memory is as it was. -/
def LeafSet (s t : State) (page : Nat) (l : Leaf) : Prop :=
  t.leaf page = l ∧ (∀ g, g ≠ page → t.leaf g = s.leaf g) ∧ ∀ a, t.mget a = s.mget a

/-- 19 R458, R460-R467, R480: a candidate of the lowest class of its stack is evicted to its store page, in class 2 the one at
the clock's hand, and nothing else is; a verified promotion puts a page whose promotion is pending into a free frame of the stack of the die whose miss set PIN, none
of whose counter blocks is being re-encrypted; one that
fails verification is retried once and then given up; a plan's next page enters a free frame while no demand miss waits.
Contents never change. The clock is the model's (log entry 91). -/
def Obligations.ResidencyEvents : Prop :=
  (∀ (s : State) (page : Nat),
    let l := s.leaf page
    (l.v = true → l.tier = 0 → l.dur = true → l.pin = false → s.pageBusy page = false → s.cutTargets page = false →
      (∀ e ∈ s.leaves, e.2.frame / 2 ^ 21 = l.frame / 2 ^ 21 → s.candidate e.1 = true →
        s.victimClass page ≤ s.victimClass e.1) →
      (s.victimClass page = 2 → s.clockVictim (l.frame / 2 ^ 21) = some page) →
      ∃ t, exec (.evictPage page) s = .next t ∧
        LeafSet s t page { l with tier := 2, frame := (s.obj (pageSerial page)).pages.getD (pageIndex page) 0 }) ∧
    (l.v = false ∨ l.tier ≠ 0 ∨ l.dur = false ∨ l.pin = true ∨ s.pageBusy page = true ∨ s.cutTargets page = true →
      exec (.evictPage page) s = .next s)) ∧
  (∀ (s : State) (page die frame : Nat),
    let l := s.leaf page
    l.v = true → l.tier = 2 → l.pin = true → l.pinDie = die → s.frameFree die frame = true →
    (∀ b ∈ (s.die (frame / 2 ^ 21)).wrapped, b / 16 ≠ frame % 2 ^ 21) →
    (∃ t, exec (.promote page die frame true) s = .next t ∧
      LeafSet s t page { l with tier := 0, frame := frame, pin := false, pinJob := none }) ∧
    (page ∉ s.store.failedOnce → exec (.promote page die frame false) s =
      .next { s with store := { s.store with failedOnce := s.store.failedOnce ++ [page] } }) ∧
    (page ∈ s.store.failedOnce →
      ∃ t, exec (.promote page die frame false) s = .next t ∧ t.leaf page = { l with pin := false, pinJob := none })) ∧
  (∀ (s : State) (page die frame : Nat) (v : Bool),
    (s.leaf page).v = false ∨ (s.leaf page).tier ≠ 2 ∨ (s.leaf page).pin = false ∨ (s.leaf page).pinDie ≠ die ∨
      (s.frameFree die frame = true ∧ ∃ b ∈ (s.die (frame / 2 ^ 21)).wrapped, b / 16 = frame % 2 ^ 21) →
    exec (.promote page die frame v) s = .next s) ∧
  (∀ (s : State) (n page die frame : Nat) (x : Plan), s.plans.get none n = some x → s.planNext x = some page →
    (∀ e ∈ s.leaves, e.2.v = true → e.2.tier = 2 → e.2.pin = false) → s.frameFree die frame = true →
    (∀ b ∈ (s.die (frame / 2 ^ 21)).wrapped, b / 16 ≠ frame % 2 ^ 21) →
    ∃ t y, exec (.planPrefetch n page die frame) s = .next t ∧ (t.leaf page).tier = 0 ∧ (t.leaf page).frame = frame ∧
      (t.leaf page).pin = false ∧ (∀ g, g ≠ page → t.leaf g = s.leaf g ∨
        ((s.leaf page).v = false ∧ (s.leaf g).tier = 2 ∧ (s.leaf g).pin = false ∧ t.leaf g = Leaf.reset)) ∧
      (∀ a, t.mget a = s.mget a) ∧
      t.plans.get none n = some y ∧ y.got = x.got ++ [page] ∧ y.entries = x.entries ∧ y.step = x.step)

/-- The record of an object or a store that stopped or resumed appending (19 R472, R475). -/
def AppendRecord (s t : State) (cause n : Nat) : Prop :=
  Posted s t 0 0 (put 0x17 56 ||| put cause 48 ||| put (min s.store.waiting.length (2 ^ 32 - 1)) 0) (put s.store.free 0) (put n 0)

/-- 19 R471-R475, R480: the first waiting object is appended page by page, each at the next append position, while the staging
buffer takes it, and becomes DURABLE, its pages' DUR first, once all of it lies in the log with enough hold-up energy;
appending stops with a record when the log cannot take the next object and resumes with one when it can; the buffer drains;
compaction of a full segment with dead pages rewrites its live pages elsewhere and frees the dead ones; low hold-up energy
is reported once; a store mounted read-only, in reduced service and in minimal mode, is not written (24 R537, R539). A loss of
power keeps what is DURABLE of this node's objects and no other object's bytes. Sizes in whole store pages and the segments
are the model's (log entry 36), as are the page that is taken (log entry 55), and what else a loss of power leaves: memory that
reads as zero and units at reset (log entries 5 and 30). -/
def Obligations.StoreEvents : Prop :=
  (∀ (s : State) (n : Nat) (rest : List Nat), s.reduced = false → s.minimal = false →
    s.store.waiting = n :: rest → (∀ m ∈ s.store.waiting, (s.obj m).st = .sealed) → s.store.stopped = false →
    let x := s.store
    let o := s.obj n
    let need := logBytes o.size - 65536 * o.pages.length
    let g := x.spare.headD x.top
    let x' : Store := { x with
      spare := x.spare.tail, top := if x.spare = [] then x.top + 1 else x.top, pos := x.pos.set 0 g x.nextPos
      nextPos := x.nextPos + 1024, staging := x.staging + 65536, free := x.free - 65536 }
    let marked (t : State) : Prop := ∀ p, (s.leaf p).v = true → p / 2 ^ 40 = (wideNum s.nodeId n 0) / 2 ^ 56 → (t.leaf p).dur = true
    (need ≤ x.free → need = 0 → 100 ≤ x.holdup ∨ x.staging = 0 →
      ∃ t, exec .durableAppend s = .next t ∧ t.obj n = { o with st := .durable, stored := true } ∧ marked t ∧
        t.store = { x with waiting := rest } ∧ ∀ a, t.mget a = s.mget a) ∧
    (need ≤ x.free → 0 < need → need ≤ 65536 → x.staging + 65536 ≤ 2 ^ 31 → 100 ≤ x.holdup →
      ∃ t, exec .durableAppend s = .next t ∧ t.obj n = { o with st := .durable, stored := true, pages := o.pages ++ [g] } ∧
        marked t ∧ t.store = { x' with waiting := rest } ∧ ∀ a, t.mget a = s.mget a) ∧
    (need ≤ x.free → 65536 < need → x.staging + 65536 ≤ 2 ^ 31 →
      exec .durableAppend s = .next { s.setObj n { o with pages := o.pages ++ [g] } with store := x' }) ∧
    (need ≤ x.free → 0 < need → 2 ^ 31 < x.staging + 65536 → exec .durableAppend s = .next s) ∧
    (x.free < need →
      ∃ t, exec .durableAppend s = .next t ∧ t.store = { x with stopped := true } ∧ t.objs = s.objs ∧ AppendRecord s t 0 n)) ∧
  (∀ (s : State) (i : Instr), s.reduced = true ∨ s.minimal = true →
    (i = .durableAppend ∨ (∃ bytes, i = .stagingBufferWriteback bytes) ∨ ∃ seg, i = .compaction seg) → exec i s = .next s) ∧
  (∀ (s : State) (bytes : Nat), s.reduced = false → s.minimal = false → s.store.waiting = [] →
    exec (.stagingBufferWriteback bytes) s =
      .next { s with store := { s.store with staging := s.store.staging - bytes } }) ∧
  (∀ (s : State) (seg : Nat), s.reduced = false → s.minimal = false →
    let dead := s.store.dead.filter (inSegment seg)
    let live := s.objs.flatMap fun e => e.2.pages.filter (inSegment seg)
    (s.store.waiting = [] → s.store.stopped = false → dead ≠ [] → (seg + 1) * max 1 Config.segmentPages ≤ s.store.top →
      65536 * live.length ≤ s.store.free →
      ∃ t, exec (.compaction seg) s = .next t ∧ (∀ a, t.mget a = s.mget a) ∧
        t.store.free = s.store.free + 65536 * dead.length ∧ (∀ g ∈ t.store.dead, inSegment seg g = false) ∧
        ∀ n, t.obj n = { s.obj n with pages := (t.obj n).pages } ∧ (t.obj n).pages.length = (s.obj n).pages.length ∧
          (∀ g ∈ (t.obj n).pages, inSegment seg g = false) ∧
          ∀ i, inSegment seg ((s.obj n).pages.getD i 0) = false → i < (s.obj n).pages.length →
            (t.obj n).pages.getD i 0 = (s.obj n).pages.getD i 0) ∧
    (s.store.waiting = [] → s.store.stopped = false →
      dead = [] ∨ s.store.top < (seg + 1) * max 1 Config.segmentPages ∨ s.store.free < 65536 * live.length →
      exec (.compaction seg) s = .next s) ∧
    (∀ n rest, s.store.waiting = n :: rest → (∀ m ∈ s.store.waiting, (s.obj m).st = .sealed) → s.store.stopped = true →
      dead = [] → logBytes (s.obj n).size - 65536 * (s.obj n).pages.length ≤ s.store.free →
      ∃ t, exec (.compaction seg) s = .next t ∧ t.store = { s.store with stopped := false } ∧ AppendRecord s t 1 n)) ∧
  (∀ (s : State) (pct : Nat), pct < 100 →
    ∃ t, exec (.holdupLow pct) s = .next t ∧ t.store = { s.store with holdup := pct, lowPosted := true } ∧
      (s.store.lowPosted = true → (t.die 0).evPend = (s.die 0).evPend) ∧
      (s.store.lowPosted = false →
        Posted s t 0 0 (put 0x17 56 ||| put 2 48 ||| put pct 0) (put s.store.staging 0) 0)) ∧
  (∀ (s : State) (pct : Nat), 100 ≤ pct →
    exec (.holdupRegained pct) s = .next { s with store := { s.store with holdup := 100, lowPosted := false } }) ∧
  (∀ s : State, ∃ t, exec .powerLoss s = .next t ∧ t.powered = false ∧ t.store.staging = 0 ∧
    (∀ w, wnNode w = s.nodeId → (s.obj (wnSerial w)).st = .durable → t.mget (wideKey w) = s.mget (wideKey w)) ∧
    (∀ w, wnNode w ≠ s.nodeId ∨ (s.obj (wnSerial w)).st ≠ .durable → t.mget (wideKey w) = 0) ∧
    ∀ p, t.proc p = Proc.reset)

/-! ### The domain -/

/-- Memory is as it was. -/
abbrev SameBytes (s t : State) : Prop := ∀ a, t.mget a = s.mget a

/-- The command of APCMD ended with a result, and a record of type 0x1A is posted (22 R518, R533). -/
def ApEnds (s t : State) (result : Nat) : Prop :=
  t.pkgReg 1128 = (s.pkgReg 1128 &&& 0xFF0F) ||| put result 4 ∧
    Posted s t 0 0 (put 0x1A 56 ||| put result 48 ||| put (fldN (s.pkgReg 1128) 0 4) 40) (s.pkgReg 1129) (s.pkgReg 1130)

/-- APCMD runs operation `op` (22 R532). -/
abbrev ApRuns (s : State) (op : Nat) : Prop := (s.pkgReg 1128).getLsbD 63 = true ∧ fldN (s.pkgReg 1128) 0 4 = op

/-- The result code of a home's refusal (22 R518). -/
def refusal : HomeReply → Nat
  | .agreed => 0
  | .notPeer => 1
  | .refused => 2
  | .notOpen => 3
  | .quota => 4

/-- The home of `page` agrees to what `node` asks for: the page is its own and its object OPEN, the job's DTAG is the page's,
and bit `b` of APPOL allows it (22 R518). -/
def HomeAgrees (s : State) (node page : Nat) (dtag : BitVec 16) (b : Nat) : Prop :=
  s.ownNode (pageNode page) = true ∧ (s.leaf page).v = true ∧ s.isMember node = true ∧
    (s.obj (pageSerial page)).st = .opened ∧ (s.leaf page).w = true ∧ dtag ≠ 0 ∧ s.pageTag page = dtag ∧
    (s.pkgReg 1131).getLsbD b = true

/-- The packet `k` stands last among those waiting for a link (22 R511). -/
def Sent (s t : State) (k : Packet) : Prop :=
  t.fabric.outq = s.fabric.outq ++ [{ pkt := k, since := s.cycle, posted := false, link := none }]

/-- 22 R513, R518, R532: NODE of NODEID is written unless the store fixes another, and V only while the node is alone; a grant
or a revocation sets or clears RAP of a peer page, and the home of the page answers a grant by its check; a migration brings
the page and its bytes here, and leaves its home once no access that reached it waits there, a page that has left it already
being answered as no peer page; an unassigned command, a page that is no peer page and a refusal end with their code. The form
of a home's answer is the model's (log entry 93), as are NODEID written in every STATE before a serial is issued (log entry 74)
and a migration in one step with its bytes as an argument of the event (log entry 73). -/
def Obligations.PeerPageCommands : Prop :=
  (∀ (s : State) (p k : Nat) (r : Req), StoresTo s p k r 1104 →
    (∀ m, s.store.node = some m → m ≠ fldN r.b 0 8 →
      ∃ t, exec (.nodeidWrite p k) s = .next t ∧ Answered s t p r [0] ∧ t.pkgReg 1104 = s.pkgReg 1104) ∧
    ((∀ m, s.store.node = some m → m = fldN r.b 0 8) →
      ∃ t, exec (.nodeidWrite p k) s = .next t ∧ Answered s t p r [0] ∧ t.nodeId = fldN r.b 0 8 ∧
        t.nodeValid = if s.domState = 0 then r.b.getLsbD 8 else s.nodeValid)) ∧
  (∀ (s : State) (reply : HomeReply), ApRuns s 0 →
    ∃ t, exec (.apcmdGrant (.requester reply)) s = .next t ∧
      (s.peerPage s.apPage = false → ApEnds s t 1 ∧ t.leaves = s.leaves) ∧
      (s.peerPage s.apPage = true → ApEnds s t (refusal reply)) ∧
      (s.peerPage s.apPage = true → reply = .agreed → LeafSet s t s.apPage { s.leaf s.apPage with rap := true }) ∧
      (reply ≠ .agreed → t.leaves = s.leaves)) ∧
  (∀ (s : State) (node page : Nat) (dtag : BitVec 16), s.mayPacket node = true →
    ∃ t q, exec (.apcmdGrant (.home node page dtag)) s = .next t ∧ t.leaves = s.leaves ∧ (∀ a, t.mget a = s.mget a) ∧
      Sent s t q ∧ q.dst = node ∧ q.ptype = 9 ∧ (q.payload = [0] ↔ HomeAgrees s node page dtag 0)) ∧
  (∀ (s : State) (node page : Nat) (dtag : BitVec 16), s.mayPacket node = false →
    exec (.apcmdGrant (.home node page dtag)) s = .next s) ∧
  (∀ (s : State), ApRuns s 2 →
    ∃ t, exec .apcmdRevoke s = .next t ∧
      (s.peerPage s.apPage = false → ApEnds s t 1 ∧ t.leaves = s.leaves) ∧
      (s.peerPage s.apPage = true → ApEnds s t 0 ∧ LeafSet s t s.apPage { s.leaf s.apPage with rap := false })) ∧
  (∀ (s : State), (s.pkgReg 1128).getLsbD 63 = true → 3 ≤ fldN (s.pkgReg 1128) 0 4 →
    ∃ t, exec .apcmdReserved s = .next t ∧ ApEnds s t 1 ∧ t.leaves = s.leaves) ∧
  (∀ (s : State) (data : List Word) (frame : Nat), ApRuns s 1 → frame / 2 ^ 21 < 8 →
    s.frameFree (frame / 2 ^ 21) frame = true → (∀ b ∈ (s.die (frame / 2 ^ 21)).wrapped, b / 16 ≠ frame % 2 ^ 21) →
    s.peerPage s.apPage = true →
    let d := frame / 2 ^ 21
    let job := fldN (s.pkgReg 1128) 8 8
    s.quotaUsed d job < (s.ctlReg d (4 * job + 2)).toNat →
    ∃ t, exec (.apcmdMigrate (.requester .agreed data frame)) s = .next t ∧ ApEnds s t 0 ∧
      (t.leaf s.apPage).tier = 0 ∧ (t.leaf s.apPage).frame = frame ∧ (t.leaf s.apPage).job = job ∧
      (t.leaf s.apPage).w = true ∧ (∀ g, g ≠ s.apPage → t.leaf g = s.leaf g) ∧
      (∀ i, i < 65536 → t.mget (wideKey (s.apPage * 65536 + i)) =
        (data.getD (i / 8) 0).extractLsb' (8 * (i % 8)) 8) ∧
      (∀ a, a < wideKey (s.apPage * 65536) ∨ wideKey (s.apPage * 65536) + 65536 ≤ a → t.mget a = s.mget a)) ∧
  (∀ (s : State) (node page : Nat) (dtag : BitVec 16), HomeAgrees s node page dtag 1 → (s.leaf page).tier = 0 →
    node ≠ s.nodeId → s.accessWaits page = false →
    ∃ t, exec (.apcmdMigrate (.home node page dtag)) s = .next t ∧ (t.leaf page).tier = 1 ∧ (t.leaf page).apnode = node ∧
      (∀ g, g ≠ page → t.leaf g = s.leaf g) ∧
      (∀ a, a < wideKey (page * 65536) ∨ wideKey (page * 65536) + 65536 ≤ a → t.mget a = s.mget a)) ∧
  (∀ (s : State) (node page : Nat) (dtag : BitVec 16), HomeAgrees s node page dtag 1 → (s.leaf page).tier = 0 →
    node ≠ s.nodeId → s.accessWaits page = true → exec (.apcmdMigrate (.home node page dtag)) s = .next s) ∧
  (∀ (s : State) (node page : Nat) (dtag : BitVec 16), HomeAgrees s node page dtag 1 →
    (s.leaf page).tier ≠ 0 ∨ node = s.nodeId → s.mayPacket node = true →
    ∃ t q, exec (.apcmdMigrate (.home node page dtag)) s = .next t ∧ t.leaves = s.leaves ∧ (∀ a, t.mget a = s.mget a) ∧
      Sent s t q ∧ q.dst = node ∧ q.ptype = 9 ∧ q.payload = [1])

/-- 22 R524-R525, R530-R532: a member drains for a re-key of the next epoch and a joiner for one of its domain's epoch, ends its
collectives and rejoins them anew; a drained member switches to the new epoch, members and leader with sequence numbers that
begin again; a re-key given up leaves the node as it was, also when it had switched before its leader gave up, and its leader
waits at least REKEYTO; a joiner is accepted only when its digest is allowed, and one that is not ends the REKEY that awaits it
with 5. The state an aborted re-key returns to is the model's reading (log entry 107), as is the epoch in a session record (log
entry 72), and the nodes' messages are arguments of events (log entry 41). -/
def Obligations.RekeyEvents : Prop :=
  (∀ (s : State) (epoch leader members : Nat), s.nodeValid = true →
    (epoch = s.epoch + 1 ∨ (s.domState = 1 ∧ s.epoch < epoch)) → leader < 256 → leader ≠ s.nodeId →
    members < 2 ^ 256 → s.fabric.rekey = none → s.fabric.opening = none →
    ∃ t x, exec (.rekeyDrain epoch leader members) s = .next t ∧ t.domState = 3 ∧ t.fabric.rekey = some x ∧
      x.epoch = epoch ∧ x.leader = leader ∧ x.members = members ∧ x.leads = false ∧ x.stage = 0 ∧ x.began = s.tai ∧ x.was = s.domState ∧
      t.fabric.coll = [] ∧ ∀ a, t.mget a = s.mget a) ∧
  (∀ (s : State) (epoch leader members : Nat),
    s.nodeValid = false ∨ (epoch ≠ s.epoch + 1 ∧ (s.domState ≠ 1 ∨ epoch ≤ s.epoch)) ∨ leader % 256 = s.nodeId →
    exec (.rekeyDrain epoch leader members) s = .next s) ∧
  (∀ (s : State) (x : Rekey), s.fabric.rekey = some x → x.leads = false → s.allAcked = true →
    x.members.testBit s.nodeId = true → x.epoch < 2 ^ 32 → x.leader < 256 → x.members < 2 ^ 256 → s.fabric.heldIn = [] →
    ∃ t, exec (.rekeySwitch x.epoch) s = .next t ∧ t.epoch = x.epoch ∧ t.leader = x.leader ∧ t.domState = 2 ∧
      (∀ n, n < 256 → t.isMember n = x.members.testBit n) ∧ (∀ n, t.peer n = Peer.reset) ∧ t.fabric.rekey = none ∧
      t.fabric.undo = some { rekey := x, stat := s.pkgReg 1105, members := (List.range 4).map fun i => s.pkgReg (1108 + i),
                             peers := s.fabric.peers } ∧
      Posted s t 0 0 (put 0x1B 56 ||| put 1 48) (put x.epoch 0) (put (nodesOf x.members).length 0)) ∧
  (∀ (s : State) (x : Rekey), s.fabric.rekey = some x → s.fabric.opening = none →
    (x.leads = true → s.tai.toNat < x.began.toNat + s.rekeyTime → exec .rekeyTimeout s = .next s) ∧
    (x.leads = false → x.was < 4 → s.fabric.heldIn = [] →
      ∃ t, exec .rekeyTimeout s = .next t ∧ t.fabric.rekey = none ∧ t.epoch = s.epoch ∧
        t.domState = x.was ∧
        Posted s t 0 0 (put 0x1B 56 ||| put 2 48) (put x.epoch 0) (put (nodesOf x.members).length 0))) ∧
  (∀ (s : State) (u : Undo), s.fabric.rekey = none → s.fabric.opening = none → s.fabric.undo = some u →
    u.members.length = 4 → u.rekey.was < 4 →
    ∃ t, exec .rekeyTimeout s = .next t ∧ t.fabric.undo = none ∧ t.epoch = fldN u.stat 32 32 ∧ t.domState = u.rekey.was ∧
      (∀ n, n < 256 → t.isMember n = (u.members.getD (n / 64) 0).getLsbD (n % 64)) ∧ SameBytes s t) ∧
  (∀ (s : State) (u : Undo), s.fabric.undo = some u →
    exec (.spdmMessage s.leader .switched) s = .next { s with fabric := { s.fabric with undo := none } }) ∧
  (∀ (s : State) (node : Nat) (digest : List Word) (x : Rekey) (r : Req), node < 256 → s.fabric.opening = some x →
    s.allowed digest = false → x.members.testBit node = true → s.isMember node = false → x.leads = true →
    s.pendingReq x.proc x.rid = some r → r.rid = x.rid → s.fabric.rekey = none →
    ∃ t, exec (.spdmMessage node (.joinDigest digest)) s = .next t ∧ t.fabric.opening = none ∧
      Answered s t x.proc r [put 5 56]) ∧
  (∀ (s : State) (node : Nat) (digest : List Word), node < 256 → s.leads = true → s.fabric.opening = none →
    ∃ t, exec (.spdmMessage node (.joinDigest digest)) s = .next t ∧
      (s.allowed digest = true → node ∈ t.fabric.sessions ∧ node ∈ t.fabric.accepted) ∧
      (s.allowed digest = false → t.fabric = s.fabric) ∧
      Posted s t 0 0 (put 0x19 56 ||| put (if s.allowed digest then 3 else 2) 48 ||| put node 40)
        (put (s.epoch % 2 ^ 16) 0) 0) ∧
  (∀ (s : State) (node : Nat), ∃ t, exec (.spdmMessage node .endSession) s = .next t ∧
    node ∉ t.fabric.sessions ∧ node ∉ t.fabric.accepted ∧ ∀ a, t.mget a = s.mget a) ∧
  (∀ (s : State) (node : Nat), node = s.leader → s.domState ≠ 0 →
    ∃ t, exec (.spdmMessage node (.heartbeat true)) s = .next t ∧ t.fabric.silentSince = none)

/-- A peer's request of `len` bytes that names `page`, one that has passed translation or not, reaches the bytes at `w` of this
node's memory now: they are in HBM, and nothing there waits (07 R218; 22 R514, R515, R517). -/
structure HomeReaches (s : State) (k : Packet) (page : Nat) (flying : Bool) (w len : Nat) (acc : Acc) : Prop where
  address : w = pageNode page * 2 ^ 120 + k.addr % 2 ^ 120
  object : s.ownNode (pageNode page) = true → s.objectFault (pageSerial page) (wnOff w + len) acc flying = none
  resident : (s.leaf page).tier = 0 ∧
    ∀ g ∈ pagesOf w len, (s.leaf g).v = true ∧ (s.leaf g).tier = 0 ∧ (acc ≠ .load → (s.leaf g).w = true)
  known : s.ownNode (pageNode page) = false → s.foreignFault w (wnOff w + len) acc flying = none
  sound : s.hbmBusy w len = false ∧ (¬(acc = .store ∧ len = 64 ∧ w % 64 = 0) → s.hbmBad w len = false) ∧
    s.pendingUnits (wideKey w) len = []

/-- The bytes at `w` that a peer's request `k` of `len` bytes accesses as it comes, under its DTAG (22 R514). -/
structure AtHome (s : State) (k : Packet) (w len : Nat) (acc : Acc) : Prop where
  tag : k.dtag ≠ 0 ∧ s.pageTag (s.pageFor k) = k.dtag
  reaches : HomeReaches s k (s.pageFor k) false w len acc

/-- The answer `q` to `k`: its kind, its length and its words, under the sequence number it answers (22 R509, R512). -/
def Answers (s t : State) (k : Packet) (ty len : Nat) (words : List Word) : Prop :=
  ∃ q : Packet, Sent s t q ∧ q.dst = k.src ∧ q.ptype = ty ∧ q.addr = k.seq ∧ q.len = len ∧ q.payload = words

/-- A request of a member that this package accepts is performed at its home and answered: a read by a response with its bytes,
a write by an acknowledgement once its bytes are written, an atomic or a compare-and-swap by a response with the old word,
an object query by the object's word, and a collective or a management packet by an acknowledgement. A read or write that is
performed in several parts waits after its first. Its sequence number counts as received (22 R509, R512, R515, R517, R527,
R547; 20 R490). -/
def PacketPerformed (s : State) (k : Packet) : Prop :=
  k.dst = s.nodeId → s.fabric.rekey = none → s.nodeValid = true → s.isMember k.src = true →
    k.epoch = s.epoch % 2 ^ 16 → (s.peer k.src).high < k.seq →
    let performed (P : State → Prop) : Prop := ∃ t, exec (.packetReceive k true) s = .next t ∧ t.leaves = s.leaves ∧
      (t.peer k.src).high = k.seq ∧ k.seq ∈ (t.peer k.src).got ∧ P t
    let waits (w : Nat) (x : Word) (t : State) : Prop := t.fabric.outq = s.fabric.outq ∧
      t.fabric.homeq = s.fabric.homeq ++ [{ pkt := k, flying := true, page := s.pageFor k, data := [x] }] ∧
      (k.ptype = 0 → x = wordOf (s.mread (wideKey w) (homeGran w k.len)))
    (k.ptype = 0 → ∀ w, AtHome s k w k.len .load → homeGran w k.len < k.len →
      ∃ x, performed fun t => SameBytes s t ∧ waits w x t) ∧
    (k.ptype = 1 ∨ k.ptype = 2 → ∀ w, AtHome s k w k.len .store → homeGran w k.len < k.len → k.len ≤ 64 →
      k.payload.length = (k.len + 7) / 8 →
      ∃ x, performed fun t => waits w x t ∧
        (∀ i, i < homeGran w k.len → t.mget (wideKey w + i) = (k.payload.getD (i / 8) 0).extractLsb' (8 * (i % 8)) 8) ∧
        ∀ a, a < wideKey w ∨ wideKey w + homeGran w k.len ≤ a → t.mget a = s.mget a) ∧
    (k.ptype = 0 → ∀ w, AtHome s k w k.len .load → k.len ≤ homeGran w k.len →
      performed fun t => SameBytes s t ∧ Answers s t k 5 k.len (wordsOfBytes (s.mread (wideKey w) k.len))) ∧
    (k.ptype = 1 ∨ k.ptype = 2 → ∀ w, AtHome s k w k.len .store → 0 < k.len → k.len ≤ homeGran w k.len →
      k.payload.length = (k.len + 7) / 8 →
      performed fun t => Answers s t k 6 0 [] ∧
        (∀ i, i < k.len → t.mget (wideKey w + i) = (k.payload.getD (i / 8) 0).extractLsb' (8 * (i % 8)) 8) ∧
        ∀ a, a < wideKey w ∨ wideKey w + k.len ≤ a → t.mget a = s.mget a) ∧
    (k.ptype = 3 → ∀ w, AtHome s k w (atomLen k.op) .atomic → w % atomLen k.op = 0 →
      performed fun t => Answers s t k 5 8 [(s.atomAt (wideKey w) k.op (k.payload.getD 0 0)).1] ∧
        ∀ a, t.mget a = (s.atomAt (wideKey w) k.op (k.payload.getD 0 0)).2.mget a) ∧
    (k.ptype = 4 → ∀ w, AtHome s k w 8 .atomic → w % 8 = 0 →
      performed fun t => Answers s t k 5 8 [s.mword (wideKey w)] ∧
        (s.mword (wideKey w) ≠ k.payload.getD 0 0 → SameBytes s t) ∧
        (s.mword (wideKey w) = k.payload.getD 0 0 → t.mword (wideKey w) = k.payload.getD 1 0 ∧
          ∀ a, a < wideKey w ∨ wideKey w + 8 ≤ a → t.mget a = s.mget a)) ∧
    (k.ptype = 8 ∨ k.ptype = 9 → performed fun t => SameBytes s t ∧ Answers s t k 6 0 []) ∧
    (k.ptype = 10 → k.op = 0 →
      let o := s.obj (k.addr / 2 ^ 56 % 2 ^ 64)
      o.st ≠ .unissued → k.dtag ≠ 0 → s.dtag o.die o.job = k.dtag →
      performed fun t => SameBytes s t ∧ Answers s t k 5 8 [objWord o])

/-- 22 R509, R511-R512, R515, R517, R527-R528, R547: a packet for another node goes on; one that does not verify, of another
epoch or from no member, or with a sequence number received before, changes no memory and no residency, is reported, and a
request of it is rejected with INTEGRITY (21) or SEQUENCE (22); an answer ends the request it answers, and a reject holds it
as a path fault, but a first one of these two codes sends it again; what a home answers of an object lets the access that asked
go on, or holds it with PAGE_MISS (6) when it was never issued (log entry 90). A reject of a query that answers 5 rests on log
entry 77, the LEN of a read's answer on log entry 52, and the page that an address names on log entry 39. A request of a member that this package accepts is performed at its home and answered: a read by a response
with its bytes, a write by an acknowledgement once its bytes are written, an atomic or a compare-and-swap by a response with
the old word, an object query by the object's word, and a collective or a management packet by an acknowledgement. -/
def Obligations.PacketEvents : Prop :=
  (∀ (s : State) (k : Packet), PacketPerformed s k) ∧
  (∀ (s : State) (k : Packet) (auth : Bool), k.dst ≠ s.nodeId →
    (isRequest k = true → ∃ t, exec (.packetReceive k auth) s = .next t ∧ Sent s t k ∧ ∀ a, t.mget a = s.mget a) ∧
    (k.ptype = 5 ∨ k.ptype = 6 → s.fabric.rekey = none →
      ∃ t, exec (.ackReceive k auth) s = .next t ∧ Sent s t k ∧ ∀ a, t.mget a = s.mget a) ∧
    (k.ptype = 7 → s.fabric.rekey = none →
      ∃ t, exec (.rejectReceive k auth) s = .next t ∧ Sent s t k ∧ ∀ a, t.mget a = s.mget a)) ∧
  (∀ (s : State) (k : Packet) (auth : Bool), k.dst = s.nodeId → isRequest k = true → s.fabric.rekey = none →
    s.nodeValid = true →
    let refused (t : State) (cause code : Nat) : Prop :=
      (∀ a, t.mget a = s.mget a) ∧ t.leaves = s.leaves ∧ t.objs = s.objs ∧
        Posted s t 0 0 (put 0x19 56 ||| put cause 48 ||| put (k.src % 256) 40) (put k.epoch 0) (put k.seq 0) ∧
        ∃ q : Packet, Sent s t q ∧ q.dst = k.src ∧ q.ptype = 7 ∧ q.addr = k.seq + code * 2 ^ 64
    (auth = false ∨ s.isMember k.src = false ∨ k.epoch ≠ s.epoch % 2 ^ 16 →
      ∃ t, exec (.packetReceive k auth) s = .next t ∧ refused t 0 21) ∧
    (auth = true → s.isMember k.src = true → k.epoch = s.epoch % 2 ^ 16 →
      k.seq ≤ (s.peer k.src).high → (k.seq ∈ (s.peer k.src).got ∨ k.seq + 1024 ≤ (s.peer k.src).high) →
      ∃ t, exec (.packetReceive k auth) s = .next t ∧ refused t 1 22)) ∧
  (∀ (s : State) (k : Packet) (p : Nat) (r : Req), k.dst = s.nodeId → s.fabric.rekey = none → s.nodeValid = true →
    s.isMember k.src = true → k.epoch = s.epoch % 2 ^ 16 → (s.peer k.src).high < k.seq →
    s.forwarded k.src (k.addr % 2 ^ 64) = none → s.requester k.src (k.addr % 2 ^ 64) = some (p, r.rid) → p < 4128 →
    s.pendingReq p r.rid = some r →
    (k.ptype = 5 → r.stage = 4 → fldN (k.payload.getD 0 0) 0 3 ≠ 5 →
      ∃ t, exec (.ackReceive k true) s = .next t ∧ t.pendingReq p r.rid = some { r with stage := 0 } ∧ SameBytes s t) ∧
    (k.ptype = 5 → r.stage = 4 → fldN (k.payload.getD 0 0) 0 3 = 5 →
      ∃ t x, exec (.ackReceive k true) s = .next t ∧ x ∈ (t.proc p).held ∧ x.rid = r.rid ∧ x.code = 6 ∧
        (t.ctx p r.ctx).rstate = (s.ctx p r.ctx).rstate.faulted ∧ SameBytes s t) ∧
    (k.ptype = 5 → r.stage ≠ 4 → (r.kind = .ld ∨ r.kind = .ldacq ∨ r.kind = .ldw) →
      ∃ t, exec (.ackReceive k true) s = .next t ∧ Answered s t p r [loadVal r (k.payload.getD 0 0)]) ∧
    (k.ptype = 6 → r.stage ≠ 4 → (r.kind = .st ∨ r.kind = .stp ∨ r.kind = .strel ∨ r.kind = .stw) →
      ∃ t, exec (.ackReceive k true) s = .next t ∧ Answered s t p r [0]) ∧
    (k.ptype = 7 → r.kind = .objq → ((k.addr / 2 ^ 64 % 256 ≠ 21 ∧ k.addr / 2 ^ 64 % 256 ≠ 22) ∨ r.resent = true) →
      (∃ q, (s.peer k.src).unacked.find? (fun q => q.seq == k.addr % 2 ^ 64) = some q) →
      ∃ t, exec (.rejectReceive k true) s = .next t ∧ Answered s t p r [5]) ∧
    (k.ptype = 7 → r.kind ≠ .objq → r.kind ≠ .mark → r.kind ≠ .save → r.kind ≠ .resume →
      (∃ q, (s.peer k.src).unacked.find? (fun q => q.seq == k.addr % 2 ^ 64) = some q) →
      let code := k.addr / 2 ^ 64 % 256
      (code ≠ 21 ∧ code ≠ 22) ∨ r.resent = true →
      ∃ t x, exec (.rejectReceive k true) s = .next t ∧ x ∈ (t.proc p).held ∧ x.rid = r.rid ∧ x.code = code ∧
        (t.ctx p r.ctx).rstate = (s.ctx p r.ctx).rstate.faulted ∧
        ∀ a, t.mget a = s.mget a) ∧
    (k.ptype = 7 → r.resent = false → k.addr / 2 ^ 64 % 256 = 21 ∨ k.addr / 2 ^ 64 % 256 = 22 → ∀ q,
      (s.peer k.src).unacked.find? (fun q => q.seq == k.addr % 2 ^ 64) = some q →
      ∃ t y, exec (.rejectReceive k true) s = .next t ∧ t.pendingReq p r.rid = some { r with resent := true } ∧ SameBytes s t ∧
        Sent s t y ∧ y.dst = q.dst ∧ y.ptype = q.ptype ∧ y.op = q.op ∧ y.len = q.len ∧ y.addr = q.addr ∧ y.dtag = q.dtag ∧
        y.payload = q.payload))

/-- No other node is of group `g`, or this package exchanges packets with them (22 R519, R530; 24 R537, R541). -/
def CollMay (s : State) (g : Nat) : Prop :=
  (∀ n, n < 256 → n ≠ s.nodeId → s.inGroup g n = false) ∨
    (s.domState ≠ 3 ∧ 6 < (s.pkgReg 1082).toNat ∧ s.secureMode = true)

/-- 22 R519-R522: once every node of the group has contributed, the oldest whole instance ends, and every contributor here that
still waits is answered with the result and the status: status 0 and the sum, nothing for a barrier, or status 1 when the
operations differ; a package without other nodes of its group needs none. The result of an integer reduction does not depend on
the order of the contributions. The contributions of other nodes, and their CPN, are an argument of the event (log
entry 71). -/
def Obligations.Collectives : Prop :=
  (∀ (s : State) (g : Nat) (x : CollInst) (remote : List Contribution),
    (s.fabric.coll.get [] g).find? (fun x => x.got.length == s.cpn g) = some x →
    (∀ n, n < 256 → n ≠ s.nodeId → s.inGroup g n = true → ∃ c ∈ remote, c.node = n) →
    (∀ c ∈ remote, c.node < 256 ∧ c.node ≠ s.nodeId ∧ s.inGroup g c.node = true) → CollMay s g →
    let v := collResult (x.got ++ remote)
    ∃ t, exec (.collComplete g remote) s = .next t ∧ SameBytes s t ∧
      (∀ y ∈ t.fabric.coll.get [] g, y.n ≠ x.n) ∧
      ∀ p r, (p, r.rid) ∈ x.answer → x.answer.Nodup → s.pendingReq p r.rid = some r →
        t.pendingReq p r.rid = none ∧
          (r.resp ≠ 0 → { rid := r.rid, words := [v.1, v.2], tag := 0 } ∈ (t.proc p).resps)) ∧
  (∀ (s : State) (g p : Nat) (r : Req) (c : Contribution) (x : CollInst) (remote : List Contribution),
    (s.fabric.coll.get [] g).find? (fun x => x.got.length == s.cpn g) = some x → x.answer = [(p, r.rid)] →
    s.pendingReq p r.rid = some r →
    (∀ n, n < 256 → n ≠ s.nodeId → s.inGroup g n = true → ∃ c ∈ remote, c.node = n) →
    (∀ c ∈ remote, c.node < 256 ∧ c.node ≠ s.nodeId ∧ s.inGroup g c.node = true) → CollMay s g →
    c ∈ x.got → x.got.head? = some c →
    ∃ t v st, exec (.collComplete g remote) s = .next t ∧ Answered s t p r [v, st] ∧
      ((∃ y ∈ x.got ++ remote, y.op ≠ c.op) → v = 0 ∧ st = 1) ∧
      ((∀ y ∈ x.got ++ remote, y.op = c.op) → c.op = 7 → v = 0 ∧ st = 0) ∧
      ((∀ y ∈ x.got ++ remote, y.op = c.op) → c.op = 3 → st = 0 ∧
        fldN v 0 32 = ((x.got ++ remote).map fun y => fldN y.val 0 32).sum % 2 ^ 32 ∧
        fldN v 32 32 = ((x.got ++ remote).map fun y => fldN y.val 32 32).sum % 2 ^ 32)) ∧
  (∀ (op : Nat) (xs ys : List Nat), 3 ≤ op → op ≤ 5 → List.Perm xs ys → (∀ a ∈ xs, a < 2 ^ 32) →
    collLane op xs = collLane op ys)

/-! ### Copies, cuts and engines -/

/-- Copy `id` has become `c`; every other copy, and memory, is as it was. -/
def CopyBecomes (s t : State) (id : Nat) (c : Copy) : Prop :=
  t.copy id = some c ∧ (∀ k, k ≠ id → t.copy k = s.copy k) ∧ SameBytes s t

/-- The throttle `reg` of bucket `idx` admits an item now (15 R412). -/
def Admits (s : State) (d idx reg : Nat) : Prop :=
  fldN (s.ctlReg d reg) 0 16 = 0 ∨ 1024 ≤ (s.die d).bucket.get bucketReset idx

/-- Copy `c` is live and neither stopped nor held, holds no record, has a position left, and its region lets it begin one
(09 R268, R275, R277; 15 R399, R418; 16 R432). -/
def MayBegin (s : State) (id : Nat) (c : Copy) : Prop :=
  c.status = 0 ∧ c.stopping = none ∧ (∀ q ∈ c.reqs, q.isHeld = false) ∧ s.copyStalled id = false ∧ c.next < c.total ∧
    ∀ R, s.copyRegion c = some R → R.st ≠ .frozen ∧ R.cut = none

/-- Position `n` is one for a counter to fire: every ring word of it is counted, or for CNTV every far word it is made of is
complete at SCOPE (09 R272, R273). -/
def Whole (c : Copy) (visible : Bool) (n : Nat) : Prop :=
  ∃ y ∈ c.active, y.p = n ∧
    if visible then y.vis.length = c.due (n + 1) - c.farLow n else y.done.length = c.words

/-- 09 R268, R271, R273-R274, R277; 10 R298-R300: a copy begins a position with its notice, or with its frames' tags, which turn
FILLING or DRAINING; a counter fires the oldest whole position or ends its route with a marker, and an unbound one counts tokens
and fires after WORDS; a copy ends with its status, its report and its count, one that SCANCEL stops in a cut too (16 R432), and
one whose subgraph broke its ratio only so (09 R265); a coalescer issues the line it waited with. That a bound counter fires
whatever EN is rests on log entry 53, and what a copy's entry keeps on log entry 84. -/
def Obligations.CopyEvents : Prop :=
  (∀ (s : State) (d k : Nat) (c : Copy), k < 128 → s.copy (128 * d + k) = some c →
    MayBegin s (128 * d + k) c →
    let c' : Copy :=
      { c with next := c.next + 1, active := c.active ++ [{ p := c.next, done := [], vis := [], fired := false, firedV := false }] }
    (c.tile = false → c.notices.getLsbD (c.next % c.slots) = true →
      (∀ y ∈ c.active, y.p % c.slots = c.next % c.slots → y.done.length = c.words) →
      ∃ t, exec (.copyPositionBegin d k) s = .next t ∧ CopyBecomes s t (128 * d + k) c') ∧
    (c.tile = true →
      (∀ f ∈ c.slotFrames c.next, (s.cluster (c.ring / 2 ^ 22)).tile f = if c.isStore then 2 else 0) →
      ∃ t, exec (.copyPositionBegin d k) s = .next t ∧ CopyBecomes s t (128 * d + k) c' ∧
        ∀ f, f ≠ 1023 → (t.cluster (c.ring / 2 ^ 22)).tile f =
          if f ∈ c.slotFrames c.next then (if c.isStore then 3 else 1) else (s.cluster (c.ring / 2 ^ 22)).tile f)) ∧
  (∀ (s : State) (d k : Nat) (c : Copy), s.copy (128 * d + k) = some c →
    c.status ≠ 0 ∨ c.stopping.isSome = true ∨ (∃ q ∈ c.reqs, q.isHeld = true) ∨ s.copyStalled (128 * d + k) = true ∨
      c.total ≤ c.next ∨ (∃ R, s.copyRegion c = some R ∧ (R.st = .frozen ∨ R.cut ≠ none)) →
    exec (.copyPositionBegin d k) s = .next s) ∧
  (∀ (s : State) (cl j id : Nat) (c : Copy), (s.cnt cl j).copy = some id → s.copy id = some c →
    (s.opOut cl (cntOp j) 0).length < 2 → s.opRecorded cl (cntOp j) = false → bitOf (s.cnt cl j).ctrl 2 = false →
    let v := (s.cnt cl j).visible
    let n := if v then c.firedV else c.fired
    (Whole c v n → ∃ t c', exec (.counterFire cl j) s = .next t ∧
      t.opOut cl (cntOp j) 0 = s.opOut cl (cntOp j) 0 ++
        [.tok (dataTok 0 (put (id % 1024) 48 ||| put (n % 2 ^ 32) 16 ||| put (if n + 1 = c.total then 1 else 0) 8 |||
          put (n % c.slots % 256) 0))] ∧
      t.copy id = some c' ∧ (if v then c'.firedV else c'.fired) = n + 1 ∧ SameBytes s t) ∧
    (¬ Whole c v n → n = c.total ∨ (c.stopping.isSome = true ∧ c.reqs = []) → ∃ t, exec (.counterFire cl j) s = .next t ∧
      t.opOut cl (cntOp j) 0 = enqueue (s.opOut cl (cntOp j) 0) (endTok (if n = c.total then 3 else 7)) ∧
      (t.cnt cl j).copy = none ∧ SameBytes s t) ∧
    (¬ Whole c v n → n ≠ c.total → c.stopping = none ∨ c.reqs ≠ [] → exec (.counterFire cl j) s = .next s)) ∧
  (∀ (s : State) (cl j : Nat), (s.cnt cl j).copy = none → bitOf (s.cnt cl j).ctrl 0 = true → s.opLive cl (cntOp j) = true →
    let x := s.cnt cl j
    let words := max 1 x.words.toNat
    (∀ t0, x.count < words → frontOf (s.inAt (.oper cl (cntOp j) 0)).q = some t0 → t0.kind = .data →
      ∃ t, exec (.counterFire cl j) s = .next t ∧ t.cnt cl j = { x with count := x.count + 1 } ∧
        (t.inAt (.oper cl (cntOp j) 0)).q = (s.inAt (.oper cl (cntOp j) 0)).q.tail ∧
        t.opOut cl (cntOp j) 0 = s.opOut cl (cntOp j) 0 ∧ SameBytes s t) ∧
    (∀ t0, x.count < words → frontOf (s.inAt (.oper cl (cntOp j) 0)).q = some t0 → t0.kind = .ctrl →
      ∃ t, exec (.counterFire cl j) s = .next t ∧ t.cnt cl j = x ∧
        (t.inAt (.oper cl (cntOp j) 0)).q = (s.inAt (.oper cl (cntOp j) 0)).q.tail ∧
        t.opOut cl (cntOp j) 0 = s.opOut cl (cntOp j) 0 ∧ SameBytes s t) ∧
    (words ≤ x.count → (s.opOut cl (cntOp j) 0).length < 2 → bitOf x.ctrl 2 = false →
      ∃ t, exec (.counterFire cl j) s = .next t ∧ t.cnt cl j = { x with count := 0, next := (x.next + 1) % 2 ^ 32 } ∧
        t.opOut cl (cntOp j) 0 = s.opOut cl (cntOp j) 0 ++
          [.tok (dataTok 0 (put 1 58 ||| put (x.next % 2 ^ 32) 16 ||| put (x.next % 2 ^ 32 % 256) 0))] ∧ SameBytes s t)) ∧
  (∀ (s : State) (d k : Nat) (c : Copy), k < 128 → s.copy (128 * d + k) = some c → c.status = 0 →
    s.boundCnts (128 * d + k) = false →
    (c.whole = c.total ∧ c.broken = false ∧ ∀ R, s.copyRegion c = some R → R.cut = none) ∨
      (c.stopping.isSome = true ∧ c.reqs = []) →
    s.copyStalled (128 * d + k) = false →
    let stopped := c.stopping.isSome
    ∃ t, exec (.copyEnd d k) s = .next t ∧
      t.copy (128 * d + k) = some { c with status := if stopped then 2 else 1, active := [] } ∧ SameBytes s t ∧
      (∀ p rid r, c.stopping = some (p, rid) → (s.proc p).parked.find? (fun r => r.rid == rid) = some r → r.resp ≠ 0 →
        { rid := rid, words := [put c.whole 16], tag := 0 } ∈ (t.proc p).resps) ∧
      (c.comp = 1 → Posted s t d c.core (put 0x10 56 ||| put (if stopped then 1 else 0) 48 ||| put (128 * d + k) 32 |||
        put (min c.whole (2 ^ 32 - 1)) 0) (c.dw 7) 0)) ∧
  (∀ (s : State) (d k : Nat) (c : Copy), k < 128 → s.copy (128 * d + k) = some c →
    c.status ≠ 0 ∨ s.boundCnts (128 * d + k) = true ∨ s.copyStalled (128 * d + k) = true ∨
      ((c.whole ≠ c.total ∨ c.broken = true ∨ ∃ R, s.copyRegion c = some R ∧ R.cut ≠ none) ∧
        (c.stopping = none ∨ c.reqs ≠ [])) →
    exec (.copyEnd d k) s = .next s) ∧
  (∀ (s : State) (d g line since : Nat), (s.coalAt d g).line = some (line, since) →
    (since + fldN (s.coalAt d g).ctrl 8 8 ≤ s.cycle → ∃ t, exec (.coalesceIssue d g) s = .next t ∧ OnlyDie s t d ∧
      (t.coalAt d g).line = none ∧
      fldN (t.coalAt d g).status 0 32 = min (fldN (s.coalAt d g).status 0 32 + 1) (2 ^ 32 - 1)) ∧
    (s.cycle < since + fldN (s.coalAt d g).ctrl 8 8 → exec (.coalesceIssue d g) s = .next s))

/-- A cut is in progress in region `g` of die `d`. -/
def CutOf (s : State) (d g : Nat) (c : Cut) : Prop := (s.region d g).cut = some c

/-- A piece of the image goes to bytes of one page of HBM that may be written now: it ends within the save area, the page
translates for a store, none of its lines waits for a re-encryption, and no window holds an update of them (16 R439; 19 R478;
10 R292). -/
def PieceFits (s : State) (d g : Nat) (c : Cut) (off : Nat) (ws : List Word) : Prop :=
  let w := c.areaWide + 8 * off
  wnOff c.areaWide + 8 * (off + ws.length) ≤ c.areaSize ∧ w % 65536 + 8 * ws.length ≤ 65536 ∧
    s.translate d (some (s.region d g).job) w (8 * ws.length) .store = .ok (s, .hbm) ∧
    s.hbmBusy w (8 * ws.length) = false ∧ s.pendingUnits (wideKey w) (8 * ws.length) = []

/-- The words `ws` stand in memory from wide address `w` on, and no other byte changed. -/
def WordsWritten (s t : State) (w : Nat) (ws : List Word) : Prop :=
  (∀ i, i < ws.length → t.mword (wideKey w + 8 * i) = ws.getD i 0) ∧
    ∀ a, a < wideKey w ∨ wideKey w + 8 * ws.length ≤ a → t.mget a = s.mget a

/-- 16 R429-R433, R436-R442, R446-R447: a cut marker takes no entry and makes its unit record, an engine once it is settled;
items enter where there is room, those of a SAVED region not; while the codec is the cut's, a caught item is written with those
before it and then leaves where it stood, tokens on links before what waits outside; tokens that units still send are taken
after them; the image is made once all is ready and written in order; COMPLETE is written last, after the acknowledgement of every
store packet to a peer, and then the region goes on, or is SAVED and released, and the issuer is answered; the watchdog freezes
its region and begins a save. That the timer restarts at an expiry is the model's (log entry 33), as are the header written anew
with each item (log entry 8), the writing to a peer's area (log entry 32), when caught items and records are written (log
entry 65), and when an engine is settled (log entry 105). -/
def Obligations.CutEvents : Prop :=
  (∀ (s : State) (port : InPort) (t0 : Token), (s.inAt port).link = some t0 → t0.isCut = true →
    (∀ e ch, port = .elem e ch → ch < 4) →
    ∃ t, exec (.cutMarkerArrival port) s = .next t ∧ (t.inAt port).link = none ∧ SameBytes s t ∧
      ∀ g c, (s.portRegion port).2 = some g → CutOf s (s.portRegion port).1 g c →
        (s.inAt port).linkSrc = some ((s.portRegion port).1, g) → c.internal.contains port = true →
        let u := portUnit port
        let first := c.pending.contains u = true ∧ c.due.contains u = false
        ∃ c', CutOf t (s.portRegion port).1 g c' ∧ c'.markersIn = c.markersIn ++ [port] ∧
          (first → s.unitSettled (s.portRegion port).1 g u = true →
            c'.recorded = c.recorded ++ [u] ∧ c'.pending.contains u = false) ∧
          (first → s.unitSettled (s.portRegion port).1 g u = false → c'.recorded = c.recorded ∧ c'.due = c.due ++ [u]) ∧
          (¬first → c'.recorded = c.recorded ∧ c'.pending = c.pending)) ∧
  (∀ (s : State) (d g : Nat), (s.region d g).st = .saved → exec (.restoreTokenEnter d g) s = .next s) ∧
  (∀ (s : State) (d g e : Nat) (w : Word) (rest : List Caught), (s.region d g).entering = .event e w :: rest →
    (s.region d g).st ≠ .saved → s.unitHeld e = false → (s.proc e).el.length < 4 →
    ∃ t, exec (.restoreTokenEnter d g) s = .next t ∧ (t.proc e).el = (s.proc e).el ++ [w] ∧
      (t.region d g).entering = rest ∧ SameBytes s t) ∧
  (∀ (s : State) (d g e : Nat) (k : TaskPkt) (rest : List Caught), (s.region d g).entering = .packet e k :: rest →
    (s.region d g).st ≠ .saved → s.unitHeld e = false → ((s.proc e).sels.get Sel.reset k.sel.toNat).v = true →
    let h := ((s.proc e).sels.get Sel.reset k.sel.toNat).handler.toNat
    (vget (s.proc e).lanes h).length < 4 →
    ∃ t, exec (.restoreTokenEnter d g) s = .next t ∧ vget (t.proc e).lanes h = vget (s.proc e).lanes h ++ [k] ∧
      (t.region d g).entering = rest ∧ SameBytes s t) ∧
  (∀ (s : State) (d g : Nat) (c : Cut), CutOf s d g c → c.missed = true ∨ s.hasCodec d (.cut g) = false →
    exec (.saveRecordWrite d g) s = .next s) ∧
  (∀ (s : State) (d g : Nat) (c : Cut), CutOf s d g c → c.missed = false → s.hasCodec d (.cut g) = true →
    (c.image = none → c.sent = 0 → ∀ x, s.nextTake c = some x →
      let ws := s.caughtWords d g c (s.cutItems (s.region d g) c ++ [x.item])
      PieceFits s d g c 0 ws →
      ∃ t c', exec (.saveRecordWrite d g) s = .next t ∧ CutOf t d g c' ∧ c'.caught = c.caught ++ [x.item] ∧
        c'.image = none ∧ WordsWritten s t c.areaWide ws ∧
        (∀ port rest, c.standing = port :: rest → c'.standing = rest ∧ c'.takes = c.takes ∧
          ((∀ e ch, port = .elem e ch → ch < 4) → (t.inAt port).link = none)) ∧
        (c.standing = [] → c'.takes = c.takes.tail)) ∧
    (c.image = none → s.nextTake c = none → ∀ x xs, s.lateItems d g c = x :: xs →
      ∃ t, exec (.saveRecordWrite d g) s = .next t ∧ OnlyDie s t d ∧ CutOf t d g { c with takes := x :: xs }) ∧
    (c.image = none → s.nextTake c = none → s.lateItems d g c = [] → s.cutReady d g c = true →
      ∃ t c' n, exec (.saveRecordWrite d g) s = .next t ∧ CutOf t d g c' ∧ c'.image = some n ∧ SameBytes s t ∧
        c'.toWrite.head? = some (0, imageHeader (s.cutImage d g c []) false) ∧
        n = 4 + ((c'.toWrite.drop 1).map fun y => y.2.length).sum) ∧
    (c.image = none → s.nextTake c = none → s.lateItems d g c = [] → s.cutReady d g c = false → (∀ u ∈ c.due, s.unitSettled d g u = false) →
      exec (.saveRecordWrite d g) s = .next s) ∧
    (∀ n off ws rest, c.image = some n → c.sent = 0 → c.toWrite = (off, ws) :: rest → ws ≠ [] → PieceFits s d g c off ws →
      ∃ t, exec (.saveRecordWrite d g) s = .next t ∧ CutOf t d g { c with toWrite := rest } ∧
        WordsWritten s t (c.areaWide + 8 * off) ws)) ∧
  (∀ (s : State) (d g n : Nat) (c : Cut), CutOf s d g c → c.kind ≤ 4 → c.missed = false → c.image = some n → c.toWrite = [] →
    c.sent = 0 → s.areaInFlight d g = false →
    let header := imageHeader (s.cutImage d g c []) true
    PieceFits s d g c 0 header →
    ∃ t, exec (.cutComplete d g) s = .next t ∧ (t.region d g).cut = none ∧ WordsWritten s t c.areaWide header ∧
      (t.region d g).st = (if c.kind = 1 ∨ c.kind = 3 then .saved else (s.region d g).st) ∧
      (c.kind = 1 ∨ c.kind = 3 → (t.region d g).elems = []) ∧ CodecUser.cut g ∉ (t.die d).codecq ∧
      (∀ r, c.kind ≠ 4 → c.proc ∉ (s.region d g).elems → (s.proc c.proc).parked.find? (fun r => r.rid == c.rid) = some r →
        r.resp ≠ 0 → { rid := r.rid, words := [put (n % 2 ^ 32) 0], tag := 0 } ∈ (t.proc c.proc).resps)) ∧
  (∀ (s : State) (d g : Nat) (c : Cut), CutOf s d g c → s.areaInFlight d g = true → exec (.cutComplete d g) s = .next s) ∧
  (∀ (s : State) (d g : Nat), (s.region d g).cut = none →
    exec (.saveRecordWrite d g) s = .next s ∧ exec (.cutComplete d g) s = .next s) ∧
  (∀ (s : State) (d g : Nat),
    let R := s.region d g
    let period := fldN R.wd 48 16
    (period ≠ 0 → R.st = .running → R.cut = none → s.regionFaulted d g R = false → s.quiescent R = false →
      1000 * period ≤ (s.tai - R.wdStart).toNat →
      ∃ t, exec (.watchdogExpiry d g) s = .next t ∧ (t.region d g).st = .frozen ∧ (t.region d g).wdStart = s.tai ∧
        SameBytes s t ∧
        (R.area = none → (t.region d g).cut = none ∧ (t.region d g).held = R.held ++ [regionTarget d g]) ∧
        (∀ b w, R.area = some b → s.saveArea R.job b = some w →
          ∃ c, CutOf t d g c ∧ c.kind = 4 ∧ c.areaWide = w ∧ c.areaSize = (s.obj (wnSerial w)).size) ∧
        (∀ b w, R.area = some b → s.saveArea R.job b = none → s.peerArea d R.job b = some w → (s.knownOf w).code = 0 →
          ∃ c, CutOf t d g c ∧ c.kind = 4 ∧ c.areaWide = w ∧ c.areaSize = (s.knownOf w).size)) ∧
    (period = 0 ∨ R.st ≠ .running ∨ R.cut.isSome = true ∨ s.regionFaulted d g R = true ∨ s.quiescent R = true ∨
      (s.tai - R.wdStart).toNat < 1000 * period → exec (.watchdogExpiry d g) s = .next s))

/-- Engine `u` of cluster `cl` alone differs there in its engines, and memory is as it was. -/
def EngineBecomes (s t : State) (cl u : Nat) (x : Mx) : Prop :=
  t.mx cl u = x ∧ (∀ v, v ≠ u → t.mx cl v = s.mx cl v) ∧ SameBytes s t

/-- Tile tags of cluster `cl`: the frames of `fs` have tag `n`, the others are as they were; the sync frame has none (09 R256).
-/
def Tagged (s t : State) (cl : Nat) (fs : List Nat) (n : BitVec 2) : Prop :=
  ∀ f, f ≠ 1023 → (t.cluster cl).tile f = if f ∈ fs then n else (s.cluster cl).tile f

/-- Template `t0` of an engine is chosen by 11 R318: bound, with no entry and no operation past one, its region live, the queue
not full, its next buffers FULL, its destination EMPTY or its chain begun, no record of it held, and none before it in the
order of R318 ready for one of its destination frames. -/
def MayEnter (s : State) (cl u t0 : Nat) (T : MxTmpl) : Prop :=
  (s.mx cl u).slot t0 = some T ∧ T.queued = false ∧ T.closing = false ∧ (s.mx cl u).active t0 = false ∧
    s.tmplLive cl u T = true ∧ (s.mx cl u).queue.length < 8 ∧
    (∀ f ∈ T.aFrames T.buf ++ T.bFrames T.buf, (s.cluster cl).tile f = 2) ∧
    (T.chaining = true ∨ ∀ f ∈ T.dFrames, (s.cluster cl).tile f = 0) ∧
    s.eventHeld (cl / 32) (mxRecord cl u t0 0) 43 = false ∧
    ∀ i, i < 8 * u + t0 → s.mxReady cl (i / 8) (i % 8) = true →
      ∀ f ∈ s.destOf cl (i / 8) (i % 8), f ∉ T.dFrames

/-- 11 R314, R318-R319, R321-R322, R325-R330, R336-R337; 00 R3; 20 R490: an entry is created and takes its destination; the
entry of the highest effective priority, then the oldest, latches; the latch reads one word at a time, and with all of them
and its cycles over fixes the result and gives the buffers back; a bad word freezes the template's region (09 R250); a
latched operation starts, overtakes one of lower priority, and a parked one resumes; a delivery counts an operation, keeps
the partial of a chain that goes on and writes nothing outside its destination, whose bytes are then free (log entry 12),
and at a chain's end writes the destination word by word and then makes it FULL, or streams it out; an engine with nothing
to deliver takes cancelled templates away. Cycles are those of the cluster's island; the order of a latch's reads is the
model's (log entry 87). -/
def Obligations.MatrixEvents : Prop :=
  (∀ (s : State) (cl u t0 : Nat) (T : MxTmpl), MayEnter s cl u t0 T →
    ∃ t, exec (.mxEntryCreate cl u t0) s = .next t ∧ SameBytes s t ∧
      (t.mx cl u).slot t0 = some { T with queued := true, chaining := true } ∧
      (t.mx cl u).queue = (s.mx cl u).queue ++ [{ t := t0, pri := T.pri, born := (s.islandCycle cl : Int) }] ∧
      (T.chaining = false → Tagged s t cl T.dFrames 1) ∧ (T.chaining = true → (t.cluster cl).tiles = (s.cluster cl).tiles)) ∧
  (∀ (s : State) (cl u : Nat), (s.mx cl u).standby = none → (s.mx cl u).queue ≠ [] →
    (∀ e ∈ (s.mx cl u).queue, ∃ T, (s.mx cl u).slot e.t = some T ∧ T.closing = false ∧ s.tmplLive cl u T = true) →
    let now := s.islandCycle cl
    ∃ t e o, exec (.mxStandbyLatch cl u) s = .next t ∧ SameBytes s t ∧ e ∈ (s.mx cl u).queue ∧
      (∀ f ∈ (s.mx cl u).queue, f.eff now < e.eff now ∨ (f.eff now = e.eff now ∧ e.born ≤ f.born)) ∧
      (t.mx cl u).queue = (s.mx cl u).queue.erase e ∧ (t.mx cl u).standby = some o ∧ o.t = e.t ∧ o.pri = e.pri ∧
      o.latched = false ∧ o.latchStart = now ∧ o.latch = []) ∧
  (∀ (s : State) (cl u : Nat) (o : MxOp) (T : MxTmpl), (s.mx cl u).standby = some o → (s.mx cl u).slot o.t = some T →
    o.latched = false →
    let x := s.mx cl u
    (∀ a, T.latchNext cl o.latch = some a → s.sbad a 8 = false →
      ∃ t, exec (.mxLatchEnd cl u) s = .next t ∧ EngineBecomes s t cl u
        { x with standby := some { o with latch := o.latch.set none (a / 8) (some (s.mword a)), posted := false } }) ∧
    (∀ a, T.latchNext cl o.latch = some a → s.sbad a 8 = true → o.posted = false →
      ∃ t, exec (.mxLatchEnd cl u) s = .next t ∧
        EngineBecomes s t cl u { x with standby := some { o with posted := true } } ∧
        ∀ g, T.region = some g → (s.region (dieOf T.proc) g).st = .running → (t.region (dieOf T.proc) g).st = .frozen) ∧
    (T.latchNext cl o.latch = none → s.islandCycle cl < o.latchStart + T.latchCycles → exec (.mxLatchEnd cl u) s = .next s) ∧
    (T.latchNext cl o.latch = none → o.latchStart + T.latchCycles ≤ s.islandCycle cl →
      let r := x.result cl T o.latch
      let o' : MxOp := { o with latched := true, result := r.1, flags := r.2 }
      ∃ t, exec (.mxLatchEnd cl u) s = .next t ∧ SameBytes s t ∧
        Tagged s t cl ((if T.rela then T.aFrames T.buf else []) ++ if T.relb then T.bFrames T.buf else []) 0 ∧
        (t.mx cl u).gaStatus = min (x.gaStatus + T.badRows cl o.latch) 0xFFFF ∧
        (x.running = none ∧ x.shadow = none →
          (t.mx cl u).running = some { o' with started := s.islandCycle cl } ∧ (t.mx cl u).standby = none) ∧
        (x.running ≠ none ∨ x.shadow ≠ none → (t.mx cl u).running = x.running ∧ (t.mx cl u).standby = some o'))) ∧
  (∀ (s : State) (cl u : Nat) (r o : MxOp), (s.mx cl u).running = some r → (s.mx cl u).standby = some o →
    let now := s.islandCycle cl
    (o.latched = true → r.pri.toNat < o.epri → (s.mx cl u).shadow = none → r.overtaker = false →
      r.done now < (s.mx cl u).total r →
      ∃ t, exec (.mxPark cl u) s = .next t ∧ EngineBecomes s t cl u { s.mx cl u with
        shadow := some { r with steps := r.done now }
        running := some { o with overtaker := true, started := now }
        standby := none }) ∧
    (o.latched = false ∨ o.epri ≤ r.pri.toNat ∨ (s.mx cl u).shadow ≠ none ∨ r.overtaker = true →
      exec (.mxPark cl u) s = .next s)) ∧
  (∀ (s : State) (cl u : Nat) (r : MxOp), (s.mx cl u).running = some r →
    let now := s.islandCycle cl
    ((s.mx cl u).total r ≤ r.done now →
      ∃ t, exec (.mxComputeEnd cl u) s = .next t ∧ (t.mx cl u).finished = (s.mx cl u).finished ++ [r] ∧ SameBytes s t ∧
        (∀ p, (s.mx cl u).shadow = some p →
          (t.mx cl u).running = some { p with started := now } ∧ (t.mx cl u).shadow = none ∧
            (t.mx cl u).standby = (s.mx cl u).standby) ∧
        ((s.mx cl u).shadow = none → (s.mx cl u).standby = none → (t.mx cl u).running = none) ∧
        (∀ o, (s.mx cl u).shadow = none → (s.mx cl u).standby = some o → o.latched = true →
          (t.mx cl u).running = some { o with started := now } ∧ (t.mx cl u).standby = none)) ∧
    (r.done now < (s.mx cl u).total r → exec (.mxComputeEnd cl u) s = .next s)) ∧
  (∀ (s : State) (cl u : Nat) (o : MxOp) (rest : List MxOp) (T : MxTmpl), (s.mx cl u).finished = o :: rest →
    (s.mx cl u).slot o.t = some T → o.result.length = 1024 →
    let ws := (o.result.map (mxStored T.csa)).map (·.1)
    let size := 512 * T.dFrames.length
    (o.emit = none → T.inChain + 1 ≠ T.chain →
      ∃ t, exec (.mxDeliver cl u) s = .next t ∧ (t.mx cl u).finished = rest ∧ (t.mx cl u).done = (s.mx cl u).done + 1 ∧
        (∀ a, (∀ f ∈ T.dFrames, a < frameByte cl f 0 ∨ frameByte cl f 4096 ≤ a) → t.mget a = s.mget a) ∧
        (t.mx cl u).slot o.t = some { T with n := T.n + 1, chaining := true, inChain := T.inChain + 1, fromFrames := false
                                             partials := ws, wrote := 0 }) ∧
    (o.emit = none → T.inChain + 1 = T.chain → o.wrote < size →
      let a := frameByte cl (T.dFrames.getD (o.wrote / 512) 0) (8 * (o.wrote % 512))
      ∃ t, exec (.mxDeliver cl u) s = .next t ∧ (t.mx cl u).finished = { o with wrote := o.wrote + 1 } :: rest ∧
        (T.csa = true → t.mword a = ws.getD o.wrote 0) ∧
        (T.csa = false → t.mword a =
          (ws.getD (2 * o.wrote) 0 &&& 0xFFFFFFFF) ||| (ws.getD (2 * o.wrote + 1) 0 <<< 32)) ∧
        ∀ b, b < a ∨ a + 8 ≤ b → t.mget b = s.mget b) ∧
    (o.emit = none → T.inChain + 1 = T.chain → size ≤ o.wrote → T.emitd = false →
      ∃ t T', exec (.mxDeliver cl u) s = .next t ∧ (t.mx cl u).finished = rest ∧ (t.mx cl u).done = (s.mx cl u).done + 1 ∧
        (t.mx cl u).slot o.t = some T' ∧ T'.n = T.n + 1 ∧ T'.chaining = false ∧ T'.inChain = 0 ∧ Tagged s t cl T.dFrames 2 ∧
        SameBytes s t ∧
        (T.comp = 1 → T.closing = false → Posted s t (cl / 32) T.core (mxRecord cl u o.t (T.n + 1)) T.user 0)) ∧
    (o.emit = none → T.inChain + 1 = T.chain → size ≤ o.wrote → T.emitd = true →
      ∃ t, exec (.mxDeliver cl u) s = .next t ∧ SameBytes s t ∧
        (t.mx cl u).finished = { o with emit := some ((List.range 4).map (emitPort ws)) } :: rest) ∧
    (∀ ps, u < 4 → o.emit = some ps → ps.length = 4 →
      (∀ j, j < 4 → (ps.getD j []).length ≤ 1 ∧ (s.opOut cl u j).length < 2) →
      ∃ t, exec (.mxDeliver cl u) s = .next t ∧ (t.mx cl u).finished = rest ∧ (t.mx cl u).done = (s.mx cl u).done + 1 ∧
        Tagged s t cl T.dFrames 0 ∧ ∀ j, j < 4 → t.opOut cl u j = (ps.getD j []).foldl enqueue (s.opOut cl u j))) ∧
  (∀ (s : State) (cl u : Nat), (s.mx cl u).finished = [] →
    ((∀ t0, t0 < 8 → s.mxDue cl u t0 = false) → exec (.mxDeliver cl u) s = .next s) ∧
    (∀ t0 T, t0 < 8 → (∀ i, i < t0 → s.mxDue cl u i = false) → (s.mx cl u).slot t0 = some T → T.closing = true →
      (s.mx cl u).active t0 = false → T.spills = false →
      ∃ t, exec (.mxDeliver cl u) s = .next t ∧ (t.mx cl u).slot t0 = none ∧ (∀ e ∈ (t.mx cl u).queue, e.t ≠ t0) ∧
        SameBytes s t))

/-- An array of a bound graph of which a token may be taken: its graph is not being unloaded, its region is live, and it holds
fewer than four vectors between blocking and output (12 R351, R354, R357, R362). -/
def TakesTokens (s : State) (cl u : Nat) : Prop :=
  (s.esp cl u).st = .bound ∧ (s.esp cl (s.esp cl u).head).stopped = false ∧
    s.espLive cl u (s.esp cl (s.esp cl u).head) = true ∧ s.espHeld cl u < 4

/-- 12 R351-R353, R360, R363: an array gathers the lanes of its tokens into blocks; a graph of one array turns a whole block
into the tokens of its vector, and an end marker into a marker; a CTRL token is dropped; the head sends its next token,
counts a vector once it is sent whole, reports a marker of rank 3 and above, and ends a cancelled graph when all is sent. -/
def Obligations.EspalierEvents : Prop :=
  (∀ (s : State) (cl u : Nat) (t0 : Token) (q : List Entry), TakesTokens s cl u →
    (s.inAt (.oper cl (espOp u) 0)).q = .tok t0 :: q →
    let x := s.esp cl u
    (t0.kind = .ctrl → ∃ t, exec (.espTokenTake cl u) s = .next t ∧ (t.inAt (.oper cl (espOp u) 0)).q = q ∧
      t.esp cl u = x ∧ SameBytes s t) ∧
    (t0.kind = .data → t0.tag = 2 → x.block.length + 4 < x.sect.lanes → x.items = [] →
      ∃ t, exec (.espTokenTake cl u) s = .next t ∧ (t.inAt (.oper cl (espOp u) 0)).q = q ∧ SameBytes s t ∧
        (t.esp cl u).block = x.block ++ [t0.payload.extractLsb' 0 16, t0.payload.extractLsb' 16 16,
          t0.payload.extractLsb' 32 16, t0.payload.extractLsb' 48 16] ∧ (t.esp cl u).items = []) ∧
    (t0.kind = .data → t0.tag = 2 → x.sect.lanes ≤ x.block.length + 4 → x.items = [] → x.head = u → x.narr = 1 →
      let lanes := x.block ++ (List.range 4).map fun i => t0.payload.extractLsb' (16 * i) 16
      let b := espBlock (lanes.take x.sect.lanes)
      ∃ t, exec (.espTokenTake cl u) s = .next t ∧ (t.inAt (.oper cl (espOp u) 0)).q = q ∧ SameBytes s t ∧
        (t.esp cl u).block = [] ∧ (t.esp cl u).items = [] ∧
        (t.esp cl u).outq = x.outq ++ [(vectorToks x.rows [sectionParts x.sect b.1 b.2], true)]) ∧
    (t0.isEnd = true → markRank t0.payload < 7 → x.block = [] → x.items = [] → x.head = u → x.narr = 1 →
      ∃ t, exec (.espTokenTake cl u) s = .next t ∧ (t.inAt (.oper cl (espOp u) 0)).q = q ∧ SameBytes s t ∧
        (t.esp cl u).outq = x.outq ++ [([endTok (markRank t0.payload)], false)])) ∧
  (∀ (s : State) (cl u : Nat), (s.esp cl u).st = .free ∨ (s.esp cl (s.esp cl u).head).stopped = true ∨ 4 ≤ s.espHeld cl u →
    exec (.espTokenTake cl u) s = .next s) ∧
  (∀ (s : State) (cl u : Nat) (t0 : Token) (ts : List Token) (vec : Bool) (rest : List (List Token × Bool)),
    let H := s.esp cl u
    H.st ≠ .free → H.head = u → s.eventHeld (cl / 32) (espRecord cl u 0 0) 46 = false → H.outq = (t0 :: ts, vec) :: rest →
    (s.opOut cl (espOp u) 0).length < 2 →
    ∃ t, exec (.espRowOutput cl u) s = .next t ∧ SameBytes s t ∧
      t.opOut cl (espOp u) 0 = enqueue (s.opOut cl (espOp u) 0) t0 ∧
      (ts ≠ [] → t.esp cl u = { H with outq := (ts, vec) :: rest }) ∧
      (ts = [] → t.esp cl u = { H with outq := rest, vcount := if vec then H.vcount + 1 else H.vcount }) ∧
      (ts = [] → vec = false → 3 ≤ markRank t0.payload → fldN H.bind 4 2 = 1 →
        Posted s t (cl / 32) (fldN H.bind 2 2) (espRecord cl u 0 H.vcount) (put (fldN H.bind 32 32) 0) 0)) ∧
  (∀ (s : State) (cl u : Nat),
    let H := s.esp cl u
    H.st ≠ .free → H.head = u → s.eventHeld (cl / 32) (espRecord cl u 0 0) 46 = false → H.outq = [] →
    (H.closing = true → ∃ t, exec (.espRowOutput cl u) s = .next t ∧ (∀ v ∈ H.units, (t.esp cl v).st = .free) ∧
      SameBytes s t) ∧
    (H.closing = false → exec (.espRowOutput cl u) s = .next s))

/-! ### Operators, routers, regions and debug access -/

/-- Operator `k` of a cluster is on and its region live: its input `i` begins with `t0`, `q` stands behind it (10 R280; 15
R418). -/
def OperatorSees (s : State) (cl k i : Nat) (t0 : Token) (q : List Entry) : Prop :=
  s.opLive cl k = true ∧ (s.inAt (.oper cl k i)).q = .tok t0 :: q

/-- Operator `k` has taken the head of its input `i`, sent `ts` on output 0, and changed no byte of memory. -/
def OperatorGives (s t : State) (cl k i : Nat) (q : List Entry) (ts : List Token) : Prop :=
  (t.inAt (.oper cl k i)).q = q ∧ t.opOut cl k 0 = ts.foldl enqueue (s.opOut cl k 0) ∧ SameBytes s t

/-- 10 R280, R286-R293, R296-R297; 06 R174: the normaliser pairs the words of partials and sends their FP32 values, drops what
is no partial, and begins its rows again at an end marker; the converter converts a token as MAP says, gathers four for
F32PK, and counts what it rejects; a steered token goes back to its channel; the sparse-update unit puts pairs into its
window, each to be merged or not as CTRL stood when it came, and drops a pair whose address lies in a sync page (09 R251); a
closed window is applied and counted; the reducer adds a group, merges markers, and drops data against one. That a rejected
steered token gives up its reservation is the model's reading (log entry 58), as is that the reducer tests no tag (log entry 62);
a pair whose address has neither tag is dropped by the model's choice (log entry 116), and the count token counts the updates
that entered (log entry 117). -/
def Obligations.OperatorEvents : Prop :=
  (∀ (s : State) (cl j : Nat) (t0 : Token) (q : List Entry), OperatorSees s cl (nrmOp j) 0 t0 q →
    bitOf (s.nrm cl j).ctrl 0 = true →
    let x := s.nrm cl j
    (t0.kind = .data → t0.tag = 6 → x.w0 = none → ∃ t, exec (.normalise cl j) s = .next t ∧
      OperatorGives s t cl (nrmOp j) 0 q [] ∧ t.nrm cl j = { x with w0 := some t0.payload }) ∧
    (∀ w, t0.kind = .data → t0.tag = 6 → x.w0 = some w → (s.opOut cl (nrmOp j) 0).length < 2 →
      ∃ t, exec (.normalise cl j) s = .next t ∧
        OperatorGives s t cl (nrmOp j) 0 q [dataTok 1 (put (normalise (partOf w t0.payload) x.scaleBits).1 0)] ∧
        (t.nrm cl j).w0 = none ∧ (t.nrm cl j).row = x.row + 1) ∧
    (t0.kind = .data → t0.tag ≠ 6 → ∃ t, exec (.normalise cl j) s = .next t ∧ OperatorGives s t cl (nrmOp j) 0 q [] ∧
      t.nrm cl j = { x with status := x.status ||| put 1 9 }) ∧
    (t0.isEnd = true → (s.opOut cl (nrmOp j) 0).length < 2 → ∃ t, exec (.normalise cl j) s = .next t ∧
      OperatorGives s t cl (nrmOp j) 0 q [t0] ∧ (t.nrm cl j).w0 = none ∧ (t.nrm cl j).row = 0) ∧
    (t0.kind = .ctrl → ∃ t, exec (.normalise cl j) s = .next t ∧ OperatorGives s t cl (nrmOp j) 0 q [] ∧ t.nrm cl j = x)) ∧
  (∀ (s : State) (cl j : Nat) (t0 : Token) (q : List Entry), OperatorSees s cl (cvtOp j) 1 t0 q →
    bitOf (s.cvt cl j).ctrl 0 = true → (s.cvt cl j).steerQ = [] → (s.cvt cl j).pend = [] → t0.kind = .data →
    let x := s.cvt cl j
    let op := fldN x.map (4 * t0.tag.toNat) 4
    (op ≤ 10 → (s.opOut cl (cvtOp j) 0).length < 2 →
      let r := x.apply ((s.inAt (.oper cl (cvtOp j) 1)).conf.extractLsb' 16 3).toNat t0
      ∃ t, exec (.convert cl j) s = .next t ∧ OperatorGives s t cl (cvtOp j) 1 q (r.1.take 1) ∧
        (t.cvt cl j).pend = r.1.tail ∧ (t.cvt cl j).status = x.status ||| statusFlags r.2) ∧
    (op = 11 → x.gathered.length < 3 → ∃ t, exec (.convert cl j) s = .next t ∧ OperatorGives s t cl (cvtOp j) 1 q [] ∧
      (t.cvt cl j).gathered = x.gathered ++ [t0.payload.setWidth 32]) ∧
    (op = 11 → x.gathered.length = 3 → (s.opOut cl (cvtOp j) 0).length < 2 → ∃ t, exec (.convert cl j) s = .next t ∧
      OperatorGives s t cl (cvtOp j) 1 q [dataTok 2 (packGathered (x.gathered ++ [t0.payload.setWidth 32])).1] ∧
      (t.cvt cl j).gathered = []) ∧
    (12 ≤ op → ∃ t, exec (.convert cl j) s = .next t ∧ OperatorGives s t cl (cvtOp j) 1 q [] ∧
      fldN (t.cvt cl j).status 16 32 = min (fldN x.status 16 32 + 1) (2 ^ 32 - 1))) ∧
  (∀ (s : State) (cl j : Nat) (y : SteerTok) (rest : List SteerTok), (s.cvt cl j).steerQ = y :: rest →
    bitOf (s.cvt cl j).ctrl 0 = true → s.opLive cl (cvtOp j) = true → (s.cvt cl j).streamTurn = false →
    let x := s.cvt cl j
    let op := fldN x.map (4 * y.tok.tag.toNat) 4
    ∃ t, exec (.steerResult cl j) s = .next t ∧ (t.cvt cl j).steerQ = rest ∧ SameBytes s t ∧
      (op = 7 ∨ op = 9 ∨ op = 10 ∨ op = 11 →
        (t.inAt y.port).q = fillEntry (s.inAt y.port).q y.id (dataTok 0 y.tok.payload)) ∧
      (12 ≤ op → (t.inAt y.port).q = (s.inAt y.port).q.filter fun e => e != .resv y.id) ∧
      (op ≤ 6 ∨ op = 8 → ∀ v, (x.apply y.cbslot y.tok).1 = [v] → (t.inAt y.port).q = fillEntry (s.inAt y.port).q y.id v)) ∧
  (∀ (s : State) (cl j : Nat) (ta tv : Token) (qa qv : List Entry), OperatorSees s cl (suuOp j) 0 ta qa →
    (s.inAt (.oper cl (suuOp j) 1)).q = .tok tv :: qv → (s.suu (.cluster cl j)).en = true →
    ta.kind = .data → tv.kind = .data → ta.tag = 0 ∨ ta.tag = 7 →
    let x := s.suu (.cluster cl j)
    let op := fldN x.op 0 4
    let job := (s.regionOfOp cl (suuOp j)).map fun g => (s.region (cl / 32) g).job
    op < 10 → aSlot ta.payload = 0 → aOff ta.payload < 2 ^ 30 → s.shortFault (16 * cl) job ta.payload (atomLen op) .atomic = none →
    aOff ta.payload % 2 ^ 22 < 0x3FF000 → s.sbad (aOff ta.payload) (atomLen op) = false →
    (∀ u ∈ s.pendingUnits (aOff ta.payload) (atomLen op), u = .cluster cl j) → x.takes (aOff ta.payload) op = true →
    ∃ t, exec (.suuUpdate (.cluster cl j)) s = .next t ∧ SameBytes s t ∧
      (t.inAt (.oper cl (suuOp j) 0)).q = qa ∧ (t.inAt (.oper cl (suuOp j) 1)).q = qv ∧
      (t.suu (.cluster cl j)).win = x.win ++
        [{ loc := aOff ta.payload, op := op, val := tv.payload, src := none, merge := x.merges }]) ∧
  (∀ (s : State) (cl j : Nat) (ta tv : Token) (qa qv : List Entry), OperatorSees s cl (suuOp j) 0 ta qa →
    (s.inAt (.oper cl (suuOp j) 1)).q = .tok tv :: qv → (s.suu (.cluster cl j)).en = true →
    ta.kind = .data → tv.kind = .data →
    let op := fldN (s.suu (.cluster cl j)).op 0 4
    10 ≤ op ∨ (ta.tag ≠ 0 ∧ ta.tag ≠ 7) ∨ (aSlot ta.payload = 0 ∧ aOff ta.payload < 2 ^ 30 ∧ 0x3FF000 ≤ aOff ta.payload % 2 ^ 22) →
    ∃ t, exec (.suuUpdate (.cluster cl j)) s = .next t ∧ SameBytes s t ∧
      (t.inAt (.oper cl (suuOp j) 0)).q = qa ∧ (t.inAt (.oper cl (suuOp j) 1)).q = qv ∧
      t.suu (.cluster cl j) = s.suu (.cluster cl j)) ∧
  (∀ (s : State) (d j : Nat), exec (.suuUpdate (.edge d j)) s = .next s) ∧
  (∀ (s : State) (cl j : Nat) (u : Upd),
    let x := s.suu (.cluster cl j)
    x.win = [u] → u.loc < 2 ^ 30 → u.loc % 2 ^ 22 < 0x3FF000 → (s.opOut cl (suuOp j) 0).length < 2 → u.src = none →
    fldN x.ctrl 8 8 ≠ 0 →
    (x.lastAt + fldN x.ctrl 8 8 ≤ s.suuCycle (.cluster cl j) →
      ∃ t, exec (.suuWindowClose (.cluster cl j)) s = .next t ∧ (t.suu (.cluster cl j)).win = [] ∧
        t.mread u.loc (atomLen u.op) =
          bytesOf (atomLen u.op) (atomNew u.op (wordOf (s.mread u.loc (atomLen u.op))) u.val) ∧
        (∀ a, a < u.loc ∨ u.loc + atomLen u.op ≤ a → t.mget a = s.mget a) ∧
        t.opOut cl (suuOp j) 0 = s.opOut cl (suuOp j) 0 ++ [.tok (dataTok 0 1)]) ∧
    (s.suuCycle (.cluster cl j) < x.lastAt + fldN x.ctrl 8 8 → s.suuMarked (.cluster cl j) = false →
      exec (.suuWindowClose (.cluster cl j)) s = .next s)) ∧
  (∀ (s : State) (cl : Nat) (ta tb : Token) (qa qb : List Entry),
    let x := (s.cluster cl).red
    bitOf x.ctrl 0 = true → x.inputs = [0, 1] → s.opLive cl redOp = true →
    (s.inAt (.oper cl redOp 0)).q = .tok ta :: qa → (s.inAt (.oper cl redOp 1)).q = .tok tb :: qb →
    (s.opOut cl redOp 0).length < 2 →
    (x.int64 = true → ta.kind = .data → tb.kind = .data → ∃ t, exec (.reduceGroup cl) s = .next t ∧ SameBytes s t ∧
      t.opOut cl redOp 0 = s.opOut cl redOp 0 ++ [.tok (dataTok 0 (ta.payload + tb.payload))] ∧
      (t.inAt (.oper cl redOp 0)).q = qa ∧ (t.inAt (.oper cl redOp 1)).q = qb) ∧
    (ta.isEnd = true → tb.isEnd = true → ∃ t, exec (.reduceGroup cl) s = .next t ∧ SameBytes s t ∧
      t.opOut cl redOp 0 = enqueue (s.opOut cl redOp 0) (endTok (max (markRank ta.payload) (markRank tb.payload))) ∧
      (t.inAt (.oper cl redOp 0)).q = qa ∧ (t.inAt (.oper cl redOp 1)).q = qb) ∧
    (ta.isEnd = true → tb.kind = .data → ∃ t, exec (.reduceGroup cl) s = .next t ∧ SameBytes s t ∧
      t.opOut cl redOp 0 = s.opOut cl redOp 0 ∧ (t.inAt (.oper cl redOp 0)).q = .tok ta :: qa ∧
      (t.inAt (.oper cl redOp 1)).q = qb ∧
      fldN (t.cluster cl).red.status 0 16 = min (fldN x.status 0 16 + 1) (2 ^ 16 - 1)))

/-- A token stands at the head of input `src` of a router, not held, or is first in the output channel behind an empty one,
which it may leave (10 R303-R304): then it enters the router under the entry that stands now, and no image holds it. -/
def AtRouter (s : State) (cl r : Nat) (src : RouterIn) (x : RTok) (rest : List RTok) : Prop :=
  ((s.router cl r).stuck.any fun y => y.1 == src) = false ∧
    ((vget (s.router cl r).inq (rinIdx src) = x :: rest ∧ frontOf (s.srcPort cl r src) = none) ∨
     (vget (s.router cl r).inq (rinIdx src) = [] ∧ rest = [] ∧ frontOf (s.srcPort cl r src) = some x.tok ∧
      s.mayLeave cl r src x.tok = true ∧ x.route = (s.router cl r).outTag src ∧
      x.sender = ((s.regionAt cl r).map fun g => (cl / 32, g)) ∧
      x.ent = some ((s.router cl r).entryOf x.route) ∧ x.saved = [] ∧ x.pos = (s.router cl r).pos))

/-- The route entry of a token at a router: the one it entered under, or, after a retry, the one that stands now (10 R304,
16 R426). -/
abbrev routeEntry (s : State) (cl r : Nat) (x : RTok) : BitVec 16 := x.ent.getD ((s.router cl r).entryOf x.route)

/-- A fault record with this code and OP0 is queued for the mailbox of die `d` (15 R401, 16 R422). -/
def Reported (s t : State) (d code : Nat) (op0 : Word) : Prop :=
  ∃ ws, (t.die d).faultPend = (s.die d).faultPend ++ [ws] ∧ fldN (ws.getD 1 0) 56 8 = code ∧ ws.getD 4 0 = op0

/-- The item DBGADDR names: a slot, a register, the predicates and the run state, or the breakpoints (16 R448). -/
def debugItem (s : State) (d : Nat) : Word :=
  let a := s.ctlReg d 2048
  let e := 512 * d + fldN a 32 9
  match fldN a 62 2 with
  | 0 => (((s.proc e).slots.get Slot.reset (fldN a 0 5)).word).getD 0
  | 1 => if fldN a 0 5 < 16 then vget (s.ctx e (fldN a 8 2)).x (fldN a 0 5) else 0
  | 2 => put (s.ctx e (fldN a 8 2)).p.toNat 56 ||| put (s.ctx e (fldN a 8 2)).rstate.code 0
  | _ => put ((List.range 32).foldl (fun m i => if ((s.proc e).slots.get Slot.reset i).brk then m + 2 ^ i else m) 0) 0

/-- 10 R302-R306; 15 R408; 16 R429, R441, R448: a token leaves a router by every way out of the entry it entered under at once,
waits while one of them is full, and is held with ROUTE (7) by an entry of 0; a CTRL token of another GEN moves the position; a
region at rest is DONE and its graph falls; DBGDATA reads and writes the item that DBGADDR names. That a token waits while the
image of its region is written is the model's choice (log entry 96), as is that DBGDATA gives the item outside DEBUG too (log
entry 63). -/
def Obligations.RouteRegionAndDebugEvents : Prop :=
  (∀ (s : State) (cl r : Nat) (src : RouterIn) (x : RTok) (rest : List RTok), r < 16 → AtRouter s cl r src x rest →
    (∀ w, w < 2 → bitOf ((s.router cl r).wp.get 0 (3 * w)) 31 = false) →
    let e := routeEntry s cl r x
    let outs (b : Nat) : Prop := b < 16 ∧ e.getLsbD b = true ∧ x.takes (egressOf cl r b) = true
    (s.cutHolds cl r x = true → ∃ t, exec (.routeToken cl r src) s = .next t ∧ SameBytes s t ∧
      vget (t.router cl r).inq (rinIdx src) = x :: rest) ∧
    (s.cutHolds cl r x = false → e ≠ 0 → (∀ b, outs b → s.egressRoom (egressOf cl r b) = true) →
      ∃ t, exec (.routeToken cl r src) s = .next t ∧ SameBytes s t ∧ vget (t.router cl r).inq (rinIdx src) = rest ∧
        (∀ b port, outs b → egressOf cl r b = .chan port →
          (t.inAt port).link = some x.tok ∧ (t.inAt port).linkSrc = x.sender ∧ (t.inAt port).q = (s.inAt port).q) ∧
        (∀ b c q m, outs b → egressOf cl r b = .mesh c q m →
          vget (t.router c q).inq m = vget (s.router c q).inq m ++
            [{ x with ent := some ((s.router c q).entryOf x.route), pos := (s.router c q).pos }]) ∧
        (x.tok.kind = .ctrl → s.cutAt (cl / 32) (s.regionAt cl r) = false → fld x.tok.payload 0 8 ≠ (s.router cl r).lastgen →
          (t.router cl r).lastgen = fld x.tok.payload 0 8 ∧
            (t.router cl r).pos = if bitOf x.tok.payload 10 then fld x.tok.payload 8 2 else (s.router cl r).pos + 1) ∧
        (x.tok.kind ≠ .ctrl ∨ fld x.tok.payload 0 8 = (s.router cl r).lastgen →
          (t.router cl r).pos = (s.router cl r).pos)) ∧
    (s.cutHolds cl r x = false → e ≠ 0 → (∃ b, outs b ∧ s.egressRoom (egressOf cl r b) = false) →
      ∃ t, exec (.routeToken cl r src) s = .next t ∧ SameBytes s t ∧
        vget (t.router cl r).inq (rinIdx src) = x :: rest) ∧
    (s.cutHolds cl r x = false → e = 0 → s.jobOfRegion (cl / 32) (s.regionAt cl r) < 256 →
      ∃ t, exec (.routeToken cl r src) s = .next t ∧ SameBytes s t ∧
      vget (t.router cl r).inq (rinIdx src) = x :: rest ∧ (t.router cl r).stuck = (s.router cl r).stuck ++ [(src, none)] ∧
      Reported s t (cl / 32) 7 x.tok.payload ∧
      ∀ g, s.regionAt cl r = some g → (s.region (cl / 32) g).st = .running → (t.region (cl / 32) g).st = .frozen)) ∧
  (∀ (s : State) (d g : Nat),
    (s.regionDone d g = true → ∃ t, exec (.regionComplete d g) s = .next t ∧
      t.region d g = { s.region d g with st := .done } ∧ SameBytes s t ∧
      ((s.counter d (cKey 2 0 g)).st = 0 →
        (2 ≤ (s.counter d (cKey 2 0 g)).count → (t.counter d (cKey 2 0 g)).st = 0 ∧
          (t.counter d (cKey 2 0 g)).count = (s.counter d (cKey 2 0 g)).count - 1) ∧
        ((s.counter d (cKey 2 0 g)).count ≤ 1 → (t.counter d (cKey 2 0 g)).count = 0 ∧
          (t.counter d (cKey 2 0 g)).st = if (s.counter d (cKey 2 0 g)).canc = 0 then 1 else 2))) ∧
    ((s.region d g).st ≠ .running ∨ (s.region d g).cut.isSome = true ∨
        (∃ e ∈ (s.region d g).elems, ∃ c, c < 4 ∧ (s.ctx e c).rstate ≠ .halt) →
      exec (.regionComplete d g) s = .next s)) ∧
  (∀ (s : State) (p k : Nat) (r : Req), isCore p = true → p < 4128 → (s.proc p).pending[k]? = some r → r.kind = .ld →
    r.stage = 0 → aSlot r.a = 0 → aOff r.a / 2 ^ 30 = 2 → aOff r.a % 2 ^ 16 / 8 = 2049 →
    ∃ t, exec (.dbgdataRead p k) s = .next t ∧
      Answered s t p r [if s.dbgClosed (512 * dieOf p + fldN (s.ctlReg (dieOf p) 2048) 32 9) then 0
        else debugItem s (dieOf p)]) ∧
  (∀ (s : State) (p k : Nat) (r : Req), StoresTo s p k r 2049 → p < 4128 →
    let d := dieOf p
    let a := s.ctlReg d 2048
    let e := 512 * d + fldN a 32 9
    ∃ t, exec (.dbgdataWrite p k) s = .next t ∧ Answered s t p r [0] ∧
      (s.dbgAllowed d = true → fldN a 62 2 = 0 →
        ((t.proc e).slots.get Slot.reset (fldN a 0 5)).word = some r.b) ∧
      (s.dbgAllowed d = true → fldN a 62 2 = 1 → fldN a 0 5 < 16 →
        vget (t.ctx e (fldN a 8 2)).x (fldN a 0 5) = r.b) ∧
      (s.dbgAllowed d = true → fldN a 62 2 = 2 →
        (t.ctx e (fldN a 8 2)).p = fld r.b 56 8 ∧ (t.ctx e (fldN a 8 2)).rstate = (s.ctx e (fldN a 8 2)).rstate) ∧
      (s.dbgAllowed d = true → fldN a 62 2 = 3 →
        ∀ i, i < 32 → ((t.proc e).slots.get Slot.reset i).brk = r.b.getLsbD i) ∧
      (s.dbgAllowed d = false → t.proc e = s.proc e))

/-! ### Requests served -/

/-- Request `r` of unit `p` has been answered with `ws`; responses that its write has released to waiters may stand before the
answer (07 R223-R224, 09 R261). -/
def Ended (s t : State) (p : Nat) (r : Req) (ws : List Word) : Prop :=
  (t.proc p).reqs = (s.proc p).reqs.filter (fun x => x.rid != r.rid) ∧
    (t.proc p).parked = (s.proc p).parked.filter (fun x => x.rid != r.rid) ∧
    ∃ l, (t.proc p).resps = (s.proc p).resps ++ l ++ (if r.resp = 0 then [] else [{ rid := r.rid, words := ws, tag := 0 }])

/-- Request `r` of unit `p` is held with a fault `code`, and its context goes from RUN to FAULT (04 R97, 07 R228; what a context
that does not run is left in is log entry 80). -/
def HeldWith (s t : State) (p : Nat) (r : Req) (code : Nat) : Prop :=
  (∃ q ∈ (t.proc p).held, q.rid = r.rid ∧ q.code = code) ∧ (t.ctx p r.ctx).rstate = (s.ctx p r.ctx).rstate.faulted ∧
    SameBytes s t

/-- Request `r`, of kind `kind`, stands at place `k` of unit `p`'s port and may be served. -/
def AtPort (s : State) (p k : Nat) (r : Req) (kind : ReqKind) : Prop :=
  (s.proc p).pending[k]? = some r ∧ r.kind = kind ∧ r.stage = 0

/-- `n` bytes from `k` hold `bs`, and every other byte is as it was. -/
def Stored (s t : State) (k n : Nat) (bs : List Byte) : Prop :=
  t.mread k n = bs ∧ ∀ a, a < k ∨ k + n ≤ a → t.mget a = s.mget a

/-- The bytes of the object at wide address `w` lie in HBM and may be accessed now: the home of a page migrated here has told what
it knows (log entry 90), they translate, none of their lines waits for a re-encryption, and every line verifies (19 R461,
R478-R479). -/
def InHbm (s : State) (p : Nat) (r : Req) (w len : Nat) (acc : Acc) : Prop :=
  s.mustAsk w = false ∧ s.translate (dieOf p) r.job w len acc r.flying = .ok (s, .hbm) ∧ s.hbmBusy w len = false ∧
    s.hbmBad w len = false

/-- The access of request `r` to `len` bytes reaches memory key `k` now: in scratchpad, in a core's local memory, or in an
object in HBM; no window holds an update of the bytes (07 R214, R228; 10 R292; 15 R395). -/
def ReachesKey (s : State) (p : Nat) (r : Req) (len : Nat) (acc : Acc) (k : Nat) : Prop :=
  s.pendingUnits k len = [] ∧
  ((r.wide = 0 ∧ aSlot r.a = 0 ∧ aOff r.a < 2 ^ 30 ∧ k = aOff r.a ∧ (acc ≠ .store → s.sbad k len = false)) ∨
   (r.wide = 0 ∧ aSlot r.a = 0 ∧ aOff r.a / 2 ^ 30 = 1 ∧ k = localKey p (aOff r.a % 2 ^ 18)) ∨
   ∃ w, ((w ≠ 0 ∧ r.wide = w) ∨ (r.wide = 0 ∧ aSlot r.a ≠ 0 ∧ ∃ j, r.job = some j ∧ s.resolveHandle j r.a len = .ok w)) ∧
     k = wideKey w ∧ InHbm s p r w len acc)

/-- What an access of `n` bytes at memory key `a` by request `r` comes to when it is not aligned (07 R232, 20 R490): one of its
bytes, byte `r.data.length`, is performed. The access waits with that byte noted as `b`, or ends as `last` says when no byte is
left. -/
def OneByte (t : State) (p : Nat) (r : Req) (n a : Nat) (b : Word) (last : Prop) : Prop :=
  (r.data.length + 1 < n → ∃ q ∈ (t.proc p).parked, q = { r.reached a with data := r.data ++ [b] }) ∧
    (n ≤ r.data.length + 1 → last)

/-- 07 R223, R234-R235, R239-R241, R217-R218; 19 R460, R474: a response fills its entries of ML; a release store writes, and a
fence answers, once the earlier accesses of its context are complete at its scope, and not before; an object seals when no
write to it is in flight; a persist answers when its object is DURABLE or is freed, and is held with STORE_FULL when the log
has stopped; a dead object to which nothing is in flight is reclaimed. A release store that is not aligned writes its bytes in
rising order, which is the model's choice (log entry 50). -/
def Obligations.MemoryEngineEvents : Prop :=
  (∀ (s : State) (p k : Nat) (x : Resp), (s.proc p).resps[k]? = some x →
    ∃ t, exec (.mlResponse p k) s = .next t ∧ OnlyUnit s t p ∧ (t.proc p).resps = (s.proc p).resps.eraseIdx k ∧
      (t.proc p).ml = (s.proc p).ml.map fun e =>
        if e.rid = x.rid ∧ e.val = none then { e with val := some (x.words.getD e.part 0), tag := x.tag } else e) ∧
  (∀ (s : State) (p k a : Nat) (r : Req), AtPort s p k r .strel →
    (s.awaits p r.ctx r.rid r.mode false = true → exec (.strelWrite p k) s = .next s) ∧
    (s.awaits p r.ctx r.rid r.mode false = false → ReachesKey s p r 8 .store a → (a < 2 ^ 30 → a % 2 ^ 22 < 0x3FF000) →
      (a % 8 = 0 → ∃ t, exec (.strelWrite p k) s = .next t ∧ Ended s t p r [0] ∧ Stored s t a 8 (bytesOf 8 r.b)) ∧
      (a % 8 ≠ 0 → ∃ t, exec (.strelWrite p k) s = .next t ∧ OneByte t p r 8 a 0 (Ended s t p r [0]) ∧
        Stored s t (a + r.data.length) 1 [(bytesOf 8 r.b).getD r.data.length 0]))) ∧
  (∀ (s : State) (p k : Nat) (r : Req), (s.proc p).pending[k]? = some r → r.kind = .fence ∨ r.kind = .flush → r.stage = 3 →
    (s.awaits p r.ctx r.rid r.mode (r.kind == .flush) = false →
      ∃ t, exec (.fenceResponse p k) s = .next t ∧ Answered s t p r [0]) ∧
    (s.awaits p r.ctx r.rid r.mode (r.kind == .flush) = true → exec (.fenceResponse p k) s = .next s)) ∧
  (∀ (s : State) (p k : Nat) (r : Req), (s.proc p).pending[k]? = some r → r.kind = .seal → r.stage = 3 →
    let n := wnSerial r.wide
    ((s.obj n).st = .opened → s.writesInFlight r.wide = true → exec (.sealComplete p k) s = .next s) ∧
    ((s.obj n).st = .opened → s.writesInFlight r.wide = false → ∃ t, exec (.sealComplete p k) s = .next t ∧
      Answered s t p r [1] ∧ t.obj n = { s.obj n with st := .sealed } ∧ t.store.waiting = s.store.waiting ++ [n] ∧
      ∀ g l, (g, l) ∈ t.leaves → g / 2 ^ 40 = r.wide / 2 ^ 56 → l.isSealed = true ∧ l.w = false) ∧
    ((s.obj n).st ≠ .opened → ∃ t, exec (.sealComplete p k) s = .next t ∧ Answered s t p r [put (objCode (s.obj n).st) 0])) ∧
  (∀ (s : State) (p k : Nat) (r : Req), (s.proc p).pending[k]? = some r → r.kind = .persist → r.stage = 3 →
    let n := wnSerial r.wide
    ((s.obj n).st ≠ .sealed → ∃ t, exec (.persistComplete p k) s = .next t ∧
      Answered s t p r [put (objCode (s.obj n).st) 0]) ∧
    ((s.obj n).st = .sealed → s.store.stopped = true → ∃ t, exec (.persistComplete p k) s = .next t ∧ HeldWith s t p r 24) ∧
    ((s.obj n).st = .sealed → s.store.stopped = false → exec (.persistComplete p k) s = .next s)) ∧
  (∀ (s : State) (n : Nat),
    ((s.obj n).st = .deadPending → s.inFlight n = false → s.graphUses n = false →
      ∃ t, exec (.objectReclaim n) s = .next t ∧ t.obj n = { s.obj n with st := .reclaimed, pages := [] } ∧
        t.store.dead = s.store.dead ++ (s.obj n).pages ∧ (∀ m, m ≠ n → t.obj m = s.obj m) ∧
        t.leaves = s.leaves.filter (fun e => e.1 / 2 ^ 40 != wideNum s.nodeId n 0 / 2 ^ 56) ∧
        t.store.waiting = s.store.waiting.erase n ∧ SameBytes s t) ∧
    ((s.obj n).st ≠ .deadPending ∨ s.inFlight n = true ∨ s.graphUses n = true → exec (.objectReclaim n) s = .next s))

/-- 07 R214, R224-R228, R232-R239; 09 R260, R268, R272, R275; 20 R490; 22 R547: a load answers the bytes it reads, extended as
MOD says; a store writes its bytes and no other; one that is not aligned goes byte by byte; an atomic applies its operation
once, and CAS writes when the word is the expected one; a fence begins to wait; a stale handle and a misaligned atomic hold
the request with its fault; a copy issues its next request, which goes to the end of its line, reads at the far side and
puts each word into its ring, once all of them are read; a query of a peer is answered at this home, and a read or write of one is
performed part by part and then answered. The bytes of an access that is not aligned go in rising order (log entry 50); a copy's
line and the last word of its far stream are as log entries 57 and 84 say. -/
def Obligations.MemoryRequestsServed : Prop :=
  (∀ (s : State) (p k a : Nat) (r : Req), AtPort s p k r .ld → ReachesKey s p r (2 ^ (r.mode % 4)) .load a →
    let n := 2 ^ (r.mode % 4)
    let ws := r.data ++ [(s.mget (a + r.data.length)).setWidth 64]
    (a % n = 0 → ∃ t, exec (.memoryRequestServe (.unit p k)) s = .next t ∧
      Answered s t p r [extendTo n (r.mode / 4 % 2 == 1) (wordOf (s.mread a n))]) ∧
    (a % n ≠ 0 → ∃ t, exec (.memoryRequestServe (.unit p k)) s = .next t ∧ SameBytes s t ∧
      OneByte t p r n a ((s.mget (a + r.data.length)).setWidth 64)
        (Answered s t p r [extendTo n (r.mode / 4 % 2 == 1) (wordOf (ws.map (·.setWidth 8)))]))) ∧
  (∀ (s : State) (p k a : Nat) (r : Req), AtPort s p k r .ldacq → ReachesKey s p r 8 .load a → a % 8 = 0 →
    ∃ t, exec (.memoryRequestServe (.unit p k)) s = .next t ∧ Answered s t p r [s.mword a]) ∧
  (∀ (s : State) (p k : Nat) (r : Req), AtPort s p k r .ldw →
    let w := (wideOf r.a r.a2).toNat
    InHbm s p { r with wide := w } w (2 ^ (r.mode % 4)) .load → s.pendingUnits (wideKey w) (2 ^ (r.mode % 4)) = [] →
    w % 2 ^ (r.mode % 4) = 0 → ∃ t, exec (.memoryRequestServe (.unit p k)) s = .next t ∧
      Answered s t p r [extendTo (2 ^ (r.mode % 4)) (r.mode / 4 % 2 == 1) (wordOf (s.mread (wideKey w) (2 ^ (r.mode % 4))))]) ∧
  (∀ (s : State) (p k a : Nat) (r : Req), AtPort s p k r .st ∨ AtPort s p k r .stp →
    ReachesKey s p r (2 ^ (r.mode % 4)) .store a →
    let n := 2 ^ (r.mode % 4)
    (a % n = 0 → ∃ t, exec (.memoryRequestServe (.unit p k)) s = .next t ∧ Ended s t p r [0] ∧
      Stored s t a n (bytesOf n r.b)) ∧
    (a % n ≠ 0 → ∃ t, exec (.memoryRequestServe (.unit p k)) s = .next t ∧ OneByte t p r n a 0 (Ended s t p r [0]) ∧
      Stored s t (a + r.data.length) 1 [(bytesOf n r.b).getD r.data.length 0])) ∧
  (∀ (s : State) (p k : Nat) (r : Req), AtPort s p k r .stw →
    let w := (wideOf r.a r.a2).toNat
    InHbm s p { r with wide := w } w (2 ^ (r.mode % 4)) .store → s.pendingUnits (wideKey w) (2 ^ (r.mode % 4)) = [] →
    w % 2 ^ (r.mode % 4) = 0 → ∃ t, exec (.memoryRequestServe (.unit p k)) s = .next t ∧ Ended s t p r [0] ∧
      Stored s t (wideKey w) (2 ^ (r.mode % 4)) (bytesOf (2 ^ (r.mode % 4)) r.b)) ∧
  (∀ (s : State) (p k a : Nat) (r : Req), AtPort s p k r .atom → ReachesKey s p r (atomLen (r.mode % 16)) .atomic a →
    16 ≤ r.mode ∨ (s.suu (s.suuOf a)).en = false →
    let n := atomLen (r.mode % 16)
    (a % n = 0 → ∃ t, exec (.memoryRequestServe (.unit p k)) s = .next t ∧
      Ended s t p r [if 16 ≤ r.mode then wordOf (s.mread a n) else 0] ∧
      Stored s t a n (bytesOf n (atomNew (r.mode % 16) (wordOf (s.mread a n)) r.b))) ∧
    (a % n ≠ 0 → ∃ t, exec (.memoryRequestServe (.unit p k)) s = .next t ∧ HeldWith s t p r 7)) ∧
  (∀ (s : State) (p k a : Nat) (r : Req), AtPort s p k r .cas → ReachesKey s p r 8 .atomic a → a % 8 = 0 →
    ∃ t, exec (.memoryRequestServe (.unit p k)) s = .next t ∧ Ended s t p r [s.mword a] ∧
      Stored s t a 8 (bytesOf 8 (if s.mword a = r.b then r.b2 else s.mword a))) ∧
  (∀ (s : State) (p k j : Nat) (r : Req), AtPort s p k r .ld ∨ AtPort s p k r .st → r.wide = 0 → aSlot r.a ≠ 0 → r.job = some j →
    (s.handle j (aSlot r.a)).st ≠ .bound ∨ (s.handle j (aSlot r.a)).count.toNat ≠ aCheck r.a →
    ∃ t, exec (.memoryRequestServe (.unit p k)) s = .next t ∧ HeldWith s t p r 3) ∧
  (∀ (s : State) (p k : Nat) (r : Req), AtPort s p k r .fence ∨ AtPort s p k r .flush →
    ∃ t, exec (.memoryRequestServe (.unit p k)) s = .next t ∧ SameBytes s t ∧
      ∃ q ∈ (t.proc p).parked, q = { r with stage := 3 }) ∧
  (∀ (s : State) (d k pos w : Nat) (c : Copy), k < 128 → s.copy (128 * d + k) = some c → c.via = 0 →
    s.copyStalled (128 * d + k) = false →
    let n := pos * c.words + w
    let m := min (8 - n % 8) (c.due c.next - n)
    s.mayIssue c = true → (∀ q ∈ c.reqs, n < q.n ∨ q.n + max 1 q.len ≤ n) → n = c.issued → n < c.due c.next →
    (∀ i, i < m → c.known (n + i) = true) →
    ∃ t, exec (.memoryRequestServe (.copy d k pos w)) s = .next t ∧
      CopyBecomes s t (128 * d + k) { c with issued := n + m, reqs := c.reqs ++
        [{ n := n, len := m, got := [], out := [], put := 0, line := none, phase := .going }] }) ∧
  (∀ (s : State) (d k pos w a : Nat) (c : Copy) (δ : Int) (q : CopyReq), k < 128 → s.copy (128 * d + k) = some c →
    s.copyStalled (128 * d + k) = false → c.via = 0 → c.isStore = false → c.reqs = [q] → q.phase = .going → w < c.words →
    q.n ≤ pos * c.words + w → pos * c.words + w < q.n + q.len →
    (q.got.length < 8 * q.len → q.put < q.len → 8 * q.n + q.got.length < c.elems * c.esize →
      let b := 8 * q.n + q.got.length
      let n := c.run b (min (8 * q.len - q.got.length) (c.elems * c.esize - b)) δ
      c.farByteAt b = some δ → c.farScratch = true → c.farByte δ n = .ok a → s.sbad a n = false → s.pendingUnits a n = [] →
      q.line = some (a / 64) →
      ∃ t c', exec (.memoryRequestServe (.copy d k pos w)) s = .next t ∧ SameBytes s t ∧
        t.copy (128 * d + k) = some c' ∧ c'.reqs = [{ q with got := q.got ++ s.mread a n }]) ∧
    (8 * q.len ≤ q.got.length → q.put < q.len → q.n + q.put = pos * c.words + w → s.pendingUnits (c.ringAddr pos w) 8 = [] →
      (∃ y ∈ c.active, y.p = pos) →
      ∃ t c', exec (.memoryRequestServe (.copy d k pos w)) s = .next t ∧
        Stored s t (c.ringAddr pos w) 8 ((q.got.drop (8 * q.put)).take 8) ∧
        t.copy (128 * d + k) = some c' ∧ (∃ z ∈ c'.active, z.p = pos ∧ w ∈ z.done) ∧
        c'.reqs = if q.len ≤ q.put + 1 then [] else [{ q with put := q.put + 1 }])) ∧
  (∀ (s : State) (i : Nat) (h : HomeReq), s.fabric.homeq[i]? = some h →
    let k := h.pkt
    let o := s.obj (k.addr / 2 ^ 56 % 2 ^ 64)
    let served (P : State → Prop) : Prop := ∃ t, exec (.memoryRequestServe (.home i)) s = .next t ∧ P t
    let answered (t : State) (ty len : Nat) (ws : List Word) : Prop :=
      t.fabric.homeq = s.fabric.homeq.eraseIdx i ∧ Answers s t k ty len ws
    let goesOn (t : State) (x : Word) : Prop :=
      t.fabric.homeq = s.fabric.homeq.set i { h with data := h.data ++ [x] } ∧ t.fabric.outq = s.fabric.outq
    (k.ptype = 10 → k.op = 0 → k.dtag ≠ 0 → o.st ≠ .unissued → s.dtag o.die o.job = k.dtag →
      served fun t => answered t 5 8 [objWord o] ∧ SameBytes s t) ∧
    (h.flying = true → ∀ w,
      let n := homeGran w k.len
      let a := w + n * h.data.length
      let x := wordOf (s.mread (wideKey a) n)
      let bs := (((k.payload.flatMap (bytesOf 8)).take k.len).drop (n * h.data.length)).take n
      (k.ptype = 0 → HomeReaches s k h.page true w k.len .load →
        (n * (h.data.length + 1) < k.len → served fun t => SameBytes s t ∧ goesOn t x) ∧
        (k.len ≤ n * (h.data.length + 1) → served fun t => SameBytes s t ∧
          answered t 5 k.len (wordsOfBytes (((h.data ++ [x]).flatMap (bytesOf n)).take k.len)))) ∧
      (k.ptype = 1 ∨ k.ptype = 2 → HomeReaches s k h.page true w k.len .store →
        (n * (h.data.length + 1) < k.len → served fun t => Stored s t (wideKey a) bs.length bs ∧ goesOn t 0) ∧
        (k.len ≤ n * (h.data.length + 1) → served fun t => Stored s t (wideKey a) bs.length bs ∧ answered t 6 0 []))))

/-- Request `r` of unit `p` is gone, and its response words `ws` are sent under `tag` (07 R223-R224). -/
def Gone (s t : State) (p : Nat) (r : Req) (ws : List Word) (tag : BitVec 3) : Prop :=
  (t.proc p).reqs = (s.proc p).reqs.filter (fun x => x.rid != r.rid) ∧
    (t.proc p).parked = (s.proc p).parked.filter (fun x => x.rid != r.rid) ∧
    (t.proc p).resps = (s.proc p).resps ++ (if r.resp = 0 then [] else [{ rid := r.rid, words := ws, tag := tag }])

/-- Slot `m` of job `j` is bound to offset `base` of an object, its COUNT one greater, and no other slot has changed
(07 R239; 08 R245). -/
def Binds (s t : State) (j m node serial base : Nat) : Prop :=
  t.handle j m = { count := (s.handle j m).count + 1, st := .bound, node := node, serial := serial, base := base } ∧
    ∀ i n, handleKey i n ≠ handleKey j m → t.handle i n = s.handle i n

/-- The short address of slot `m` of job `j` after the slot's next bind (07 R214). -/
def nextShort (s : State) (j m : Nat) : Word := put m 48 ||| put ((s.handle j m).count + 1).toNat 32

/-- 07 R239; 19 R455, R457: ALLOC over quota answers the dead address and issues no serial; without an EMPTY slot it is held with
HANDLE_EXHAUSTED (4); else it creates an OPEN object under the next serial, zero-filled in HBM, and answers its short address. -/
def AllocServed (s : State) (p k : Nat) (r : Req) : Prop :=
  let served (t : State) : Prop := exec (.memoryRequestServe (.unit p k)) s = .next t
  let d := dieOf p
  let j := r.job.getD 0
  let n := pagesIn r.a.toNat
  let w := wideNum s.nodeId s.nextSerial 0
  let fits := s.quotaUsed d j + n ≤ (s.ctlReg d (4 * j + 2)).toNat
  AtPort s p k r .alloc →
  (¬fits → ∃ t, served t ∧ Gone s t p r [0xFFFF000000000000] 7 ∧ SameBytes s t ∧ t.objs = s.objs ∧ t.handles = s.handles ∧
    t.nextSerial = s.nextSerial) ∧
  (fits → s.emptySlot j = none → ∃ t, served t ∧ HeldWith s t p r 4 ∧ t.nextSerial = s.nextSerial) ∧
  (fits → ∀ m, s.emptySlot j = some m → (s.freeFrames d n).length = n → (∀ f ∈ s.freeFrames d n, s.frameBusy f = false) →
    ∃ t, served t ∧ Gone s t p r [nextShort s j m] 7 ∧ Binds s t j m s.nodeId s.nextSerial 0 ∧
      t.nextSerial = s.nextSerial + 1 ∧
      t.obj s.nextSerial = { st := .opened, size := r.a.toNat, die := d, job := j, pages := [], stored := false } ∧
      (∀ i, i < n → let l := t.leaf (pageOf w + i); l.v = true ∧ l.tier = 0 ∧ l.w = true ∧ l.job = j) ∧
      ∀ a, t.mget a = if wideKey w ≤ a ∧ a < wideKey w + 65536 * n then 0 else s.mget a)

/-- 07 R239; 22 R547: HBIND of an object of this node binds the lowest EMPTY slot and answers its short address; a reserved serial
without the grant and an object that is dead or was never issued are PROTECTION (7), an OFFSET past the size BOUNDS (5), and no
EMPTY slot HANDLE_EXHAUSTED (4). -/
def HbindServed (s : State) (p k : Nat) (r : Req) : Prop :=
  let served (t : State) : Prop := exec (.memoryRequestServe (.unit p k)) s = .next t
  let j := r.job.getD 0
  let w := (wideOf r.a r.a2).toNat
  let o := s.obj (wnSerial w)
  let held (code : Nat) : Prop := ∃ t, served t ∧ HeldWith s t p r code ∧ t.handles = s.handles
  AtPort s p k r .hbind →
  (wnSerial w < 2 ^ 16 → s.sysGrant (dieOf p) r.job = false → held 7) ∧
  (2 ^ 16 ≤ wnSerial w ∨ s.sysGrant (dieOf p) r.job = true → s.ownNode (wnNode w) = true →
    (o.st = .deadPending ∨ o.st = .reclaimed ∨ o.st = .unissued → held 7) ∧
    (o.st = .opened ∨ o.st = .sealed ∨ o.st = .durable →
      (o.size ≤ wnOff w → held 5) ∧
      (wnOff w < o.size → s.emptySlot j = none → held 4) ∧
      (wnOff w < o.size → ∀ m, s.emptySlot j = some m → ∃ t, served t ∧ Gone s t p r [nextShort s j m] 7 ∧ SameBytes s t ∧
        Binds s t j m (wnNode w) (wnSerial w) (wnOff w))))

/-- A region's records cannot be placed at `cbase` of die `d` for a job (15 R407, R415; 24 R537). -/
def Misplaced (s : State) (d job cbase : Nat) (rs : List ImgRec) : Prop :=
  (s.die d).failed = true ∨ (∃ c ∈ namedClusters rs, 31 < cbase + c ∨ s.otherJobIn job (32 * d + cbase + c) = true) ∨
    ∃ x ∈ namedElems rs, (s.proc (placeElem d cbase x)).region ≠ none

/-- The checks of a load in their order, each with the status it answers, and the load when all pass (15 R415-R416). -/
def LoadChecks (s : State) (d job cbase g : Nat) (all rs : List ImgRec) (answers : Nat → Prop) (loads : Prop) : Prop :=
  (s.minimal = true ∨ s.jobExists d job = false → answers 6) ∧
  (s.minimal = false → s.jobExists d job = true →
    (s.jobClosing d job = true → answers 3) ∧
    (s.jobClosing d job = false →
      ((s.region d g).st ≠ .free → answers 4) ∧
      ((s.region d g).st = .free →
        (Misplaced s d job cbase rs → answers 5) ∧
        (¬Misplaced s d job cbase rs → (badSlot all ≠ none → answers 1) ∧ (badSlot all = none → loads)))))

/-- Region `g` of die `d` has been loaded with the records `rs`: its description, its elements and its graph counter, which is open
with one count (13 R379; 15 R406, R415). -/
def Loaded (s t : State) (d g job cbase rsel image owner : Nat) (rs : List ImgRec) : Prop :=
  let R := t.region d g
  let c := t.counter d (cKey 2 0 g)
  R.job = job ∧ R.cbase = cbase ∧ R.rsel = rsel ∧ R.image = image ∧ R.elems = (namedElems rs).map (placeElem d cbase) ∧
    (∀ x ∈ namedElems rs, (t.proc (placeElem d cbase x)).region = some g) ∧
    c.st = 0 ∧ c.count = 1 ∧ c.canc = 0 ∧ c.job = job ∧ c.owner = owner ∧ c.up = s.jobPhase d job

/-- 15 R415-R416: CFGLOAD whose image is in hand answers the status of the first check that fails, or loads: with CTL the words of
its records go into the core's local memory, else the region is LOADED, its contexts in HALT. A stale address holds it with
HANDLE_STALE (3), and an image that is not SEALED or DURABLE with PROTECTION (7). -/
def CfgloadServed (s : State) (p k : Nat) (r : Req) : Prop :=
  let served (t : State) : Prop := exec (.memoryRequestServe (.unit p k)) s = .next t
  let d := dieOf p
  let g := fldN r.b 0 6
  let job := fldN r.b 16 8
  let cbase := fldN r.b 8 5
  let rsel := fldN r.b 24 6
  let ctl := bitOf r.b 13
  let answers (n : Nat) : Prop := ∃ t, served t ∧ Answered s t p r [put n 56 ||| put g 0]
  AtPort s p k r .cfgload → s.tableTurn d r.rid = true →
  (s.minimal = true → ctl = false → answers 6) ∧
  (s.minimal = false ∨ ctl = true →
    (r.wide = 0 → (s.handle job (aSlot r.a)).st ≠ .bound ∨ (s.handle job (aSlot r.a)).count.toNat ≠ aCheck r.a →
      ∃ t, served t ∧ HeldWith s t p r 3) ∧
    (r.wide ≠ 0 → s.ownNode (wnNode r.wide) = true →
      let o := (s.obj (wnSerial r.wide)).st
      (o ≠ .sealed → o ≠ .durable → ∃ t, served t ∧ HeldWith s t p r 7) ∧
      (o = .sealed ∨ o = .durable → r.data ≠ [] → fldN (r.data.headD 0) 0 32 = r.data.length →
        (parseImage r.data = none → answers 2) ∧
        ∀ all, parseImage r.data = some all →
          (hasRegion all rsel = false → answers 2) ∧
          (hasRegion all rsel = true → ctl = true →
            (badCtl all ≠ none → answers 1) ∧
            (badCtl all = none → ∀ x, (all.filter fun x => x.typ == 8) = [x] → ∃ t, served t ∧ Gone s t p r [put g 0] 0 ∧
              ∀ i, i < x.body.length - 1 → t.mword (localKey p (x.body.getD 0 0).toNat + 8 * i) = x.body.getD (i + 1) 0)) ∧
          (hasRegion all rsel = true → ctl = false →
            let rs := regionRecs all rsel
            LoadChecks s d job cbase g all rs answers (∃ t, served t ∧ Gone s t p r [put g 0] 0 ∧
              (t.region d g).st = .loaded ∧ Loaded s t d g job cbase rsel r.wide ((p - 4096) % 4) rs ∧
              ∀ x ∈ namedElems rs, ∀ c, c < 4 → (t.ctx (placeElem d cbase x) c).rstate = .halt)))))

/-- 16 R438, R442: RESTORE waits for its codec; a save area that is none or an image that does not parse or does not fit is status
7, a launch image that is not SEALED or DURABLE 8, and then come the checks of a load; the region is FROZEN while its frames and
sync words are written, one word after another, and the request is answered after the last. -/
def RestoreServed (s : State) (p k : Nat) (r : Req) : Prop :=
  let served (t : State) : Prop := exec (.memoryRequestServe (.unit p k)) s = .next t
  let d := dieOf p
  let g := fldN r.b 0 6
  let job := fldN r.b 16 8
  let cbase := fldN r.b 8 5
  let rsel := fldN r.b 24 6
  let u := CodecUser.restore (g % 2) r.rid
  let answers (n : Nat) : Prop := ∃ t, served t ∧ Answered s t p r [put n 56 ||| put g 0]
  AtPort s p k r .restore →
  ((s.joinCodec d u).hasCodec d u = false → served (s.joinCodec d u)) ∧
  ((s.joinCodec d u).hasCodec d u = true →
    (∀ x, (s.region d g).filling = some x → x.rid = r.rid →
      (∀ y ys, x.writes = y :: ys → s.pendingUnits y.1 8 = [] → ∃ t, served t ∧ Stored s t y.1 8 (bytesOf 8 y.2) ∧
        (t.region d g).filling = some { x with writes := ys } ∧ r ∈ (t.proc p).pending) ∧
      (x.writes = [] → x.source = none → ∃ t, served t ∧ Answered s t p r [put g 0] ∧
        t.region d g = { s.region d g with filling := none })) ∧
    ((∀ x, (s.region d g).filling = some x → x.rid ≠ r.rid) →
      (aSlot r.a = 0 → answers 7) ∧
      (aSlot r.a ≠ 0 → r.wide = 0 →
        (s.handle job (aSlot r.a)).st ≠ .bound ∨ (s.handle job (aSlot r.a)).count.toNat ≠ aCheck r.a →
        ∃ t, served t ∧ HeldWith s t p r 3) ∧
      (aSlot r.a ≠ 0 → r.wide ≠ 0 →
        let n := saveNeed (s.wordsLeft r.wide) r.data
        n ≤ r.data.length →
        (s.parseSave (r.data.take n) = none → answers 7) ∧
        ∀ img, s.parseSave (r.data.take n) = some img → s.ownNode (wnNode img.launch) = true →
          let o := (s.obj (wnSerial img.launch)).st
          let rest := r.data.drop (s.saveTaken r.wide n)
          (o ≠ .sealed → o ≠ .durable → answers 8) ∧
          (o = .sealed ∨ o = .durable → rest ≠ [] → fldN (rest.headD 0) 0 32 = rest.length →
            (parseImage rest = none → answers 2) ∧
            ∀ all, parseImage rest = some all →
              let rs := regionRecs all rsel
              let m := placingOf img d g cbase
              (hasRegion all rsel = false → answers 2) ∧
              (hasRegion all rsel = true →
                ((∃ b ∈ img.recs, recordFits rs b = false) → answers 7) ∧
                ((∀ b ∈ img.recs, recordFits rs b = true) → LoadChecks s d job cbase g all rs answers
                  ((s.placeTaken m img = true → answers 5) ∧
                   (s.placeTaken m img = false → ∃ t x, served t ∧ (t.region d g).st = .frozen ∧
                     (t.region d g).filling = some x ∧ x.rid = r.rid ∧ x.writes = img.recs.flatMap (SaveBody.writes m) ∧
                     Loaded s t d g job cbase rsel img.launch ((p - 4096) % 4) rs ∧
                     ∃ q ∈ (t.proc p).parked, q.rid = r.rid))))))))

/-- Request `r` of unit `p` no longer waits, and its response word is sent. -/
def Replied (t : State) (p : Nat) (r : Req) (w : Word) : Prop :=
  (∀ x ∈ (t.proc p).pending, x.rid ≠ r.rid) ∧ (r.resp ≠ 0 → { rid := r.rid, words := [w], tag := 0 } ∈ (t.proc p).resps)

/-- 16 R426-R427, R445: RESUME answers 3 for a target that is not there and 2 for one without a fault. retry of a context's fault
sends its held request again and skip releases it with the supplied words, and the context runs; skip of a fetch fault halts it;
retry of a copy lets its held requests go on; skip of a store copy counts them; an operator's fault is neither retried nor
skipped, nor a region's skipped (1); a roll that is not offered answers 1, and a cancel of no level 4. It waits for what a cut of
the target's region delays (log entry 98). -/
def ResumeServed (s : State) (p k : Nat) (r : Req) : Prop :=
  let served (t : State) : Prop := exec (.memoryRequestServe (.unit p k)) s = .next t
  let d := dieOf p
  let act := r.mode % 4
  AtPort s p k r .resume → s.rollOn p r = none →
  (s.targetOf d r.a = none → ∃ t, served t ∧ Answered s t p r [3]) ∧
  ∀ x, s.targetOf d r.a = some x →
    (s.targetFaulted d x r.a = false → ∃ t, served t ∧ Answered s t p r [2]) ∧
    (s.targetFaulted d x r.a = true → s.cutDelays d x r.a act = true → served s) ∧
    (s.targetFaulted d x r.a = true → s.cutDelays d x r.a act = false →
      (∀ q c slot f, x = .ctx q c slot → s.faultAt q c slot = some f →
        let left (t : State) : Prop := (t.ctx q c).faults = (s.ctx q c).faults.filter fun y => y.kind != f.kind
        let runs (t : State) : Prop := left t ∧
          (t.ctx q c).rstate = (if (s.ctx q c).rstate = .fault then .run else (s.ctx q c).rstate)
        (act = 0 → c < 4 → ∃ t, served t ∧ Replied t p r 0 ∧ SameBytes s t ∧ runs t ∧
          ∀ rid h, f.kind = .path rid → (s.proc q).held.find? (fun r => r.rid == rid) = some h → h.rid ≠ r.rid →
            { h with code := 0, stage := 0, resent := false, data := [], miss := none } ∈ (t.proc q).parked) ∧
        (act = 1 → c < 4 → ∀ rid, f.kind = .path rid → ∃ t, served t ∧ Replied t p r 0 ∧ SameBytes s t ∧ runs t ∧
          (∀ h ∈ (t.proc q).held, h.rid ≠ rid) ∧
          (t.proc q).ml = (s.proc q).ml.map fun e =>
            if e.rid = rid ∧ e.val = none then { e with val := some ([r.b, r.b2].getD e.part 0), tag := 0 } else e) ∧
        (act = 1 → c < 4 → f.kind = .fetch → ∃ t, served t ∧ Replied t p r 0 ∧ SameBytes s t ∧ left t ∧
          (t.ctx q c).rstate = .halt)) ∧
      (∀ id C, x = .copy id → s.copy id = some C → s.frozenFault d x r.a = false →
        (act = 0 → ∃ t, served t ∧ Answered s t p r [0] ∧
          t.copy id = some { C with reqs := C.reqs.map fun q => if q.isHeld then { q with phase := .going } else q }) ∧
        (act = 1 → C.isStore = true → ∃ t C', served t ∧ Answered s t p r [0] ∧ t.copy id = some C' ∧
          ∀ q ∈ C'.reqs, q.isHeld = false)) ∧
      (act < 2 → ∀ cl n, x = .oper cl n → ∃ t, served t ∧ Answered s t p r [1]) ∧
      (act = 1 → ∀ g, x = .region g → ∃ t, served t ∧ Answered s t p r [1]) ∧
      (act = 2 → (∀ g, s.targetRegion x = some g → (s.region d g).busy = false) → s.rollImage d x = none →
        ∃ t, served t ∧ Answered s t p r [1]) ∧
      (act = 3 → (workIdBad r.b = true ∨ s.levelsOf r.b (some (s.targetJob d x)) = []) →
        ∃ t, served t ∧ Answered s t p r [4]))

/-- 07 R213, R239, R242; 08 R245; 09 R260-R261, R269; 11 R334; 13 R386; 15 R409, R415-R419; 16 R426, R442: what a served request
of a handle, an object, a sync word, a copy's notice, an engine's priority, a work counter, a barrier, a region, an image and a
resume does and answers. The instructions of chapter 15 act in arrival order at the region table, and one that is not first
waits. -/
def Obligations.OtherRequestsServed : Prop :=
  ∀ (s : State) (p k : Nat) (r : Req),
    let served (t : State) : Prop := exec (.memoryRequestServe (.unit p k)) s = .next t
    let d := dieOf p
    let j := r.job.getD 0
    AllocServed s p k r ∧ HbindServed s p k r ∧ CfgloadServed s p k r ∧ RestoreServed s p k r ∧ ResumeServed s p k r ∧
    ((s.proc p).pending[k]? = some r → r.stage = 0 → r.kind ∈ [.cfgload, .run, .freeze, .freezeRel, .thaw, .barrier] →
      s.tableTurn d r.rid = false → served (s.joinTable d r.rid)) ∧
    (AtPort s p k r .hexp → ∀ w, s.resolveHandle j r.a 1 = .ok w →
      ∃ t, served t ∧ Answered s t p r [wnLo w, wnHi w]) ∧
    (AtPort s p k r .hdrop → aSlot r.a ≠ 0 →
      let h := s.handle j (aSlot r.a)
      (h.st = .bound → h.count.toNat = aCheck r.a → ∃ t, served t ∧ Answered s t p r [0] ∧
        (t.handle j (aSlot r.a)).st = (if h.count = 0xFFFF then .retired else .empty) ∧
        ∀ i n, i * 65536 + n ≠ handleKey j (aSlot r.a) → n < 65536 → t.handle i n = s.handle i n) ∧
      (h.st ≠ .bound ∨ h.count.toNat ≠ aCheck r.a → ∃ t, served t ∧ HeldWith s t p r 3)) ∧
    (AtPort s p k r .objq → wnNode (wideOf r.a r.a2).toNat = s.nodeId → ∃ t, served t ∧
      Answered s t p r [objWord (s.obj (wnSerial (wideOf r.a r.a2).toNat))]) ∧
    (let a := r.a.toNat
     s.sbad a 8 = false → s.pendingUnits a 8 = [] → a < 2 ^ 30 →
     (AtPort s p k r .syncadd → ∃ t, served t ∧ Ended s t p r [s.mword a] ∧ Stored s t a 8 (bytesOf 8 (s.mword a + r.b))) ∧
     (AtPort s p k r .syncset → ∃ t, served t ∧ Ended s t p r [s.mword a] ∧ Stored s t a 8 (bytesOf 8 r.b)) ∧
     (AtPort s p k r .syncrd → (r.mode = 0 ∨ (r.mode = 1 ∧ r.b.toInt ≤ (s.mword a).toInt) ∨ (r.mode = 2 ∧ s.mword a = r.b)) →
       ∃ t, served t ∧ Answered s t p r [s.mword a]) ∧
     (AtPort s p k r .syncrd → (r.mode = 1 ∧ (s.mword a).toInt < r.b.toInt) ∨ (r.mode = 2 ∧ s.mword a ≠ r.b) →
       (s.cluster (a / 2 ^ 22)).waiters.length < 64 → (s.cluster (a / 2 ^ 22)).waitq = [] →
       ∃ t, served t ∧ SameBytes s t ∧
         (t.cluster (a / 2 ^ 22)).waiters = (s.cluster (a / 2 ^ 22)).waiters ++ [{ proc := p, req := r }])) ∧
    (AtPort s p k r .sfree → ∀ c, s.copy (fldN r.a 0 10) = some c → c.status = 0 → c.job = r.job → c.tile = false →
      fldN r.b 0 8 < c.slots → earlierNotice (s.proc p) r = false → ∃ t, served t ∧ Answered s t p r [0] ∧
        t.copy (fldN r.a 0 10) = some { c with notices := c.notices ||| (1#256 <<< fldN r.b 0 8) }) ∧
    (AtPort s p k r .mxpri →
      let e := engAddr r.a
      (engBad r.a = true → ∃ t, served t ∧ Answered s t p r [0x200]) ∧
      (s.engFault p r.job r.a = none → (s.mx e.1 e.2.1).slot e.2.2 = none → ∃ t, served t ∧ Answered s t p r [0x100]) ∧
      (∀ T, s.engFault p r.job r.a = none → (s.mx e.1 e.2.1).slot e.2.2 = some T →
        ∃ t, served t ∧ Answered s t p r [T.pri.zeroExtend 64] ∧
          (t.mx e.1 e.2.1).slot e.2.2 = some { T with pri := r.b.setWidth 2 })) ∧
    (AtPort s p k r .wcount → r.mode % 2 = 0 →
      (∀ x, s.findLevel (fldN r.a 24 3) (fldN r.a 29 3) (fldN r.a 0 16) r.job = some x →
        ∃ t, served t ∧ Answered s t p r [counterWord x (s.counter (fldN r.a 24 3) x)]) ∧
      (s.findLevel (fldN r.a 24 3) (fldN r.a 29 3) (fldN r.a 0 16) r.job = none →
        ∃ t, served t ∧ Answered s t p r [put 3 62])) ∧
    (AtPort s p k r .barrier → s.tableTurn d r.rid = true →
      (r.a.toNat < 256 → s.jobExists d r.a.toNat = true → s.jobClosing d r.a.toNat = false →
        ∃ t, served t ∧ Answered s t p r [put (s.jobPhase d r.a.toNat) 0] ∧ t.jobClosing d r.a.toNat = true ∧
          t.jobPhase d r.a.toNat = s.jobPhase d r.a.toNat) ∧
      (r.a.toNat < 256 → s.jobExists d r.a.toNat = true → s.jobClosing d r.a.toNat = true →
        ∃ t, served t ∧ Answered s t p r [put (s.jobPhase d r.a.toNat) 0 ||| put 1 16]) ∧
      (r.a.toNat < 256 → s.jobExists d r.a.toNat = false → ∃ t, served t ∧ Answered s t p r [put 1 17])) ∧
    (let g := r.a.toNat
     let R := s.region d g
     s.tableTurn d r.rid = true →
     (AtPort s p k r .freeze ∨ AtPort s p k r .thaw → 64 ≤ g → ∃ t, served t ∧ Answered s t p r [3]) ∧
     (g < 64 → R.busy = false →
     (AtPort s p k r .freeze →
       (R.st = .running → ∃ t, served t ∧ Answered s t p r [0] ∧ t.region d g = { R with st := .frozen }) ∧
       (R.st = .frozen → ∃ t, served t ∧ Answered s t p r [1] ∧ t.region d g = R) ∧
       (R.st ≠ .running → R.st ≠ .frozen → ∃ t, served t ∧ Answered s t p r [2] ∧ t.region d g = R)) ∧
     (AtPort s p k r .thaw →
       (R.st = .frozen → R.rel = false → ∃ t, served t ∧ Answered s t p r [0] ∧ (t.region d g).st = .running) ∧
       (R.st ≠ .frozen → ∃ t, served t ∧ Answered s t p r [2] ∧ t.region d g = R))))

/-- 06 R183, R201; 13 R369, R371-R374, R379-R380; 15 R399, R409, R412: a counter at 0 posts its record to its owner's queue, and
after a phase's the next phase begins; the dispatcher takes a ready task of the greatest remaining path, the first accepted
of equal ones, gives it its keys and sends it to the target with the fewest open tasks; a packet enters the lane of its
handler; a unit completes when its accesses are acknowledged, frees its keys, and makes its counter and the level above
fall, and those of a SAVED region wait with it. That no task takes the reservation in a decision which dispatches the oldest ready
one is the model's reading (log entry 95), as is that a record waits for those of the levels below it (log entry 47) and that a
saved region's units wait (log entry 111). -/
def Obligations.DispatchEvents : Prop :=
  (∀ (s : State) (d lvl k : Nat), k < 2 ^ 24 → lvl < 5 →
    let key := 2 ^ 24 * lvl + k
    let c := s.counter d key
    let u := coreUnit d (s.ownerOf d key)
    let next := s.counter d (cKey 3 c.job ((s.jobPhase d c.job + 1) % 65536))
    (c.st ≠ 3 → c.st ≠ 0 → c.posted = false → s.belowOpen d key = false → (s.proc u).evq.length < 1024 →
      (lvl = 3 → next.st = 3 ∨ next.st = 0 ∨ next.posted = true) →
      ∃ t now, exec (.workCounterDone d lvl k) s = .next t ∧ Viewed s (dieUnit d) now ∧ SameBytes s t ∧
        (t.proc u).evq = (s.proc u).evq ++ [now :: c.record d key] ∧ (t.counter d key).posted = true ∧
        (lvl = 3 → c.job < 256 → k % 65536 = s.jobPhase d c.job →
          t.jobPhase d c.job = (s.jobPhase d c.job + 1) % 65536 ∧ t.jobClosing d c.job = false) ∧
        (lvl ≠ 3 → t.die d = { s.die d with counters := (t.die d).counters })) ∧
    (c.st = 3 ∨ c.st = 0 ∨ c.posted = true ∨ s.belowOpen d key = true ∨ 1024 ≤ (s.proc u).evq.length →
      exec (.workCounterDone d lvl k) s = .next s)) ∧
  (∀ (s : State) (d : Nat), (s.die d).res = none →
    let R := (s.die d).tasks.filter fun u => s.taskReady d u
    let C := R.filter fun u => s.keysFree d u && s.room d u
    (C = [] → exec (.dispatchDecide d) s = .next s) ∧
    (C ≠ [] → ∃ t x e y, exec (.dispatchDecide d) s = .next t ∧ SameBytes s t ∧ x ∈ C ∧
      (∀ u ∈ C, u.rp < x.rp ∨ (u.rp = x.rp ∧ x.acc ≤ u.acc)) ∧ e ∈ x.targets d ∧
      (∀ f ∈ x.targets d, s.openTasksOf e ≤ s.openTasksOf f) ∧ t.task d x.acc = some y ∧ y.st = .dispatched e ∧
      ((∀ u ∈ R, x.acc ≤ u.acc) → (t.die d).res = none) ∧
      (∀ q ∈ x.keys, (t.key d q).st = .held ∧ (t.key d q).job = x.job ∧ (t.key d q).holder = BitVec.ofNat 16 x.idx) ∧
      ∃ n, (t.die d).delivery.get [] e = (s.die d).delivery.get [] e ++ [n] ∧ n.dst = e ∧ n.job = x.job ∧
        n.pkt.sel = x.sel ∧ n.pkt.w0 = x.w0 ∧ n.pkt.task = BitVec.ofNat 16 x.idx)) ∧
  (∀ (s : State) (d e : Nat) (n : NetPkt) (rest : List NetPkt), (s.die d).delivery.get [] e = n :: rest →
    let x := (s.proc e).sels.get Sel.reset n.pkt.sel.toNat
    (x.v = true → (vget (s.proc e).lanes x.handler.toNat).length < 4 → s.laneOpen e = true → Admits s d 16 1072 →
      ∃ t, exec (.taskDelivery d e) s = .next t ∧ OnlyUnitAndDie s t e d ∧ (t.die d).delivery.get [] e = rest ∧
        vget (t.proc e).lanes x.handler.toNat = vget (s.proc e).lanes x.handler.toNat ++ [n.pkt]) ∧
    (x.v = false ∨ 4 ≤ (vget (s.proc e).lanes x.handler.toNat).length → exec (.taskDelivery d e) s = .next s)) ∧
  (∀ (s : State) (d k dt : Nat) (c : Completing) (x : Task), (s.die d).completing[k]? = some c →
    (s.awaits c.proc c.ctx c.before 2 false = true → exec (.unitComplete d k) s = .next s) ∧
    (savedAt c.proc ≠ none → c.before ≠ 0 → exec (.unitComplete d k) s = .next s) ∧
    (s.awaits c.proc c.ctx c.before 2 false = false → savedAt c.proc = none ∨ c.before = 0 → s.endedTask d c.proc c.job c.task = some (dt, x) →
      ∃ t y, exec (.unitComplete d k) s = .next t ∧ SameBytes s t ∧
        (t.die d).completing = (s.die d).completing.eraseIdx k ∧ t.task dt x.acc = some y ∧ y.st = .done ∧
        (∀ q ∈ x.keys, (t.key dt q).st = .free ∧ (t.key dt q).taint = false) ∧
        ((s.counter dt x.key).st = 0 → (s.counter dt x.key).count = 1 →
          ((s.counter dt x.key).canc = 0 → (t.counter dt x.key).st = 1) ∧
          (∀ y, (s.counter dt x.key).above dt x.key = some y → (s.counter y.1 y.2).st = 0 → 2 ≤ (s.counter y.1 y.2).count →
            (t.counter y.1 y.2).count = (s.counter y.1 y.2).count - 1))))

/-! ### The machine as a whole -/

/-- 04 R103-R104; 02 R64; 15 R393, R396: when the agent that moves next is an element that chooses a slot, a core whose turn
falls to a context, or an event that a schedule may name, and the word decodes, the step runs that instruction in the state
with the agent taken from the agenda and the issuer and word in hand; only that unit has changed, and, for a tag
instruction that runs, the note of the last tag operation of its cluster, by which those of one cycle go in the order of 09 R258
(log entry 99); one whose guard fails waits for no such order. Without power a step is a fault unless it is the cold start. The agenda is the model's (log entry 1). -/
def Obligations.StepRunsFetched : Prop :=
  (∀ (s : State) (rest : List Action) (e k j : Nat) (w : Word) (i : Instr), s.powered = true →
    s.agenda = .element e :: rest → e < 4096 → State.pickSlot { s with agenda := rest } e = some (k, j) →
    ((s.proc e).slots.get Slot.reset j).word = some w → ((s.proc e).slots.get Slot.reset j).brk = false →
    decodeAt false w = .ok i → State.tagWaits { s with agenda := rest } e k w = false →
    ∃ u, step s = exec i u ∧ u.cur = { proc := e, ctx := BitVec.ofNat 2 k, slot := j, word := w } ∧
      (u.proc e).last = BitVec.ofNat 2 k ∧
      u = { s with procs := u.procs, cur := u.cur, agenda := rest, tagLast := u.tagLast } ∧
      (isTagOp w = false → u.tagLast = s.tagLast) ∧ ∀ q, q ≠ e → u.proc q = s.proc q) ∧
  (∀ (s : State) (rest : List Action) (p c : Nat) (w : Word) (i : Instr), s.powered = true →
    s.agenda = .core p :: rest → 4096 ≤ p → p < 4128 → State.pickCtx { s with agenda := rest } p = some c →
    (s.ctx p c).pc.toNat ≤ 0x3FFF8 → wordOf (s.mread (localKey p (s.ctx p c).pc.toNat) 8) = w → decodeAt true w = .ok i →
    let runs := admission ((shapeOf (viewOf w)).getD blankShape) (viewOf w) (State.atCore { s with agenda := rest } p c) = .run
    (runs → State.tagWaits { s with agenda := rest } p c w = false) →
    ∃ u, step s = exec i u ∧ u.cur = { proc := p, ctx := BitVec.ofNat 2 c, slot := (s.ctx p c).pc.toNat, word := w } ∧
      (u.proc p).last = BitVec.ofNat 2 c ∧ (u.ctx p c).pc = (s.ctx p c).pc ∧
      u = { s with procs := u.procs, cur := u.cur, agenda := rest, tagLast := u.tagLast } ∧
      (isTagOp w = false ∨ ¬runs → u.tagLast = s.tagLast) ∧ ∀ q, q ≠ p → u.proc q = s.proc q) ∧
  (∀ (s : State) (rest : List Action) (i : Instr), s.powered = true → s.agenda = .event i :: rest → isEvent i = true →
    State.eventTurn { s with agenda := rest } i = true → step s = exec i { s with agenda := rest }) ∧
  (∀ (s : State) (a : Action) (rest : List Action), s.powered = false → s.agenda = a :: rest →
    (∀ stages, a ≠ .event (.coldStart stages)) → step s = .fault .unpowered)

/-- No guard, context 0: CHA and CHB 7 (02 R48-R51). -/
def unguarded : Trigger := { ctx := 0, pcare := 0, pval := 0, cha := 7, tga := 0, chb := 7 }

/-- 02 R48-R52, R65-R68 and its worked examples; 03, 07, 10, 15, 19: words written out field by field from the encoding tables
decode to the instruction they stand for, and the four near misses of 02 are refused by their reasons. -/
def Obligations.DecodedWords : Prop :=
  decodeWord 0x00C04095084239C4 = .ok (.fadd
    { trig := { ctx := 0, pcare := 3, pval := 1, cha := 0, tga := 1, chb := 1 }, dst := 16, sa := 16, sb := 17, pact := 3
      pidx := 1, dq := 12, mod := 4 }) ∧
  decodeWord 0x00003873018FFF00 = .ok (.addi { trig := unguarded, dst := 3, sa := 3, imm := 0x3FF, dq := 0, mod := 0 }) ∧
  decodeWord 0x00003873018FFF10 = .error .badField ∧
  decodeWord 0x00003873018FFF80 = .error .badField ∧
  decodeWord 0x000038F3018FFF00 = .error .badOperand ∧
  decodeWord 0x00003873E18FFF00 = .error .badOpcode ∧
  decodeWord 0x0000387E8A086000 = .ok (.opcfg
    { trig := unguarded, dst := 20, sa := 2, sb := 3, pact := 0, pidx := 0, dq := 0, mod := 0 }) ∧
  decodeWord 0x0000387969140000 = .ok (.ctrlw
    { trig := unguarded, dst := 18, sa := 5, sb := 0, pact := 0, pidx := 0, dq := 0, mod := 0 }) ∧
  decodeWord 0x07C1F87B0A181103 = .ok (.ld
    { trig := { unguarded with pcare := 0x1F, pval := 7 }, dst := 20, sa := 6, sb := 0, pact := 2, pidx := 1, dq := 0
      mod := 3 }) ∧
  decodeWord 0x0000347F34000000 = .ok (.evpop
    { trig := { unguarded with cha := 6, tga := 8 }, dst := 8, sa := 0, sb := 0, pact := 0, pidx := 0, dq := 0, mod := 0 }) ∧
  decodeWord 0x0000387D9A080002 = .ok (.planDrop
    { trig := unguarded, dst := 20, sa := 2, sb := 0, pact := 0, pidx := 0, dq := 0, mod := 2 })

/-- 04 R95-R96; 06 R173, R185; 09 R254, R256; 13 R365; 15 R392, R402, R406, R410-R412; 16 R446; 19 R457, R483; 22 R513, R532; 24
R536, R541, R545: the machine right after reset, as far as the spec gives it; and its memory is in its canonical form. That
LAST is 3 in every unit and the machine has power is the model's choice (log entry 6), as is what unlisted memory reads as (log
entry 5). -/
def Obligations.ResetState : Prop :=
  let s := State.reset
  s.memOk ∧ s.powered = true ∧ s.minimal = false ∧ s.reduced = true ∧ s.secureMode = false ∧ s.snapshotMode = false ∧
    s.debugMode = false ∧ s.nodeValid = false ∧ s.domState = 0 ∧ s.pkgReg 1106 = 1000 ∧ s.mbox.command = 0 ∧ s.mbox.status = 1 ∧
    (∀ p, (s.proc p).last = 3 ∧ (s.proc p).ptr = 0 ∧ (s.proc p).hold = [] ∧ (s.proc p).openTasks = [] ∧
      (∀ c, c < 4 → (s.ctx p c).rstate = .halt ∧ (s.ctx p c).p = 0 ∧ (∀ n, n < 16 → vget (s.ctx p c).x n = 0) ∧
        (s.ctx p c).fpmode = 0 ∧ (s.ctx p c).fpflags = 0 ∧ (s.ctx p c).patience = 0 ∧ (s.ctx p c).deadline = 0) ∧
      ∀ ch, ch < 4 → vget (s.proc p).ins ch = { q := [], link := none, linkSrc := none, conf := 0xFF, drank := 0 }) ∧
    (∀ cl f, (s.cluster cl).tag f = none ∧ (f ≠ 1023 → (s.cluster cl).tile f = 0)) ∧
    (∀ d k, (s.key d k).st = .free ∧ (s.key d k).taint = false ∧ (s.region d k).st = .free) ∧
    (∀ d j, j < 256 → s.jobExists d j = false) ∧
    (∀ d n, 1056 ≤ n → n ≤ 1072 → fldN (s.ctlReg d n) 0 16 = 0 ∧ fldN (s.ctlReg d n) 16 16 = 0xFFFF) ∧
    (∀ n, (s.obj n).st = .unissued) ∧ ∀ g, (s.leaf g).v = false

/-- 02 R47, R52, R65-R67: decoding the word of a well-formed instruction gives that instruction back, with every operand at
every value its encoding admits; and a word that decodes is the word of the instruction it decodes to, which is well formed.
-/
def Obligations.EncodeDecode : Prop :=
  (∀ (i : Instr) (w : Word), i.wf = true → encode i = some w → decodeWord w = .ok i) ∧
  ∀ (w : Word) (i : Instr), decodeWord w = .ok i → encode i = some w ∧ i.wf = true

/-- Every step keeps memory in its canonical form: addresses strictly rising, and none listed that holds what an unlisted one
reads as. The form is the model's; that equal memories are equal data rests on it. -/
def Obligations.StepKeepsMemoryCanonical : Prop :=
  ∀ s t : State, s.memOk → step s = .next t → t.memOk
end

