-- ==== Sys2Proof/Laws/Maps.lean ====
section
/-! SUPPORT. Finite maps: a read after a write, and the canonical form that every write keeps. -/

namespace Sys2Proof.Laws

open Sys2Proof.Machine

/-- Removing a key leaves the values of the others. -/
theorem kmap_get_erase {α : Type} (d : α) (m : KMap α) (n k : Nat) :
    (KMap.erase m n).get d k = if k = n then d else m.get d k := by
  induction m with
  | nil => simp [KMap.erase, KMap.get]
  | cons e m ih =>
    obtain ⟨j, v⟩ := e
    simp only [KMap.erase, List.filter_cons, bne_iff_ne, ne_eq] at *
    by_cases h : j = n
    · subst h; simp only [not_true_eq_false, ↓reduceIte, KMap.get, ih]; split <;> rfl
    · simp only [h, not_false_eq_true, ↓reduceIte, KMap.get, ih]
      by_cases hk : k = j
      · subst hk; simp [h]
      · simp [hk]

/-- Putting an entry gives its key the value and leaves the others. -/
theorem kmap_get_insert {α : Type} (d : α) (m : KMap α) (n k : Nat) (x : α) :
    (KMap.insert m n x).get d k = if k = n then x else m.get d k := by
  induction m with
  | nil => simp [KMap.insert, KMap.get]
  | cons e m ih =>
    obtain ⟨j, v⟩ := e
    simp only [KMap.insert]
    split
    · simp [KMap.get]
    · split
      · next h => subst h; simp only [KMap.get]; split <;> rfl
      · next h =>
        simp only [KMap.get, ih]
        by_cases hk : k = j
        · subst hk; simp [Ne.symm h]
        · simp [hk]

/-- A read after a write. -/
theorem kmap_get_set {α : Type} [DecidableEq α] (d : α) (m : KMap α) (n k : Nat) (x : α) :
    (m.set d n x).get d k = if k = n then x else m.get d k := by
  unfold KMap.set
  split
  · next h => subst h; exact kmap_get_erase x m n k
  · exact kmap_get_insert d m n k x

/-- A read of the key just written. -/
@[simp] theorem kmap_get_set_self {α : Type} [DecidableEq α] (d : α) (m : KMap α) (n : Nat) (x : α) :
    (m.set d n x).get d n = x := by simp [kmap_get_set]

/-- A read of another key. -/
theorem kmap_get_set_ne {α : Type} [DecidableEq α] (d d' : α) (m : KMap α) {n k : Nat} (x : α) (h : k ≠ n) :
    (m.set d n x).get d' k = m.get d' k := by
  unfold KMap.set
  split
  · simp [kmap_get_erase, h]
  · simp [kmap_get_insert, h]

/-- The canonical form, said of all entries: no entry is the default, and keys rise. -/
theorem kmap_wf_iff {α : Type} [DecidableEq α] (d : α) (m : KMap α) :
    m.wf d = true ↔ (∀ e ∈ m, e.2 ≠ d) ∧ m.Pairwise fun a b => a.1 < b.1 := by
  induction m with
  | nil => simp [KMap.wf]
  | cons e m ih =>
    obtain ⟨k, v⟩ := e
    cases m with
    | nil => simp [KMap.wf]
    | cons e' m =>
      obtain ⟨k', v'⟩ := e'
      simp only [KMap.wf, Bool.and_eq_true, bne_iff_ne, ne_eq, decide_eq_true_eq, ih]
      constructor
      · rintro ⟨⟨hv, hk⟩, hd, hp⟩
        refine ⟨?_, List.pairwise_cons.2 ⟨?_, hp⟩⟩
        · intro e he
          rcases List.mem_cons.1 he with rfl | he
          · exact hv
          · exact hd e he
        · intro b hb
          rcases List.mem_cons.1 hb with rfl | hb
          · exact hk
          · exact Nat.lt_trans hk ((List.pairwise_cons.1 hp).1 b hb)
      · rintro ⟨hd, hp⟩
        have h1 := List.pairwise_cons.1 hp
        exact ⟨⟨hd _ (List.mem_cons_self), h1.1 _ (List.mem_cons_self)⟩,
          fun e he => hd e (List.mem_cons_of_mem _ he), h1.2⟩

/-- The entries of an insertion. -/
theorem kmap_mem_insert {α : Type} (m : KMap α) (n : Nat) (x : α) (e : Nat × α) (h : e ∈ KMap.insert m n x) :
    e = (n, x) ∨ e ∈ m := by
  induction m with
  | nil => simpa [KMap.insert] using h
  | cons f m ih =>
    obtain ⟨j, v⟩ := f
    simp only [KMap.insert] at h
    split at h
    · rcases List.mem_cons.1 h with h | h
      · exact .inl h
      · exact .inr h
    · split at h
      · rcases List.mem_cons.1 h with h | h
        · exact .inl h
        · exact .inr (List.mem_cons_of_mem _ h)
      · rcases List.mem_cons.1 h with h | h
        · exact .inr (h ▸ List.mem_cons_self)
        · rcases ih h with h | h
          · exact .inl h
          · exact .inr (List.mem_cons_of_mem _ h)

/-- A filtered map is canonical. -/
theorem kmap_wf_filter {α : Type} [DecidableEq α] (d : α) (m : KMap α) (f : Nat × α → Bool) (h : m.wf d = true) :
    KMap.wf d (m.filter f) = true := by
  rw [kmap_wf_iff] at *
  exact ⟨fun e he => h.1 e ((List.mem_filter.1 he).1), h.2.filter f⟩

/-- A removal keeps the canonical form. -/
theorem kmap_wf_erase {α : Type} [DecidableEq α] (d : α) (m : KMap α) (n : Nat) (h : m.wf d = true) :
    KMap.wf d (KMap.erase m n) = true := kmap_wf_filter d m _ h

/-- An insertion of a value that is no default keeps the canonical form. -/
theorem kmap_wf_insert {α : Type} [DecidableEq α] (d : α) (m : KMap α) (n : Nat) (x : α) (hx : x ≠ d)
    (h : m.wf d = true) : KMap.wf d (KMap.insert m n x) = true := by
  rw [kmap_wf_iff] at *
  refine ⟨fun e he => ?_, ?_⟩
  · rcases kmap_mem_insert m n x e he with rfl | he
    · exact hx
    · exact h.1 e he
  · obtain ⟨-, hp⟩ := h
    induction m with
    | nil => simp [KMap.insert]
    | cons f m ih =>
      obtain ⟨j, v⟩ := f
      have h1 := List.pairwise_cons.1 hp
      simp only [KMap.insert]
      split
      · next hn =>
        refine List.pairwise_cons.2 ⟨fun b hb => ?_, hp⟩
        rcases List.mem_cons.1 hb with rfl | hb
        · exact hn
        · exact Nat.lt_trans hn (h1.1 b hb)
      · split
        · next hn => subst hn; exact List.pairwise_cons.2 ⟨h1.1, h1.2⟩
        · refine List.pairwise_cons.2 ⟨fun b hb => ?_, ih h1.2⟩
          rcases kmap_mem_insert m n x b hb with rfl | hb
          · show j < n; omega
          · exact h1.1 b hb

/-- A write keeps the canonical form. -/
theorem kmap_wf_set {α : Type} [DecidableEq α] (d : α) (m : KMap α) (n : Nat) (x : α) (h : m.wf d = true) :
    (m.set d n x).wf d = true := by
  unfold KMap.set
  split
  · exact kmap_wf_erase d m n h
  · next hx => exact kmap_wf_insert d m n x hx h

end Sys2Proof.Laws
end

