-- ==== Sys2Proof/Laws/State.lean ====
section
/-! SUPPORT. One lemma for each field under each update of the state, and what each accessor reads after each update. -/

namespace Sys2Proof.Laws

open Sys2Proof Sys2Proof.Machine

/-! ### setProc -/

@[simp] theorem setProc_clusters (s : State) (p : Nat) (P : Proc): (s.setProc p P).clusters = s.clusters := rfl
@[simp] theorem setProc_dies (s : State) (p : Nat) (P : Proc): (s.setProc p P).dies = s.dies := rfl
@[simp] theorem setProc_mem (s : State) (p : Nat) (P : Proc): (s.setProc p P).mem = s.mem := rfl
@[simp] theorem setProc_objs (s : State) (p : Nat) (P : Proc): (s.setProc p P).objs = s.objs := rfl
@[simp] theorem setProc_nextSerial (s : State) (p : Nat) (P : Proc): (s.setProc p P).nextSerial = s.nextSerial := rfl
@[simp] theorem setProc_highWater (s : State) (p : Nat) (P : Proc): (s.setProc p P).highWater = s.highWater := rfl
@[simp] theorem setProc_handles (s : State) (p : Nat) (P : Proc): (s.setProc p P).handles = s.handles := rfl
@[simp] theorem setProc_tableHome (s : State) (p : Nat) (P : Proc): (s.setProc p P).tableHome = s.tableHome := rfl
@[simp] theorem setProc_known (s : State) (p : Nat) (P : Proc): (s.setProc p P).known = s.known := rfl
@[simp] theorem setProc_leaves (s : State) (p : Nat) (P : Proc): (s.setProc p P).leaves = s.leaves := rfl
@[simp] theorem setProc_buckets (s : State) (p : Nat) (P : Proc): (s.setProc p P).buckets = s.buckets := rfl
@[simp] theorem setProc_touched (s : State) (p : Nat) (P : Proc): (s.setProc p P).touched = s.touched := rfl
@[simp] theorem setProc_hands (s : State) (p : Nat) (P : Proc): (s.setProc p P).hands = s.hands := rfl
@[simp] theorem setProc_plans (s : State) (p : Nat) (P : Proc): (s.setProc p P).plans = s.plans := rfl
@[simp] theorem setProc_store (s : State) (p : Nat) (P : Proc): (s.setProc p P).store = s.store := rfl
@[simp] theorem setProc_regs (s : State) (p : Nat) (P : Proc): (s.setProc p P).regs = s.regs := rfl
@[simp] theorem setProc_jobKeys (s : State) (p : Nat) (P : Proc): (s.setProc p P).jobKeys = s.jobKeys := rfl
@[simp] theorem setProc_fabric (s : State) (p : Nat) (P : Proc): (s.setProc p P).fabric = s.fabric := rfl
@[simp] theorem setProc_tai (s : State) (p : Nat) (P : Proc): (s.setProc p P).tai = s.tai := rfl
@[simp] theorem setProc_time (s : State) (p : Nat) (P : Proc): (s.setProc p P).time = s.time := rfl
@[simp] theorem setProc_cycle (s : State) (p : Nat) (P : Proc): (s.setProc p P).cycle = s.cycle := rfl
@[simp] theorem setProc_lag (s : State) (p : Nat) (P : Proc): (s.setProc p P).lag = s.lag := rfl
@[simp] theorem setProc_tagLast (s : State) (p : Nat) (P : Proc): (s.setProc p P).tagLast = s.tagLast := rfl
@[simp] theorem setProc_mbox (s : State) (p : Nat) (P : Proc): (s.setProc p P).mbox = s.mbox := rfl
@[simp] theorem setProc_firmware (s : State) (p : Nat) (P : Proc): (s.setProc p P).firmware = s.firmware := rfl
@[simp] theorem setProc_measured (s : State) (p : Nat) (P : Proc): (s.setProc p P).measured = s.measured := rfl
@[simp] theorem setProc_stageStart (s : State) (p : Nat) (P : Proc): (s.setProc p P).stageStart = s.stageStart := rfl
@[simp] theorem setProc_thermal (s : State) (p : Nat) (P : Proc): (s.setProc p P).thermal = s.thermal := rfl
@[simp] theorem setProc_powered (s : State) (p : Nat) (P : Proc): (s.setProc p P).powered = s.powered := rfl
@[simp] theorem setProc_agenda (s : State) (p : Nat) (P : Proc): (s.setProc p P).agenda = s.agenda := rfl
@[simp] theorem setProc_cur (s : State) (p : Nat) (P : Proc): (s.setProc p P).cur = s.cur := rfl
@[simp] theorem setProc_choice (s : State) (p : Nat) (P : Proc): (s.setProc p P).choice = s.choice := rfl
@[simp] theorem setProc_fresh (s : State) (p : Nat) (P : Proc): (s.setProc p P).fresh = s.fresh := rfl

/-! ### modProc -/

@[simp] theorem modProc_clusters (s : State) (p : Nat) (f : Proc → Proc): (s.modProc p f).clusters = s.clusters := rfl
@[simp] theorem modProc_dies (s : State) (p : Nat) (f : Proc → Proc): (s.modProc p f).dies = s.dies := rfl
@[simp] theorem modProc_mem (s : State) (p : Nat) (f : Proc → Proc): (s.modProc p f).mem = s.mem := rfl
@[simp] theorem modProc_objs (s : State) (p : Nat) (f : Proc → Proc): (s.modProc p f).objs = s.objs := rfl
@[simp] theorem modProc_nextSerial (s : State) (p : Nat) (f : Proc → Proc): (s.modProc p f).nextSerial = s.nextSerial := rfl
@[simp] theorem modProc_highWater (s : State) (p : Nat) (f : Proc → Proc): (s.modProc p f).highWater = s.highWater := rfl
@[simp] theorem modProc_handles (s : State) (p : Nat) (f : Proc → Proc): (s.modProc p f).handles = s.handles := rfl
@[simp] theorem modProc_tableHome (s : State) (p : Nat) (f : Proc → Proc): (s.modProc p f).tableHome = s.tableHome := rfl
@[simp] theorem modProc_known (s : State) (p : Nat) (f : Proc → Proc): (s.modProc p f).known = s.known := rfl
@[simp] theorem modProc_leaves (s : State) (p : Nat) (f : Proc → Proc): (s.modProc p f).leaves = s.leaves := rfl
@[simp] theorem modProc_buckets (s : State) (p : Nat) (f : Proc → Proc): (s.modProc p f).buckets = s.buckets := rfl
@[simp] theorem modProc_touched (s : State) (p : Nat) (f : Proc → Proc): (s.modProc p f).touched = s.touched := rfl
@[simp] theorem modProc_hands (s : State) (p : Nat) (f : Proc → Proc): (s.modProc p f).hands = s.hands := rfl
@[simp] theorem modProc_plans (s : State) (p : Nat) (f : Proc → Proc): (s.modProc p f).plans = s.plans := rfl
@[simp] theorem modProc_store (s : State) (p : Nat) (f : Proc → Proc): (s.modProc p f).store = s.store := rfl
@[simp] theorem modProc_regs (s : State) (p : Nat) (f : Proc → Proc): (s.modProc p f).regs = s.regs := rfl
@[simp] theorem modProc_jobKeys (s : State) (p : Nat) (f : Proc → Proc): (s.modProc p f).jobKeys = s.jobKeys := rfl
@[simp] theorem modProc_fabric (s : State) (p : Nat) (f : Proc → Proc): (s.modProc p f).fabric = s.fabric := rfl
@[simp] theorem modProc_tai (s : State) (p : Nat) (f : Proc → Proc): (s.modProc p f).tai = s.tai := rfl
@[simp] theorem modProc_time (s : State) (p : Nat) (f : Proc → Proc): (s.modProc p f).time = s.time := rfl
@[simp] theorem modProc_cycle (s : State) (p : Nat) (f : Proc → Proc): (s.modProc p f).cycle = s.cycle := rfl
@[simp] theorem modProc_lag (s : State) (p : Nat) (f : Proc → Proc): (s.modProc p f).lag = s.lag := rfl
@[simp] theorem modProc_tagLast (s : State) (p : Nat) (f : Proc → Proc): (s.modProc p f).tagLast = s.tagLast := rfl
@[simp] theorem modProc_mbox (s : State) (p : Nat) (f : Proc → Proc): (s.modProc p f).mbox = s.mbox := rfl
@[simp] theorem modProc_firmware (s : State) (p : Nat) (f : Proc → Proc): (s.modProc p f).firmware = s.firmware := rfl
@[simp] theorem modProc_measured (s : State) (p : Nat) (f : Proc → Proc): (s.modProc p f).measured = s.measured := rfl
@[simp] theorem modProc_stageStart (s : State) (p : Nat) (f : Proc → Proc): (s.modProc p f).stageStart = s.stageStart := rfl
@[simp] theorem modProc_thermal (s : State) (p : Nat) (f : Proc → Proc): (s.modProc p f).thermal = s.thermal := rfl
@[simp] theorem modProc_powered (s : State) (p : Nat) (f : Proc → Proc): (s.modProc p f).powered = s.powered := rfl
@[simp] theorem modProc_agenda (s : State) (p : Nat) (f : Proc → Proc): (s.modProc p f).agenda = s.agenda := rfl
@[simp] theorem modProc_cur (s : State) (p : Nat) (f : Proc → Proc): (s.modProc p f).cur = s.cur := rfl
@[simp] theorem modProc_choice (s : State) (p : Nat) (f : Proc → Proc): (s.modProc p f).choice = s.choice := rfl
@[simp] theorem modProc_fresh (s : State) (p : Nat) (f : Proc → Proc): (s.modProc p f).fresh = s.fresh := rfl

/-! ### modCluster -/

@[simp] theorem modCluster_procs (s : State) (n : Nat) (f : Cluster → Cluster): (s.modCluster n f).procs = s.procs := rfl
@[simp] theorem modCluster_dies (s : State) (n : Nat) (f : Cluster → Cluster): (s.modCluster n f).dies = s.dies := rfl
@[simp] theorem modCluster_mem (s : State) (n : Nat) (f : Cluster → Cluster): (s.modCluster n f).mem = s.mem := rfl
@[simp] theorem modCluster_objs (s : State) (n : Nat) (f : Cluster → Cluster): (s.modCluster n f).objs = s.objs := rfl
@[simp] theorem modCluster_nextSerial (s : State) (n : Nat) (f : Cluster → Cluster): (s.modCluster n f).nextSerial = s.nextSerial := rfl
@[simp] theorem modCluster_highWater (s : State) (n : Nat) (f : Cluster → Cluster): (s.modCluster n f).highWater = s.highWater := rfl
@[simp] theorem modCluster_handles (s : State) (n : Nat) (f : Cluster → Cluster): (s.modCluster n f).handles = s.handles := rfl
@[simp] theorem modCluster_tableHome (s : State) (n : Nat) (f : Cluster → Cluster): (s.modCluster n f).tableHome = s.tableHome := rfl
@[simp] theorem modCluster_known (s : State) (n : Nat) (f : Cluster → Cluster): (s.modCluster n f).known = s.known := rfl
@[simp] theorem modCluster_leaves (s : State) (n : Nat) (f : Cluster → Cluster): (s.modCluster n f).leaves = s.leaves := rfl
@[simp] theorem modCluster_buckets (s : State) (n : Nat) (f : Cluster → Cluster): (s.modCluster n f).buckets = s.buckets := rfl
@[simp] theorem modCluster_touched (s : State) (n : Nat) (f : Cluster → Cluster): (s.modCluster n f).touched = s.touched := rfl
@[simp] theorem modCluster_hands (s : State) (n : Nat) (f : Cluster → Cluster): (s.modCluster n f).hands = s.hands := rfl
@[simp] theorem modCluster_plans (s : State) (n : Nat) (f : Cluster → Cluster): (s.modCluster n f).plans = s.plans := rfl
@[simp] theorem modCluster_store (s : State) (n : Nat) (f : Cluster → Cluster): (s.modCluster n f).store = s.store := rfl
@[simp] theorem modCluster_regs (s : State) (n : Nat) (f : Cluster → Cluster): (s.modCluster n f).regs = s.regs := rfl
@[simp] theorem modCluster_jobKeys (s : State) (n : Nat) (f : Cluster → Cluster): (s.modCluster n f).jobKeys = s.jobKeys := rfl
@[simp] theorem modCluster_fabric (s : State) (n : Nat) (f : Cluster → Cluster): (s.modCluster n f).fabric = s.fabric := rfl
@[simp] theorem modCluster_tai (s : State) (n : Nat) (f : Cluster → Cluster): (s.modCluster n f).tai = s.tai := rfl
@[simp] theorem modCluster_time (s : State) (n : Nat) (f : Cluster → Cluster): (s.modCluster n f).time = s.time := rfl
@[simp] theorem modCluster_cycle (s : State) (n : Nat) (f : Cluster → Cluster): (s.modCluster n f).cycle = s.cycle := rfl
@[simp] theorem modCluster_lag (s : State) (n : Nat) (f : Cluster → Cluster): (s.modCluster n f).lag = s.lag := rfl
@[simp] theorem modCluster_tagLast (s : State) (n : Nat) (f : Cluster → Cluster): (s.modCluster n f).tagLast = s.tagLast := rfl
@[simp] theorem modCluster_mbox (s : State) (n : Nat) (f : Cluster → Cluster): (s.modCluster n f).mbox = s.mbox := rfl
@[simp] theorem modCluster_firmware (s : State) (n : Nat) (f : Cluster → Cluster): (s.modCluster n f).firmware = s.firmware := rfl
@[simp] theorem modCluster_measured (s : State) (n : Nat) (f : Cluster → Cluster): (s.modCluster n f).measured = s.measured := rfl
@[simp] theorem modCluster_stageStart (s : State) (n : Nat) (f : Cluster → Cluster): (s.modCluster n f).stageStart = s.stageStart := rfl
@[simp] theorem modCluster_thermal (s : State) (n : Nat) (f : Cluster → Cluster): (s.modCluster n f).thermal = s.thermal := rfl
@[simp] theorem modCluster_powered (s : State) (n : Nat) (f : Cluster → Cluster): (s.modCluster n f).powered = s.powered := rfl
@[simp] theorem modCluster_agenda (s : State) (n : Nat) (f : Cluster → Cluster): (s.modCluster n f).agenda = s.agenda := rfl
@[simp] theorem modCluster_cur (s : State) (n : Nat) (f : Cluster → Cluster): (s.modCluster n f).cur = s.cur := rfl
@[simp] theorem modCluster_choice (s : State) (n : Nat) (f : Cluster → Cluster): (s.modCluster n f).choice = s.choice := rfl
@[simp] theorem modCluster_fresh (s : State) (n : Nat) (f : Cluster → Cluster): (s.modCluster n f).fresh = s.fresh := rfl

/-! ### modDie -/

@[simp] theorem modDie_procs (s : State) (d : Nat) (f : Die → Die): (s.modDie d f).procs = s.procs := rfl
@[simp] theorem modDie_clusters (s : State) (d : Nat) (f : Die → Die): (s.modDie d f).clusters = s.clusters := rfl
@[simp] theorem modDie_mem (s : State) (d : Nat) (f : Die → Die): (s.modDie d f).mem = s.mem := rfl
@[simp] theorem modDie_objs (s : State) (d : Nat) (f : Die → Die): (s.modDie d f).objs = s.objs := rfl
@[simp] theorem modDie_nextSerial (s : State) (d : Nat) (f : Die → Die): (s.modDie d f).nextSerial = s.nextSerial := rfl
@[simp] theorem modDie_highWater (s : State) (d : Nat) (f : Die → Die): (s.modDie d f).highWater = s.highWater := rfl
@[simp] theorem modDie_handles (s : State) (d : Nat) (f : Die → Die): (s.modDie d f).handles = s.handles := rfl
@[simp] theorem modDie_tableHome (s : State) (d : Nat) (f : Die → Die): (s.modDie d f).tableHome = s.tableHome := rfl
@[simp] theorem modDie_known (s : State) (d : Nat) (f : Die → Die): (s.modDie d f).known = s.known := rfl
@[simp] theorem modDie_leaves (s : State) (d : Nat) (f : Die → Die): (s.modDie d f).leaves = s.leaves := rfl
@[simp] theorem modDie_buckets (s : State) (d : Nat) (f : Die → Die): (s.modDie d f).buckets = s.buckets := rfl
@[simp] theorem modDie_touched (s : State) (d : Nat) (f : Die → Die): (s.modDie d f).touched = s.touched := rfl
@[simp] theorem modDie_hands (s : State) (d : Nat) (f : Die → Die): (s.modDie d f).hands = s.hands := rfl
@[simp] theorem modDie_plans (s : State) (d : Nat) (f : Die → Die): (s.modDie d f).plans = s.plans := rfl
@[simp] theorem modDie_store (s : State) (d : Nat) (f : Die → Die): (s.modDie d f).store = s.store := rfl
@[simp] theorem modDie_regs (s : State) (d : Nat) (f : Die → Die): (s.modDie d f).regs = s.regs := rfl
@[simp] theorem modDie_jobKeys (s : State) (d : Nat) (f : Die → Die): (s.modDie d f).jobKeys = s.jobKeys := rfl
@[simp] theorem modDie_fabric (s : State) (d : Nat) (f : Die → Die): (s.modDie d f).fabric = s.fabric := rfl
@[simp] theorem modDie_tai (s : State) (d : Nat) (f : Die → Die): (s.modDie d f).tai = s.tai := rfl
@[simp] theorem modDie_time (s : State) (d : Nat) (f : Die → Die): (s.modDie d f).time = s.time := rfl
@[simp] theorem modDie_cycle (s : State) (d : Nat) (f : Die → Die): (s.modDie d f).cycle = s.cycle := rfl
@[simp] theorem modDie_lag (s : State) (d : Nat) (f : Die → Die): (s.modDie d f).lag = s.lag := rfl
@[simp] theorem modDie_tagLast (s : State) (d : Nat) (f : Die → Die): (s.modDie d f).tagLast = s.tagLast := rfl
@[simp] theorem modDie_mbox (s : State) (d : Nat) (f : Die → Die): (s.modDie d f).mbox = s.mbox := rfl
@[simp] theorem modDie_firmware (s : State) (d : Nat) (f : Die → Die): (s.modDie d f).firmware = s.firmware := rfl
@[simp] theorem modDie_measured (s : State) (d : Nat) (f : Die → Die): (s.modDie d f).measured = s.measured := rfl
@[simp] theorem modDie_stageStart (s : State) (d : Nat) (f : Die → Die): (s.modDie d f).stageStart = s.stageStart := rfl
@[simp] theorem modDie_thermal (s : State) (d : Nat) (f : Die → Die): (s.modDie d f).thermal = s.thermal := rfl
@[simp] theorem modDie_powered (s : State) (d : Nat) (f : Die → Die): (s.modDie d f).powered = s.powered := rfl
@[simp] theorem modDie_agenda (s : State) (d : Nat) (f : Die → Die): (s.modDie d f).agenda = s.agenda := rfl
@[simp] theorem modDie_cur (s : State) (d : Nat) (f : Die → Die): (s.modDie d f).cur = s.cur := rfl
@[simp] theorem modDie_choice (s : State) (d : Nat) (f : Die → Die): (s.modDie d f).choice = s.choice := rfl
@[simp] theorem modDie_fresh (s : State) (d : Nat) (f : Die → Die): (s.modDie d f).fresh = s.fresh := rfl

/-! ### modCtx -/

@[simp] theorem modCtx_clusters (s : State) (p c : Nat) (f : Ctx → Ctx): (s.modCtx p c f).clusters = s.clusters := rfl
@[simp] theorem modCtx_dies (s : State) (p c : Nat) (f : Ctx → Ctx): (s.modCtx p c f).dies = s.dies := rfl
@[simp] theorem modCtx_mem (s : State) (p c : Nat) (f : Ctx → Ctx): (s.modCtx p c f).mem = s.mem := rfl
@[simp] theorem modCtx_objs (s : State) (p c : Nat) (f : Ctx → Ctx): (s.modCtx p c f).objs = s.objs := rfl
@[simp] theorem modCtx_nextSerial (s : State) (p c : Nat) (f : Ctx → Ctx): (s.modCtx p c f).nextSerial = s.nextSerial := rfl
@[simp] theorem modCtx_highWater (s : State) (p c : Nat) (f : Ctx → Ctx): (s.modCtx p c f).highWater = s.highWater := rfl
@[simp] theorem modCtx_handles (s : State) (p c : Nat) (f : Ctx → Ctx): (s.modCtx p c f).handles = s.handles := rfl
@[simp] theorem modCtx_tableHome (s : State) (p c : Nat) (f : Ctx → Ctx): (s.modCtx p c f).tableHome = s.tableHome := rfl
@[simp] theorem modCtx_known (s : State) (p c : Nat) (f : Ctx → Ctx): (s.modCtx p c f).known = s.known := rfl
@[simp] theorem modCtx_leaves (s : State) (p c : Nat) (f : Ctx → Ctx): (s.modCtx p c f).leaves = s.leaves := rfl
@[simp] theorem modCtx_buckets (s : State) (p c : Nat) (f : Ctx → Ctx): (s.modCtx p c f).buckets = s.buckets := rfl
@[simp] theorem modCtx_touched (s : State) (p c : Nat) (f : Ctx → Ctx): (s.modCtx p c f).touched = s.touched := rfl
@[simp] theorem modCtx_hands (s : State) (p c : Nat) (f : Ctx → Ctx): (s.modCtx p c f).hands = s.hands := rfl
@[simp] theorem modCtx_plans (s : State) (p c : Nat) (f : Ctx → Ctx): (s.modCtx p c f).plans = s.plans := rfl
@[simp] theorem modCtx_store (s : State) (p c : Nat) (f : Ctx → Ctx): (s.modCtx p c f).store = s.store := rfl
@[simp] theorem modCtx_regs (s : State) (p c : Nat) (f : Ctx → Ctx): (s.modCtx p c f).regs = s.regs := rfl
@[simp] theorem modCtx_jobKeys (s : State) (p c : Nat) (f : Ctx → Ctx): (s.modCtx p c f).jobKeys = s.jobKeys := rfl
@[simp] theorem modCtx_fabric (s : State) (p c : Nat) (f : Ctx → Ctx): (s.modCtx p c f).fabric = s.fabric := rfl
@[simp] theorem modCtx_tai (s : State) (p c : Nat) (f : Ctx → Ctx): (s.modCtx p c f).tai = s.tai := rfl
@[simp] theorem modCtx_time (s : State) (p c : Nat) (f : Ctx → Ctx): (s.modCtx p c f).time = s.time := rfl
@[simp] theorem modCtx_cycle (s : State) (p c : Nat) (f : Ctx → Ctx): (s.modCtx p c f).cycle = s.cycle := rfl
@[simp] theorem modCtx_lag (s : State) (p c : Nat) (f : Ctx → Ctx): (s.modCtx p c f).lag = s.lag := rfl
@[simp] theorem modCtx_tagLast (s : State) (p c : Nat) (f : Ctx → Ctx): (s.modCtx p c f).tagLast = s.tagLast := rfl
@[simp] theorem modCtx_mbox (s : State) (p c : Nat) (f : Ctx → Ctx): (s.modCtx p c f).mbox = s.mbox := rfl
@[simp] theorem modCtx_firmware (s : State) (p c : Nat) (f : Ctx → Ctx): (s.modCtx p c f).firmware = s.firmware := rfl
@[simp] theorem modCtx_measured (s : State) (p c : Nat) (f : Ctx → Ctx): (s.modCtx p c f).measured = s.measured := rfl
@[simp] theorem modCtx_stageStart (s : State) (p c : Nat) (f : Ctx → Ctx): (s.modCtx p c f).stageStart = s.stageStart := rfl
@[simp] theorem modCtx_thermal (s : State) (p c : Nat) (f : Ctx → Ctx): (s.modCtx p c f).thermal = s.thermal := rfl
@[simp] theorem modCtx_powered (s : State) (p c : Nat) (f : Ctx → Ctx): (s.modCtx p c f).powered = s.powered := rfl
@[simp] theorem modCtx_agenda (s : State) (p c : Nat) (f : Ctx → Ctx): (s.modCtx p c f).agenda = s.agenda := rfl
@[simp] theorem modCtx_cur (s : State) (p c : Nat) (f : Ctx → Ctx): (s.modCtx p c f).cur = s.cur := rfl
@[simp] theorem modCtx_choice (s : State) (p c : Nat) (f : Ctx → Ctx): (s.modCtx p c f).choice = s.choice := rfl
@[simp] theorem modCtx_fresh (s : State) (p c : Nat) (f : Ctx → Ctx): (s.modCtx p c f).fresh = s.fresh := rfl

/-! ### modRegion -/

@[simp] theorem modRegion_procs (s : State) (d g : Nat) (f : Region → Region): (s.modRegion d g f).procs = s.procs := rfl
@[simp] theorem modRegion_clusters (s : State) (d g : Nat) (f : Region → Region): (s.modRegion d g f).clusters = s.clusters := rfl
@[simp] theorem modRegion_mem (s : State) (d g : Nat) (f : Region → Region): (s.modRegion d g f).mem = s.mem := rfl
@[simp] theorem modRegion_objs (s : State) (d g : Nat) (f : Region → Region): (s.modRegion d g f).objs = s.objs := rfl
@[simp] theorem modRegion_nextSerial (s : State) (d g : Nat) (f : Region → Region): (s.modRegion d g f).nextSerial = s.nextSerial := rfl
@[simp] theorem modRegion_highWater (s : State) (d g : Nat) (f : Region → Region): (s.modRegion d g f).highWater = s.highWater := rfl
@[simp] theorem modRegion_handles (s : State) (d g : Nat) (f : Region → Region): (s.modRegion d g f).handles = s.handles := rfl
@[simp] theorem modRegion_tableHome (s : State) (d g : Nat) (f : Region → Region): (s.modRegion d g f).tableHome = s.tableHome := rfl
@[simp] theorem modRegion_known (s : State) (d g : Nat) (f : Region → Region): (s.modRegion d g f).known = s.known := rfl
@[simp] theorem modRegion_leaves (s : State) (d g : Nat) (f : Region → Region): (s.modRegion d g f).leaves = s.leaves := rfl
@[simp] theorem modRegion_buckets (s : State) (d g : Nat) (f : Region → Region): (s.modRegion d g f).buckets = s.buckets := rfl
@[simp] theorem modRegion_touched (s : State) (d g : Nat) (f : Region → Region): (s.modRegion d g f).touched = s.touched := rfl
@[simp] theorem modRegion_hands (s : State) (d g : Nat) (f : Region → Region): (s.modRegion d g f).hands = s.hands := rfl
@[simp] theorem modRegion_plans (s : State) (d g : Nat) (f : Region → Region): (s.modRegion d g f).plans = s.plans := rfl
@[simp] theorem modRegion_store (s : State) (d g : Nat) (f : Region → Region): (s.modRegion d g f).store = s.store := rfl
@[simp] theorem modRegion_regs (s : State) (d g : Nat) (f : Region → Region): (s.modRegion d g f).regs = s.regs := rfl
@[simp] theorem modRegion_jobKeys (s : State) (d g : Nat) (f : Region → Region): (s.modRegion d g f).jobKeys = s.jobKeys := rfl
@[simp] theorem modRegion_fabric (s : State) (d g : Nat) (f : Region → Region): (s.modRegion d g f).fabric = s.fabric := rfl
@[simp] theorem modRegion_tai (s : State) (d g : Nat) (f : Region → Region): (s.modRegion d g f).tai = s.tai := rfl
@[simp] theorem modRegion_time (s : State) (d g : Nat) (f : Region → Region): (s.modRegion d g f).time = s.time := rfl
@[simp] theorem modRegion_cycle (s : State) (d g : Nat) (f : Region → Region): (s.modRegion d g f).cycle = s.cycle := rfl
@[simp] theorem modRegion_lag (s : State) (d g : Nat) (f : Region → Region): (s.modRegion d g f).lag = s.lag := rfl
@[simp] theorem modRegion_tagLast (s : State) (d g : Nat) (f : Region → Region): (s.modRegion d g f).tagLast = s.tagLast := rfl
@[simp] theorem modRegion_mbox (s : State) (d g : Nat) (f : Region → Region): (s.modRegion d g f).mbox = s.mbox := rfl
@[simp] theorem modRegion_firmware (s : State) (d g : Nat) (f : Region → Region): (s.modRegion d g f).firmware = s.firmware := rfl
@[simp] theorem modRegion_measured (s : State) (d g : Nat) (f : Region → Region): (s.modRegion d g f).measured = s.measured := rfl
@[simp] theorem modRegion_stageStart (s : State) (d g : Nat) (f : Region → Region): (s.modRegion d g f).stageStart = s.stageStart := rfl
@[simp] theorem modRegion_thermal (s : State) (d g : Nat) (f : Region → Region): (s.modRegion d g f).thermal = s.thermal := rfl
@[simp] theorem modRegion_powered (s : State) (d g : Nat) (f : Region → Region): (s.modRegion d g f).powered = s.powered := rfl
@[simp] theorem modRegion_agenda (s : State) (d g : Nat) (f : Region → Region): (s.modRegion d g f).agenda = s.agenda := rfl
@[simp] theorem modRegion_cur (s : State) (d g : Nat) (f : Region → Region): (s.modRegion d g f).cur = s.cur := rfl
@[simp] theorem modRegion_choice (s : State) (d g : Nat) (f : Region → Region): (s.modRegion d g f).choice = s.choice := rfl
@[simp] theorem modRegion_fresh (s : State) (d g : Nat) (f : Region → Region): (s.modRegion d g f).fresh = s.fresh := rfl

/-! ### setCtlReg -/

@[simp] theorem setCtlReg_procs (s : State) (d r : Nat) (w : Word): (s.setCtlReg d r w).procs = s.procs := rfl
@[simp] theorem setCtlReg_clusters (s : State) (d r : Nat) (w : Word): (s.setCtlReg d r w).clusters = s.clusters := rfl
@[simp] theorem setCtlReg_mem (s : State) (d r : Nat) (w : Word): (s.setCtlReg d r w).mem = s.mem := rfl
@[simp] theorem setCtlReg_objs (s : State) (d r : Nat) (w : Word): (s.setCtlReg d r w).objs = s.objs := rfl
@[simp] theorem setCtlReg_nextSerial (s : State) (d r : Nat) (w : Word): (s.setCtlReg d r w).nextSerial = s.nextSerial := rfl
@[simp] theorem setCtlReg_highWater (s : State) (d r : Nat) (w : Word): (s.setCtlReg d r w).highWater = s.highWater := rfl
@[simp] theorem setCtlReg_handles (s : State) (d r : Nat) (w : Word): (s.setCtlReg d r w).handles = s.handles := rfl
@[simp] theorem setCtlReg_tableHome (s : State) (d r : Nat) (w : Word): (s.setCtlReg d r w).tableHome = s.tableHome := rfl
@[simp] theorem setCtlReg_known (s : State) (d r : Nat) (w : Word): (s.setCtlReg d r w).known = s.known := rfl
@[simp] theorem setCtlReg_leaves (s : State) (d r : Nat) (w : Word): (s.setCtlReg d r w).leaves = s.leaves := rfl
@[simp] theorem setCtlReg_buckets (s : State) (d r : Nat) (w : Word): (s.setCtlReg d r w).buckets = s.buckets := rfl
@[simp] theorem setCtlReg_touched (s : State) (d r : Nat) (w : Word): (s.setCtlReg d r w).touched = s.touched := rfl
@[simp] theorem setCtlReg_hands (s : State) (d r : Nat) (w : Word): (s.setCtlReg d r w).hands = s.hands := rfl
@[simp] theorem setCtlReg_plans (s : State) (d r : Nat) (w : Word): (s.setCtlReg d r w).plans = s.plans := rfl
@[simp] theorem setCtlReg_store (s : State) (d r : Nat) (w : Word): (s.setCtlReg d r w).store = s.store := rfl
@[simp] theorem setCtlReg_regs (s : State) (d r : Nat) (w : Word): (s.setCtlReg d r w).regs = s.regs := rfl
@[simp] theorem setCtlReg_jobKeys (s : State) (d r : Nat) (w : Word): (s.setCtlReg d r w).jobKeys = s.jobKeys := rfl
@[simp] theorem setCtlReg_fabric (s : State) (d r : Nat) (w : Word): (s.setCtlReg d r w).fabric = s.fabric := rfl
@[simp] theorem setCtlReg_tai (s : State) (d r : Nat) (w : Word): (s.setCtlReg d r w).tai = s.tai := rfl
@[simp] theorem setCtlReg_time (s : State) (d r : Nat) (w : Word): (s.setCtlReg d r w).time = s.time := rfl
@[simp] theorem setCtlReg_cycle (s : State) (d r : Nat) (w : Word): (s.setCtlReg d r w).cycle = s.cycle := rfl
@[simp] theorem setCtlReg_lag (s : State) (d r : Nat) (w : Word): (s.setCtlReg d r w).lag = s.lag := rfl
@[simp] theorem setCtlReg_tagLast (s : State) (d r : Nat) (w : Word): (s.setCtlReg d r w).tagLast = s.tagLast := rfl
@[simp] theorem setCtlReg_mbox (s : State) (d r : Nat) (w : Word): (s.setCtlReg d r w).mbox = s.mbox := rfl
@[simp] theorem setCtlReg_firmware (s : State) (d r : Nat) (w : Word): (s.setCtlReg d r w).firmware = s.firmware := rfl
@[simp] theorem setCtlReg_measured (s : State) (d r : Nat) (w : Word): (s.setCtlReg d r w).measured = s.measured := rfl
@[simp] theorem setCtlReg_stageStart (s : State) (d r : Nat) (w : Word): (s.setCtlReg d r w).stageStart = s.stageStart := rfl
@[simp] theorem setCtlReg_thermal (s : State) (d r : Nat) (w : Word): (s.setCtlReg d r w).thermal = s.thermal := rfl
@[simp] theorem setCtlReg_powered (s : State) (d r : Nat) (w : Word): (s.setCtlReg d r w).powered = s.powered := rfl
@[simp] theorem setCtlReg_agenda (s : State) (d r : Nat) (w : Word): (s.setCtlReg d r w).agenda = s.agenda := rfl
@[simp] theorem setCtlReg_cur (s : State) (d r : Nat) (w : Word): (s.setCtlReg d r w).cur = s.cur := rfl
@[simp] theorem setCtlReg_choice (s : State) (d r : Nat) (w : Word): (s.setCtlReg d r w).choice = s.choice := rfl
@[simp] theorem setCtlReg_fresh (s : State) (d r : Nat) (w : Word): (s.setCtlReg d r w).fresh = s.fresh := rfl

/-! ### setPkgReg -/

@[simp] theorem setPkgReg_procs (s : State) (r : Nat) (w : Word): (s.setPkgReg r w).procs = s.procs := rfl
@[simp] theorem setPkgReg_clusters (s : State) (r : Nat) (w : Word): (s.setPkgReg r w).clusters = s.clusters := rfl
@[simp] theorem setPkgReg_dies (s : State) (r : Nat) (w : Word): (s.setPkgReg r w).dies = s.dies := rfl
@[simp] theorem setPkgReg_mem (s : State) (r : Nat) (w : Word): (s.setPkgReg r w).mem = s.mem := rfl
@[simp] theorem setPkgReg_objs (s : State) (r : Nat) (w : Word): (s.setPkgReg r w).objs = s.objs := rfl
@[simp] theorem setPkgReg_nextSerial (s : State) (r : Nat) (w : Word): (s.setPkgReg r w).nextSerial = s.nextSerial := rfl
@[simp] theorem setPkgReg_highWater (s : State) (r : Nat) (w : Word): (s.setPkgReg r w).highWater = s.highWater := rfl
@[simp] theorem setPkgReg_handles (s : State) (r : Nat) (w : Word): (s.setPkgReg r w).handles = s.handles := rfl
@[simp] theorem setPkgReg_tableHome (s : State) (r : Nat) (w : Word): (s.setPkgReg r w).tableHome = s.tableHome := rfl
@[simp] theorem setPkgReg_known (s : State) (r : Nat) (w : Word): (s.setPkgReg r w).known = s.known := rfl
@[simp] theorem setPkgReg_leaves (s : State) (r : Nat) (w : Word): (s.setPkgReg r w).leaves = s.leaves := rfl
@[simp] theorem setPkgReg_buckets (s : State) (r : Nat) (w : Word): (s.setPkgReg r w).buckets = s.buckets := rfl
@[simp] theorem setPkgReg_touched (s : State) (r : Nat) (w : Word): (s.setPkgReg r w).touched = s.touched := rfl
@[simp] theorem setPkgReg_hands (s : State) (r : Nat) (w : Word): (s.setPkgReg r w).hands = s.hands := rfl
@[simp] theorem setPkgReg_plans (s : State) (r : Nat) (w : Word): (s.setPkgReg r w).plans = s.plans := rfl
@[simp] theorem setPkgReg_store (s : State) (r : Nat) (w : Word): (s.setPkgReg r w).store = s.store := rfl
@[simp] theorem setPkgReg_jobKeys (s : State) (r : Nat) (w : Word): (s.setPkgReg r w).jobKeys = s.jobKeys := rfl
@[simp] theorem setPkgReg_fabric (s : State) (r : Nat) (w : Word): (s.setPkgReg r w).fabric = s.fabric := rfl
@[simp] theorem setPkgReg_tai (s : State) (r : Nat) (w : Word): (s.setPkgReg r w).tai = s.tai := rfl
@[simp] theorem setPkgReg_time (s : State) (r : Nat) (w : Word): (s.setPkgReg r w).time = s.time := rfl
@[simp] theorem setPkgReg_cycle (s : State) (r : Nat) (w : Word): (s.setPkgReg r w).cycle = s.cycle := rfl
@[simp] theorem setPkgReg_lag (s : State) (r : Nat) (w : Word): (s.setPkgReg r w).lag = s.lag := rfl
@[simp] theorem setPkgReg_tagLast (s : State) (r : Nat) (w : Word): (s.setPkgReg r w).tagLast = s.tagLast := rfl
@[simp] theorem setPkgReg_mbox (s : State) (r : Nat) (w : Word): (s.setPkgReg r w).mbox = s.mbox := rfl
@[simp] theorem setPkgReg_firmware (s : State) (r : Nat) (w : Word): (s.setPkgReg r w).firmware = s.firmware := rfl
@[simp] theorem setPkgReg_measured (s : State) (r : Nat) (w : Word): (s.setPkgReg r w).measured = s.measured := rfl
@[simp] theorem setPkgReg_stageStart (s : State) (r : Nat) (w : Word): (s.setPkgReg r w).stageStart = s.stageStart := rfl
@[simp] theorem setPkgReg_thermal (s : State) (r : Nat) (w : Word): (s.setPkgReg r w).thermal = s.thermal := rfl
@[simp] theorem setPkgReg_powered (s : State) (r : Nat) (w : Word): (s.setPkgReg r w).powered = s.powered := rfl
@[simp] theorem setPkgReg_agenda (s : State) (r : Nat) (w : Word): (s.setPkgReg r w).agenda = s.agenda := rfl
@[simp] theorem setPkgReg_cur (s : State) (r : Nat) (w : Word): (s.setPkgReg r w).cur = s.cur := rfl
@[simp] theorem setPkgReg_choice (s : State) (r : Nat) (w : Word): (s.setPkgReg r w).choice = s.choice := rfl
@[simp] theorem setPkgReg_fresh (s : State) (r : Nat) (w : Word): (s.setPkgReg r w).fresh = s.fresh := rfl

/-! ### mset -/

@[simp] theorem mset_procs (s : State) (a : Nat) (b : Byte): (s.mset a b).procs = s.procs := rfl
@[simp] theorem mset_clusters (s : State) (a : Nat) (b : Byte): (s.mset a b).clusters = s.clusters := rfl
@[simp] theorem mset_dies (s : State) (a : Nat) (b : Byte): (s.mset a b).dies = s.dies := rfl
@[simp] theorem mset_objs (s : State) (a : Nat) (b : Byte): (s.mset a b).objs = s.objs := rfl
@[simp] theorem mset_nextSerial (s : State) (a : Nat) (b : Byte): (s.mset a b).nextSerial = s.nextSerial := rfl
@[simp] theorem mset_highWater (s : State) (a : Nat) (b : Byte): (s.mset a b).highWater = s.highWater := rfl
@[simp] theorem mset_handles (s : State) (a : Nat) (b : Byte): (s.mset a b).handles = s.handles := rfl
@[simp] theorem mset_tableHome (s : State) (a : Nat) (b : Byte): (s.mset a b).tableHome = s.tableHome := rfl
@[simp] theorem mset_known (s : State) (a : Nat) (b : Byte): (s.mset a b).known = s.known := rfl
@[simp] theorem mset_leaves (s : State) (a : Nat) (b : Byte): (s.mset a b).leaves = s.leaves := rfl
@[simp] theorem mset_buckets (s : State) (a : Nat) (b : Byte): (s.mset a b).buckets = s.buckets := rfl
@[simp] theorem mset_touched (s : State) (a : Nat) (b : Byte): (s.mset a b).touched = s.touched := rfl
@[simp] theorem mset_hands (s : State) (a : Nat) (b : Byte): (s.mset a b).hands = s.hands := rfl
@[simp] theorem mset_plans (s : State) (a : Nat) (b : Byte): (s.mset a b).plans = s.plans := rfl
@[simp] theorem mset_store (s : State) (a : Nat) (b : Byte): (s.mset a b).store = s.store := rfl
@[simp] theorem mset_regs (s : State) (a : Nat) (b : Byte): (s.mset a b).regs = s.regs := rfl
@[simp] theorem mset_jobKeys (s : State) (a : Nat) (b : Byte): (s.mset a b).jobKeys = s.jobKeys := rfl
@[simp] theorem mset_fabric (s : State) (a : Nat) (b : Byte): (s.mset a b).fabric = s.fabric := rfl
@[simp] theorem mset_tai (s : State) (a : Nat) (b : Byte): (s.mset a b).tai = s.tai := rfl
@[simp] theorem mset_time (s : State) (a : Nat) (b : Byte): (s.mset a b).time = s.time := rfl
@[simp] theorem mset_cycle (s : State) (a : Nat) (b : Byte): (s.mset a b).cycle = s.cycle := rfl
@[simp] theorem mset_lag (s : State) (a : Nat) (b : Byte): (s.mset a b).lag = s.lag := rfl
@[simp] theorem mset_tagLast (s : State) (a : Nat) (b : Byte): (s.mset a b).tagLast = s.tagLast := rfl
@[simp] theorem mset_mbox (s : State) (a : Nat) (b : Byte): (s.mset a b).mbox = s.mbox := rfl
@[simp] theorem mset_firmware (s : State) (a : Nat) (b : Byte): (s.mset a b).firmware = s.firmware := rfl
@[simp] theorem mset_measured (s : State) (a : Nat) (b : Byte): (s.mset a b).measured = s.measured := rfl
@[simp] theorem mset_stageStart (s : State) (a : Nat) (b : Byte): (s.mset a b).stageStart = s.stageStart := rfl
@[simp] theorem mset_thermal (s : State) (a : Nat) (b : Byte): (s.mset a b).thermal = s.thermal := rfl
@[simp] theorem mset_powered (s : State) (a : Nat) (b : Byte): (s.mset a b).powered = s.powered := rfl
@[simp] theorem mset_agenda (s : State) (a : Nat) (b : Byte): (s.mset a b).agenda = s.agenda := rfl
@[simp] theorem mset_cur (s : State) (a : Nat) (b : Byte): (s.mset a b).cur = s.cur := rfl
@[simp] theorem mset_choice (s : State) (a : Nat) (b : Byte): (s.mset a b).choice = s.choice := rfl
@[simp] theorem mset_fresh (s : State) (a : Nat) (b : Byte): (s.mset a b).fresh = s.fresh := rfl

/-! ### modIn -/

@[simp] theorem modIn_clusters (s : State) (e ch : Nat) (f : InChan → InChan): (s.modIn e ch f).clusters = s.clusters := rfl
@[simp] theorem modIn_dies (s : State) (e ch : Nat) (f : InChan → InChan): (s.modIn e ch f).dies = s.dies := rfl
@[simp] theorem modIn_mem (s : State) (e ch : Nat) (f : InChan → InChan): (s.modIn e ch f).mem = s.mem := rfl
@[simp] theorem modIn_objs (s : State) (e ch : Nat) (f : InChan → InChan): (s.modIn e ch f).objs = s.objs := rfl
@[simp] theorem modIn_nextSerial (s : State) (e ch : Nat) (f : InChan → InChan): (s.modIn e ch f).nextSerial = s.nextSerial := rfl
@[simp] theorem modIn_highWater (s : State) (e ch : Nat) (f : InChan → InChan): (s.modIn e ch f).highWater = s.highWater := rfl
@[simp] theorem modIn_handles (s : State) (e ch : Nat) (f : InChan → InChan): (s.modIn e ch f).handles = s.handles := rfl
@[simp] theorem modIn_tableHome (s : State) (e ch : Nat) (f : InChan → InChan): (s.modIn e ch f).tableHome = s.tableHome := rfl
@[simp] theorem modIn_known (s : State) (e ch : Nat) (f : InChan → InChan): (s.modIn e ch f).known = s.known := rfl
@[simp] theorem modIn_leaves (s : State) (e ch : Nat) (f : InChan → InChan): (s.modIn e ch f).leaves = s.leaves := rfl
@[simp] theorem modIn_buckets (s : State) (e ch : Nat) (f : InChan → InChan): (s.modIn e ch f).buckets = s.buckets := rfl
@[simp] theorem modIn_touched (s : State) (e ch : Nat) (f : InChan → InChan): (s.modIn e ch f).touched = s.touched := rfl
@[simp] theorem modIn_hands (s : State) (e ch : Nat) (f : InChan → InChan): (s.modIn e ch f).hands = s.hands := rfl
@[simp] theorem modIn_plans (s : State) (e ch : Nat) (f : InChan → InChan): (s.modIn e ch f).plans = s.plans := rfl
@[simp] theorem modIn_store (s : State) (e ch : Nat) (f : InChan → InChan): (s.modIn e ch f).store = s.store := rfl
@[simp] theorem modIn_regs (s : State) (e ch : Nat) (f : InChan → InChan): (s.modIn e ch f).regs = s.regs := rfl
@[simp] theorem modIn_jobKeys (s : State) (e ch : Nat) (f : InChan → InChan): (s.modIn e ch f).jobKeys = s.jobKeys := rfl
@[simp] theorem modIn_fabric (s : State) (e ch : Nat) (f : InChan → InChan): (s.modIn e ch f).fabric = s.fabric := rfl
@[simp] theorem modIn_tai (s : State) (e ch : Nat) (f : InChan → InChan): (s.modIn e ch f).tai = s.tai := rfl
@[simp] theorem modIn_time (s : State) (e ch : Nat) (f : InChan → InChan): (s.modIn e ch f).time = s.time := rfl
@[simp] theorem modIn_cycle (s : State) (e ch : Nat) (f : InChan → InChan): (s.modIn e ch f).cycle = s.cycle := rfl
@[simp] theorem modIn_lag (s : State) (e ch : Nat) (f : InChan → InChan): (s.modIn e ch f).lag = s.lag := rfl
@[simp] theorem modIn_tagLast (s : State) (e ch : Nat) (f : InChan → InChan): (s.modIn e ch f).tagLast = s.tagLast := rfl
@[simp] theorem modIn_mbox (s : State) (e ch : Nat) (f : InChan → InChan): (s.modIn e ch f).mbox = s.mbox := rfl
@[simp] theorem modIn_firmware (s : State) (e ch : Nat) (f : InChan → InChan): (s.modIn e ch f).firmware = s.firmware := rfl
@[simp] theorem modIn_measured (s : State) (e ch : Nat) (f : InChan → InChan): (s.modIn e ch f).measured = s.measured := rfl
@[simp] theorem modIn_stageStart (s : State) (e ch : Nat) (f : InChan → InChan): (s.modIn e ch f).stageStart = s.stageStart := rfl
@[simp] theorem modIn_thermal (s : State) (e ch : Nat) (f : InChan → InChan): (s.modIn e ch f).thermal = s.thermal := rfl
@[simp] theorem modIn_powered (s : State) (e ch : Nat) (f : InChan → InChan): (s.modIn e ch f).powered = s.powered := rfl
@[simp] theorem modIn_agenda (s : State) (e ch : Nat) (f : InChan → InChan): (s.modIn e ch f).agenda = s.agenda := rfl
@[simp] theorem modIn_cur (s : State) (e ch : Nat) (f : InChan → InChan): (s.modIn e ch f).cur = s.cur := rfl
@[simp] theorem modIn_choice (s : State) (e ch : Nat) (f : InChan → InChan): (s.modIn e ch f).choice = s.choice := rfl
@[simp] theorem modIn_fresh (s : State) (e ch : Nat) (f : InChan → InChan): (s.modIn e ch f).fresh = s.fresh := rfl

/-! ### modOut -/

@[simp] theorem modOut_clusters (s : State) (e j : Nat) (f : List Entry → List Entry): (s.modOut e j f).clusters = s.clusters := rfl
@[simp] theorem modOut_dies (s : State) (e j : Nat) (f : List Entry → List Entry): (s.modOut e j f).dies = s.dies := rfl
@[simp] theorem modOut_mem (s : State) (e j : Nat) (f : List Entry → List Entry): (s.modOut e j f).mem = s.mem := rfl
@[simp] theorem modOut_objs (s : State) (e j : Nat) (f : List Entry → List Entry): (s.modOut e j f).objs = s.objs := rfl
@[simp] theorem modOut_nextSerial (s : State) (e j : Nat) (f : List Entry → List Entry): (s.modOut e j f).nextSerial = s.nextSerial := rfl
@[simp] theorem modOut_highWater (s : State) (e j : Nat) (f : List Entry → List Entry): (s.modOut e j f).highWater = s.highWater := rfl
@[simp] theorem modOut_handles (s : State) (e j : Nat) (f : List Entry → List Entry): (s.modOut e j f).handles = s.handles := rfl
@[simp] theorem modOut_tableHome (s : State) (e j : Nat) (f : List Entry → List Entry): (s.modOut e j f).tableHome = s.tableHome := rfl
@[simp] theorem modOut_known (s : State) (e j : Nat) (f : List Entry → List Entry): (s.modOut e j f).known = s.known := rfl
@[simp] theorem modOut_leaves (s : State) (e j : Nat) (f : List Entry → List Entry): (s.modOut e j f).leaves = s.leaves := rfl
@[simp] theorem modOut_buckets (s : State) (e j : Nat) (f : List Entry → List Entry): (s.modOut e j f).buckets = s.buckets := rfl
@[simp] theorem modOut_touched (s : State) (e j : Nat) (f : List Entry → List Entry): (s.modOut e j f).touched = s.touched := rfl
@[simp] theorem modOut_hands (s : State) (e j : Nat) (f : List Entry → List Entry): (s.modOut e j f).hands = s.hands := rfl
@[simp] theorem modOut_plans (s : State) (e j : Nat) (f : List Entry → List Entry): (s.modOut e j f).plans = s.plans := rfl
@[simp] theorem modOut_store (s : State) (e j : Nat) (f : List Entry → List Entry): (s.modOut e j f).store = s.store := rfl
@[simp] theorem modOut_regs (s : State) (e j : Nat) (f : List Entry → List Entry): (s.modOut e j f).regs = s.regs := rfl
@[simp] theorem modOut_jobKeys (s : State) (e j : Nat) (f : List Entry → List Entry): (s.modOut e j f).jobKeys = s.jobKeys := rfl
@[simp] theorem modOut_fabric (s : State) (e j : Nat) (f : List Entry → List Entry): (s.modOut e j f).fabric = s.fabric := rfl
@[simp] theorem modOut_tai (s : State) (e j : Nat) (f : List Entry → List Entry): (s.modOut e j f).tai = s.tai := rfl
@[simp] theorem modOut_time (s : State) (e j : Nat) (f : List Entry → List Entry): (s.modOut e j f).time = s.time := rfl
@[simp] theorem modOut_cycle (s : State) (e j : Nat) (f : List Entry → List Entry): (s.modOut e j f).cycle = s.cycle := rfl
@[simp] theorem modOut_lag (s : State) (e j : Nat) (f : List Entry → List Entry): (s.modOut e j f).lag = s.lag := rfl
@[simp] theorem modOut_tagLast (s : State) (e j : Nat) (f : List Entry → List Entry): (s.modOut e j f).tagLast = s.tagLast := rfl
@[simp] theorem modOut_mbox (s : State) (e j : Nat) (f : List Entry → List Entry): (s.modOut e j f).mbox = s.mbox := rfl
@[simp] theorem modOut_firmware (s : State) (e j : Nat) (f : List Entry → List Entry): (s.modOut e j f).firmware = s.firmware := rfl
@[simp] theorem modOut_measured (s : State) (e j : Nat) (f : List Entry → List Entry): (s.modOut e j f).measured = s.measured := rfl
@[simp] theorem modOut_stageStart (s : State) (e j : Nat) (f : List Entry → List Entry): (s.modOut e j f).stageStart = s.stageStart := rfl
@[simp] theorem modOut_thermal (s : State) (e j : Nat) (f : List Entry → List Entry): (s.modOut e j f).thermal = s.thermal := rfl
@[simp] theorem modOut_powered (s : State) (e j : Nat) (f : List Entry → List Entry): (s.modOut e j f).powered = s.powered := rfl
@[simp] theorem modOut_agenda (s : State) (e j : Nat) (f : List Entry → List Entry): (s.modOut e j f).agenda = s.agenda := rfl
@[simp] theorem modOut_cur (s : State) (e j : Nat) (f : List Entry → List Entry): (s.modOut e j f).cur = s.cur := rfl
@[simp] theorem modOut_choice (s : State) (e j : Nat) (f : List Entry → List Entry): (s.modOut e j f).choice = s.choice := rfl
@[simp] theorem modOut_fresh (s : State) (e j : Nat) (f : List Entry → List Entry): (s.modOut e j f).fresh = s.fresh := rfl

/-! ### modOpOut -/

@[simp] theorem modOpOut_procs (s : State) (cl k i : Nat) (f : List Entry → List Entry): (s.modOpOut cl k i f).procs = s.procs := rfl
@[simp] theorem modOpOut_dies (s : State) (cl k i : Nat) (f : List Entry → List Entry): (s.modOpOut cl k i f).dies = s.dies := rfl
@[simp] theorem modOpOut_mem (s : State) (cl k i : Nat) (f : List Entry → List Entry): (s.modOpOut cl k i f).mem = s.mem := rfl
@[simp] theorem modOpOut_objs (s : State) (cl k i : Nat) (f : List Entry → List Entry): (s.modOpOut cl k i f).objs = s.objs := rfl
@[simp] theorem modOpOut_nextSerial (s : State) (cl k i : Nat) (f : List Entry → List Entry): (s.modOpOut cl k i f).nextSerial = s.nextSerial := rfl
@[simp] theorem modOpOut_highWater (s : State) (cl k i : Nat) (f : List Entry → List Entry): (s.modOpOut cl k i f).highWater = s.highWater := rfl
@[simp] theorem modOpOut_handles (s : State) (cl k i : Nat) (f : List Entry → List Entry): (s.modOpOut cl k i f).handles = s.handles := rfl
@[simp] theorem modOpOut_tableHome (s : State) (cl k i : Nat) (f : List Entry → List Entry): (s.modOpOut cl k i f).tableHome = s.tableHome := rfl
@[simp] theorem modOpOut_known (s : State) (cl k i : Nat) (f : List Entry → List Entry): (s.modOpOut cl k i f).known = s.known := rfl
@[simp] theorem modOpOut_leaves (s : State) (cl k i : Nat) (f : List Entry → List Entry): (s.modOpOut cl k i f).leaves = s.leaves := rfl
@[simp] theorem modOpOut_buckets (s : State) (cl k i : Nat) (f : List Entry → List Entry): (s.modOpOut cl k i f).buckets = s.buckets := rfl
@[simp] theorem modOpOut_touched (s : State) (cl k i : Nat) (f : List Entry → List Entry): (s.modOpOut cl k i f).touched = s.touched := rfl
@[simp] theorem modOpOut_hands (s : State) (cl k i : Nat) (f : List Entry → List Entry): (s.modOpOut cl k i f).hands = s.hands := rfl
@[simp] theorem modOpOut_plans (s : State) (cl k i : Nat) (f : List Entry → List Entry): (s.modOpOut cl k i f).plans = s.plans := rfl
@[simp] theorem modOpOut_store (s : State) (cl k i : Nat) (f : List Entry → List Entry): (s.modOpOut cl k i f).store = s.store := rfl
@[simp] theorem modOpOut_regs (s : State) (cl k i : Nat) (f : List Entry → List Entry): (s.modOpOut cl k i f).regs = s.regs := rfl
@[simp] theorem modOpOut_jobKeys (s : State) (cl k i : Nat) (f : List Entry → List Entry): (s.modOpOut cl k i f).jobKeys = s.jobKeys := rfl
@[simp] theorem modOpOut_fabric (s : State) (cl k i : Nat) (f : List Entry → List Entry): (s.modOpOut cl k i f).fabric = s.fabric := rfl
@[simp] theorem modOpOut_tai (s : State) (cl k i : Nat) (f : List Entry → List Entry): (s.modOpOut cl k i f).tai = s.tai := rfl
@[simp] theorem modOpOut_time (s : State) (cl k i : Nat) (f : List Entry → List Entry): (s.modOpOut cl k i f).time = s.time := rfl
@[simp] theorem modOpOut_cycle (s : State) (cl k i : Nat) (f : List Entry → List Entry): (s.modOpOut cl k i f).cycle = s.cycle := rfl
@[simp] theorem modOpOut_lag (s : State) (cl k i : Nat) (f : List Entry → List Entry): (s.modOpOut cl k i f).lag = s.lag := rfl
@[simp] theorem modOpOut_tagLast (s : State) (cl k i : Nat) (f : List Entry → List Entry): (s.modOpOut cl k i f).tagLast = s.tagLast := rfl
@[simp] theorem modOpOut_mbox (s : State) (cl k i : Nat) (f : List Entry → List Entry): (s.modOpOut cl k i f).mbox = s.mbox := rfl
@[simp] theorem modOpOut_firmware (s : State) (cl k i : Nat) (f : List Entry → List Entry): (s.modOpOut cl k i f).firmware = s.firmware := rfl
@[simp] theorem modOpOut_measured (s : State) (cl k i : Nat) (f : List Entry → List Entry): (s.modOpOut cl k i f).measured = s.measured := rfl
@[simp] theorem modOpOut_stageStart (s : State) (cl k i : Nat) (f : List Entry → List Entry): (s.modOpOut cl k i f).stageStart = s.stageStart := rfl
@[simp] theorem modOpOut_thermal (s : State) (cl k i : Nat) (f : List Entry → List Entry): (s.modOpOut cl k i f).thermal = s.thermal := rfl
@[simp] theorem modOpOut_powered (s : State) (cl k i : Nat) (f : List Entry → List Entry): (s.modOpOut cl k i f).powered = s.powered := rfl
@[simp] theorem modOpOut_agenda (s : State) (cl k i : Nat) (f : List Entry → List Entry): (s.modOpOut cl k i f).agenda = s.agenda := rfl
@[simp] theorem modOpOut_cur (s : State) (cl k i : Nat) (f : List Entry → List Entry): (s.modOpOut cl k i f).cur = s.cur := rfl
@[simp] theorem modOpOut_choice (s : State) (cl k i : Nat) (f : List Entry → List Entry): (s.modOpOut cl k i f).choice = s.choice := rfl
@[simp] theorem modOpOut_fresh (s : State) (cl k i : Nat) (f : List Entry → List Entry): (s.modOpOut cl k i f).fresh = s.fresh := rfl

/-! ### modInAt -/

@[simp] theorem modInAt_mem (s : State) (port : InPort) (f : InChan → InChan): (s.modInAt port f).mem = s.mem := by cases port <;> rfl
@[simp] theorem modInAt_objs (s : State) (port : InPort) (f : InChan → InChan): (s.modInAt port f).objs = s.objs := by cases port <;> rfl
@[simp] theorem modInAt_nextSerial (s : State) (port : InPort) (f : InChan → InChan): (s.modInAt port f).nextSerial = s.nextSerial := by cases port <;> rfl
@[simp] theorem modInAt_highWater (s : State) (port : InPort) (f : InChan → InChan): (s.modInAt port f).highWater = s.highWater := by cases port <;> rfl
@[simp] theorem modInAt_handles (s : State) (port : InPort) (f : InChan → InChan): (s.modInAt port f).handles = s.handles := by cases port <;> rfl
@[simp] theorem modInAt_tableHome (s : State) (port : InPort) (f : InChan → InChan): (s.modInAt port f).tableHome = s.tableHome := by cases port <;> rfl
@[simp] theorem modInAt_known (s : State) (port : InPort) (f : InChan → InChan): (s.modInAt port f).known = s.known := by cases port <;> rfl
@[simp] theorem modInAt_leaves (s : State) (port : InPort) (f : InChan → InChan): (s.modInAt port f).leaves = s.leaves := by cases port <;> rfl
@[simp] theorem modInAt_buckets (s : State) (port : InPort) (f : InChan → InChan): (s.modInAt port f).buckets = s.buckets := by cases port <;> rfl
@[simp] theorem modInAt_touched (s : State) (port : InPort) (f : InChan → InChan): (s.modInAt port f).touched = s.touched := by cases port <;> rfl
@[simp] theorem modInAt_hands (s : State) (port : InPort) (f : InChan → InChan): (s.modInAt port f).hands = s.hands := by cases port <;> rfl
@[simp] theorem modInAt_plans (s : State) (port : InPort) (f : InChan → InChan): (s.modInAt port f).plans = s.plans := by cases port <;> rfl
@[simp] theorem modInAt_store (s : State) (port : InPort) (f : InChan → InChan): (s.modInAt port f).store = s.store := by cases port <;> rfl
@[simp] theorem modInAt_regs (s : State) (port : InPort) (f : InChan → InChan): (s.modInAt port f).regs = s.regs := by cases port <;> rfl
@[simp] theorem modInAt_jobKeys (s : State) (port : InPort) (f : InChan → InChan): (s.modInAt port f).jobKeys = s.jobKeys := by cases port <;> rfl
@[simp] theorem modInAt_fabric (s : State) (port : InPort) (f : InChan → InChan): (s.modInAt port f).fabric = s.fabric := by cases port <;> rfl
@[simp] theorem modInAt_tai (s : State) (port : InPort) (f : InChan → InChan): (s.modInAt port f).tai = s.tai := by cases port <;> rfl
@[simp] theorem modInAt_time (s : State) (port : InPort) (f : InChan → InChan): (s.modInAt port f).time = s.time := by cases port <;> rfl
@[simp] theorem modInAt_cycle (s : State) (port : InPort) (f : InChan → InChan): (s.modInAt port f).cycle = s.cycle := by cases port <;> rfl
@[simp] theorem modInAt_lag (s : State) (port : InPort) (f : InChan → InChan): (s.modInAt port f).lag = s.lag := by cases port <;> rfl
@[simp] theorem modInAt_tagLast (s : State) (port : InPort) (f : InChan → InChan): (s.modInAt port f).tagLast = s.tagLast := by cases port <;> rfl
@[simp] theorem modInAt_mbox (s : State) (port : InPort) (f : InChan → InChan): (s.modInAt port f).mbox = s.mbox := by cases port <;> rfl
@[simp] theorem modInAt_firmware (s : State) (port : InPort) (f : InChan → InChan): (s.modInAt port f).firmware = s.firmware := by cases port <;> rfl
@[simp] theorem modInAt_measured (s : State) (port : InPort) (f : InChan → InChan): (s.modInAt port f).measured = s.measured := by cases port <;> rfl
@[simp] theorem modInAt_stageStart (s : State) (port : InPort) (f : InChan → InChan): (s.modInAt port f).stageStart = s.stageStart := by cases port <;> rfl
@[simp] theorem modInAt_thermal (s : State) (port : InPort) (f : InChan → InChan): (s.modInAt port f).thermal = s.thermal := by cases port <;> rfl
@[simp] theorem modInAt_powered (s : State) (port : InPort) (f : InChan → InChan): (s.modInAt port f).powered = s.powered := by cases port <;> rfl
@[simp] theorem modInAt_agenda (s : State) (port : InPort) (f : InChan → InChan): (s.modInAt port f).agenda = s.agenda := by cases port <;> rfl
@[simp] theorem modInAt_cur (s : State) (port : InPort) (f : InChan → InChan): (s.modInAt port f).cur = s.cur := by cases port <;> rfl
@[simp] theorem modInAt_choice (s : State) (port : InPort) (f : InChan → InChan): (s.modInAt port f).choice = s.choice := by cases port <;> rfl
@[simp] theorem modInAt_fresh (s : State) (port : InPort) (f : InChan → InChan): (s.modInAt port f).fresh = s.fresh := by cases port <;> rfl

/-! ### setLeaf -/

@[simp] theorem setLeaf_procs (s : State) (n : Nat) (l : Leaf): (s.setLeaf n l).procs = s.procs := rfl
@[simp] theorem setLeaf_clusters (s : State) (n : Nat) (l : Leaf): (s.setLeaf n l).clusters = s.clusters := rfl
@[simp] theorem setLeaf_dies (s : State) (n : Nat) (l : Leaf): (s.setLeaf n l).dies = s.dies := rfl
@[simp] theorem setLeaf_mem (s : State) (n : Nat) (l : Leaf): (s.setLeaf n l).mem = s.mem := rfl
@[simp] theorem setLeaf_objs (s : State) (n : Nat) (l : Leaf): (s.setLeaf n l).objs = s.objs := rfl
@[simp] theorem setLeaf_nextSerial (s : State) (n : Nat) (l : Leaf): (s.setLeaf n l).nextSerial = s.nextSerial := rfl
@[simp] theorem setLeaf_highWater (s : State) (n : Nat) (l : Leaf): (s.setLeaf n l).highWater = s.highWater := rfl
@[simp] theorem setLeaf_handles (s : State) (n : Nat) (l : Leaf): (s.setLeaf n l).handles = s.handles := rfl
@[simp] theorem setLeaf_tableHome (s : State) (n : Nat) (l : Leaf): (s.setLeaf n l).tableHome = s.tableHome := rfl
@[simp] theorem setLeaf_known (s : State) (n : Nat) (l : Leaf): (s.setLeaf n l).known = s.known := rfl
@[simp] theorem setLeaf_buckets (s : State) (n : Nat) (l : Leaf): (s.setLeaf n l).buckets = s.buckets := rfl
@[simp] theorem setLeaf_touched (s : State) (n : Nat) (l : Leaf): (s.setLeaf n l).touched = s.touched := rfl
@[simp] theorem setLeaf_hands (s : State) (n : Nat) (l : Leaf): (s.setLeaf n l).hands = s.hands := rfl
@[simp] theorem setLeaf_plans (s : State) (n : Nat) (l : Leaf): (s.setLeaf n l).plans = s.plans := rfl
@[simp] theorem setLeaf_store (s : State) (n : Nat) (l : Leaf): (s.setLeaf n l).store = s.store := rfl
@[simp] theorem setLeaf_regs (s : State) (n : Nat) (l : Leaf): (s.setLeaf n l).regs = s.regs := rfl
@[simp] theorem setLeaf_jobKeys (s : State) (n : Nat) (l : Leaf): (s.setLeaf n l).jobKeys = s.jobKeys := rfl
@[simp] theorem setLeaf_fabric (s : State) (n : Nat) (l : Leaf): (s.setLeaf n l).fabric = s.fabric := rfl
@[simp] theorem setLeaf_tai (s : State) (n : Nat) (l : Leaf): (s.setLeaf n l).tai = s.tai := rfl
@[simp] theorem setLeaf_time (s : State) (n : Nat) (l : Leaf): (s.setLeaf n l).time = s.time := rfl
@[simp] theorem setLeaf_cycle (s : State) (n : Nat) (l : Leaf): (s.setLeaf n l).cycle = s.cycle := rfl
@[simp] theorem setLeaf_lag (s : State) (n : Nat) (l : Leaf): (s.setLeaf n l).lag = s.lag := rfl
@[simp] theorem setLeaf_tagLast (s : State) (n : Nat) (l : Leaf): (s.setLeaf n l).tagLast = s.tagLast := rfl
@[simp] theorem setLeaf_mbox (s : State) (n : Nat) (l : Leaf): (s.setLeaf n l).mbox = s.mbox := rfl
@[simp] theorem setLeaf_firmware (s : State) (n : Nat) (l : Leaf): (s.setLeaf n l).firmware = s.firmware := rfl
@[simp] theorem setLeaf_measured (s : State) (n : Nat) (l : Leaf): (s.setLeaf n l).measured = s.measured := rfl
@[simp] theorem setLeaf_stageStart (s : State) (n : Nat) (l : Leaf): (s.setLeaf n l).stageStart = s.stageStart := rfl
@[simp] theorem setLeaf_thermal (s : State) (n : Nat) (l : Leaf): (s.setLeaf n l).thermal = s.thermal := rfl
@[simp] theorem setLeaf_powered (s : State) (n : Nat) (l : Leaf): (s.setLeaf n l).powered = s.powered := rfl
@[simp] theorem setLeaf_agenda (s : State) (n : Nat) (l : Leaf): (s.setLeaf n l).agenda = s.agenda := rfl
@[simp] theorem setLeaf_cur (s : State) (n : Nat) (l : Leaf): (s.setLeaf n l).cur = s.cur := rfl
@[simp] theorem setLeaf_choice (s : State) (n : Nat) (l : Leaf): (s.setLeaf n l).choice = s.choice := rfl
@[simp] theorem setLeaf_fresh (s : State) (n : Nat) (l : Leaf): (s.setLeaf n l).fresh = s.fresh := rfl

/-! ### setObj -/

@[simp] theorem setObj_procs (s : State) (n : Nat) (o : Obj): (s.setObj n o).procs = s.procs := rfl
@[simp] theorem setObj_clusters (s : State) (n : Nat) (o : Obj): (s.setObj n o).clusters = s.clusters := rfl
@[simp] theorem setObj_dies (s : State) (n : Nat) (o : Obj): (s.setObj n o).dies = s.dies := rfl
@[simp] theorem setObj_mem (s : State) (n : Nat) (o : Obj): (s.setObj n o).mem = s.mem := rfl
@[simp] theorem setObj_nextSerial (s : State) (n : Nat) (o : Obj): (s.setObj n o).nextSerial = s.nextSerial := rfl
@[simp] theorem setObj_highWater (s : State) (n : Nat) (o : Obj): (s.setObj n o).highWater = s.highWater := rfl
@[simp] theorem setObj_handles (s : State) (n : Nat) (o : Obj): (s.setObj n o).handles = s.handles := rfl
@[simp] theorem setObj_tableHome (s : State) (n : Nat) (o : Obj): (s.setObj n o).tableHome = s.tableHome := rfl
@[simp] theorem setObj_known (s : State) (n : Nat) (o : Obj): (s.setObj n o).known = s.known := rfl
@[simp] theorem setObj_leaves (s : State) (n : Nat) (o : Obj): (s.setObj n o).leaves = s.leaves := rfl
@[simp] theorem setObj_buckets (s : State) (n : Nat) (o : Obj): (s.setObj n o).buckets = s.buckets := rfl
@[simp] theorem setObj_touched (s : State) (n : Nat) (o : Obj): (s.setObj n o).touched = s.touched := rfl
@[simp] theorem setObj_hands (s : State) (n : Nat) (o : Obj): (s.setObj n o).hands = s.hands := rfl
@[simp] theorem setObj_plans (s : State) (n : Nat) (o : Obj): (s.setObj n o).plans = s.plans := rfl
@[simp] theorem setObj_store (s : State) (n : Nat) (o : Obj): (s.setObj n o).store = s.store := rfl
@[simp] theorem setObj_regs (s : State) (n : Nat) (o : Obj): (s.setObj n o).regs = s.regs := rfl
@[simp] theorem setObj_jobKeys (s : State) (n : Nat) (o : Obj): (s.setObj n o).jobKeys = s.jobKeys := rfl
@[simp] theorem setObj_fabric (s : State) (n : Nat) (o : Obj): (s.setObj n o).fabric = s.fabric := rfl
@[simp] theorem setObj_tai (s : State) (n : Nat) (o : Obj): (s.setObj n o).tai = s.tai := rfl
@[simp] theorem setObj_time (s : State) (n : Nat) (o : Obj): (s.setObj n o).time = s.time := rfl
@[simp] theorem setObj_cycle (s : State) (n : Nat) (o : Obj): (s.setObj n o).cycle = s.cycle := rfl
@[simp] theorem setObj_lag (s : State) (n : Nat) (o : Obj): (s.setObj n o).lag = s.lag := rfl
@[simp] theorem setObj_tagLast (s : State) (n : Nat) (o : Obj): (s.setObj n o).tagLast = s.tagLast := rfl
@[simp] theorem setObj_mbox (s : State) (n : Nat) (o : Obj): (s.setObj n o).mbox = s.mbox := rfl
@[simp] theorem setObj_firmware (s : State) (n : Nat) (o : Obj): (s.setObj n o).firmware = s.firmware := rfl
@[simp] theorem setObj_measured (s : State) (n : Nat) (o : Obj): (s.setObj n o).measured = s.measured := rfl
@[simp] theorem setObj_stageStart (s : State) (n : Nat) (o : Obj): (s.setObj n o).stageStart = s.stageStart := rfl
@[simp] theorem setObj_thermal (s : State) (n : Nat) (o : Obj): (s.setObj n o).thermal = s.thermal := rfl
@[simp] theorem setObj_powered (s : State) (n : Nat) (o : Obj): (s.setObj n o).powered = s.powered := rfl
@[simp] theorem setObj_agenda (s : State) (n : Nat) (o : Obj): (s.setObj n o).agenda = s.agenda := rfl
@[simp] theorem setObj_cur (s : State) (n : Nat) (o : Obj): (s.setObj n o).cur = s.cur := rfl
@[simp] theorem setObj_choice (s : State) (n : Nat) (o : Obj): (s.setObj n o).choice = s.choice := rfl
@[simp] theorem setObj_fresh (s : State) (n : Nat) (o : Obj): (s.setObj n o).fresh = s.fresh := rfl

/-! ### postFault -/

@[simp] theorem postFault_procs (s : State) (d : Nat) (ws : List Word): (s.postFault d ws).procs = s.procs := rfl
@[simp] theorem postFault_clusters (s : State) (d : Nat) (ws : List Word): (s.postFault d ws).clusters = s.clusters := rfl
@[simp] theorem postFault_mem (s : State) (d : Nat) (ws : List Word): (s.postFault d ws).mem = s.mem := rfl
@[simp] theorem postFault_objs (s : State) (d : Nat) (ws : List Word): (s.postFault d ws).objs = s.objs := rfl
@[simp] theorem postFault_nextSerial (s : State) (d : Nat) (ws : List Word): (s.postFault d ws).nextSerial = s.nextSerial := rfl
@[simp] theorem postFault_highWater (s : State) (d : Nat) (ws : List Word): (s.postFault d ws).highWater = s.highWater := rfl
@[simp] theorem postFault_handles (s : State) (d : Nat) (ws : List Word): (s.postFault d ws).handles = s.handles := rfl
@[simp] theorem postFault_tableHome (s : State) (d : Nat) (ws : List Word): (s.postFault d ws).tableHome = s.tableHome := rfl
@[simp] theorem postFault_known (s : State) (d : Nat) (ws : List Word): (s.postFault d ws).known = s.known := rfl
@[simp] theorem postFault_leaves (s : State) (d : Nat) (ws : List Word): (s.postFault d ws).leaves = s.leaves := rfl
@[simp] theorem postFault_buckets (s : State) (d : Nat) (ws : List Word): (s.postFault d ws).buckets = s.buckets := rfl
@[simp] theorem postFault_touched (s : State) (d : Nat) (ws : List Word): (s.postFault d ws).touched = s.touched := rfl
@[simp] theorem postFault_hands (s : State) (d : Nat) (ws : List Word): (s.postFault d ws).hands = s.hands := rfl
@[simp] theorem postFault_plans (s : State) (d : Nat) (ws : List Word): (s.postFault d ws).plans = s.plans := rfl
@[simp] theorem postFault_store (s : State) (d : Nat) (ws : List Word): (s.postFault d ws).store = s.store := rfl
@[simp] theorem postFault_regs (s : State) (d : Nat) (ws : List Word): (s.postFault d ws).regs = s.regs := rfl
@[simp] theorem postFault_jobKeys (s : State) (d : Nat) (ws : List Word): (s.postFault d ws).jobKeys = s.jobKeys := rfl
@[simp] theorem postFault_fabric (s : State) (d : Nat) (ws : List Word): (s.postFault d ws).fabric = s.fabric := rfl
@[simp] theorem postFault_tai (s : State) (d : Nat) (ws : List Word): (s.postFault d ws).tai = s.tai := rfl
@[simp] theorem postFault_time (s : State) (d : Nat) (ws : List Word): (s.postFault d ws).time = s.time := rfl
@[simp] theorem postFault_cycle (s : State) (d : Nat) (ws : List Word): (s.postFault d ws).cycle = s.cycle := rfl
@[simp] theorem postFault_lag (s : State) (d : Nat) (ws : List Word): (s.postFault d ws).lag = s.lag := rfl
@[simp] theorem postFault_tagLast (s : State) (d : Nat) (ws : List Word): (s.postFault d ws).tagLast = s.tagLast := rfl
@[simp] theorem postFault_mbox (s : State) (d : Nat) (ws : List Word): (s.postFault d ws).mbox = s.mbox := rfl
@[simp] theorem postFault_firmware (s : State) (d : Nat) (ws : List Word): (s.postFault d ws).firmware = s.firmware := rfl
@[simp] theorem postFault_measured (s : State) (d : Nat) (ws : List Word): (s.postFault d ws).measured = s.measured := rfl
@[simp] theorem postFault_stageStart (s : State) (d : Nat) (ws : List Word): (s.postFault d ws).stageStart = s.stageStart := rfl
@[simp] theorem postFault_thermal (s : State) (d : Nat) (ws : List Word): (s.postFault d ws).thermal = s.thermal := rfl
@[simp] theorem postFault_powered (s : State) (d : Nat) (ws : List Word): (s.postFault d ws).powered = s.powered := rfl
@[simp] theorem postFault_agenda (s : State) (d : Nat) (ws : List Word): (s.postFault d ws).agenda = s.agenda := rfl
@[simp] theorem postFault_cur (s : State) (d : Nat) (ws : List Word): (s.postFault d ws).cur = s.cur := rfl
@[simp] theorem postFault_choice (s : State) (d : Nat) (ws : List Word): (s.postFault d ws).choice = s.choice := rfl
@[simp] theorem postFault_fresh (s : State) (d : Nat) (ws : List Word): (s.postFault d ws).fresh = s.fresh := rfl

/-! ### choose -/

@[simp] theorem choose_procs (s : State) : (s.choose.2).procs = s.procs := rfl
@[simp] theorem choose_clusters (s : State) : (s.choose.2).clusters = s.clusters := rfl
@[simp] theorem choose_dies (s : State) : (s.choose.2).dies = s.dies := rfl
@[simp] theorem choose_mem (s : State) : (s.choose.2).mem = s.mem := rfl
@[simp] theorem choose_objs (s : State) : (s.choose.2).objs = s.objs := rfl
@[simp] theorem choose_nextSerial (s : State) : (s.choose.2).nextSerial = s.nextSerial := rfl
@[simp] theorem choose_highWater (s : State) : (s.choose.2).highWater = s.highWater := rfl
@[simp] theorem choose_handles (s : State) : (s.choose.2).handles = s.handles := rfl
@[simp] theorem choose_tableHome (s : State) : (s.choose.2).tableHome = s.tableHome := rfl
@[simp] theorem choose_known (s : State) : (s.choose.2).known = s.known := rfl
@[simp] theorem choose_leaves (s : State) : (s.choose.2).leaves = s.leaves := rfl
@[simp] theorem choose_buckets (s : State) : (s.choose.2).buckets = s.buckets := rfl
@[simp] theorem choose_touched (s : State) : (s.choose.2).touched = s.touched := rfl
@[simp] theorem choose_hands (s : State) : (s.choose.2).hands = s.hands := rfl
@[simp] theorem choose_plans (s : State) : (s.choose.2).plans = s.plans := rfl
@[simp] theorem choose_store (s : State) : (s.choose.2).store = s.store := rfl
@[simp] theorem choose_regs (s : State) : (s.choose.2).regs = s.regs := rfl
@[simp] theorem choose_jobKeys (s : State) : (s.choose.2).jobKeys = s.jobKeys := rfl
@[simp] theorem choose_fabric (s : State) : (s.choose.2).fabric = s.fabric := rfl
@[simp] theorem choose_tai (s : State) : (s.choose.2).tai = s.tai := rfl
@[simp] theorem choose_time (s : State) : (s.choose.2).time = s.time := rfl
@[simp] theorem choose_cycle (s : State) : (s.choose.2).cycle = s.cycle := rfl
@[simp] theorem choose_lag (s : State) : (s.choose.2).lag = s.lag := rfl
@[simp] theorem choose_tagLast (s : State) : (s.choose.2).tagLast = s.tagLast := rfl
@[simp] theorem choose_mbox (s : State) : (s.choose.2).mbox = s.mbox := rfl
@[simp] theorem choose_firmware (s : State) : (s.choose.2).firmware = s.firmware := rfl
@[simp] theorem choose_measured (s : State) : (s.choose.2).measured = s.measured := rfl
@[simp] theorem choose_stageStart (s : State) : (s.choose.2).stageStart = s.stageStart := rfl
@[simp] theorem choose_thermal (s : State) : (s.choose.2).thermal = s.thermal := rfl
@[simp] theorem choose_powered (s : State) : (s.choose.2).powered = s.powered := rfl
@[simp] theorem choose_agenda (s : State) : (s.choose.2).agenda = s.agenda := rfl
@[simp] theorem choose_cur (s : State) : (s.choose.2).cur = s.cur := rfl
@[simp] theorem choose_fresh (s : State) : (s.choose.2).fresh = s.fresh := rfl

/-! ### freshId -/

@[simp] theorem freshId_procs (s : State) : (s.freshId.2).procs = s.procs := rfl
@[simp] theorem freshId_clusters (s : State) : (s.freshId.2).clusters = s.clusters := rfl
@[simp] theorem freshId_dies (s : State) : (s.freshId.2).dies = s.dies := rfl
@[simp] theorem freshId_mem (s : State) : (s.freshId.2).mem = s.mem := rfl
@[simp] theorem freshId_objs (s : State) : (s.freshId.2).objs = s.objs := rfl
@[simp] theorem freshId_nextSerial (s : State) : (s.freshId.2).nextSerial = s.nextSerial := rfl
@[simp] theorem freshId_highWater (s : State) : (s.freshId.2).highWater = s.highWater := rfl
@[simp] theorem freshId_handles (s : State) : (s.freshId.2).handles = s.handles := rfl
@[simp] theorem freshId_tableHome (s : State) : (s.freshId.2).tableHome = s.tableHome := rfl
@[simp] theorem freshId_known (s : State) : (s.freshId.2).known = s.known := rfl
@[simp] theorem freshId_leaves (s : State) : (s.freshId.2).leaves = s.leaves := rfl
@[simp] theorem freshId_buckets (s : State) : (s.freshId.2).buckets = s.buckets := rfl
@[simp] theorem freshId_touched (s : State) : (s.freshId.2).touched = s.touched := rfl
@[simp] theorem freshId_hands (s : State) : (s.freshId.2).hands = s.hands := rfl
@[simp] theorem freshId_plans (s : State) : (s.freshId.2).plans = s.plans := rfl
@[simp] theorem freshId_store (s : State) : (s.freshId.2).store = s.store := rfl
@[simp] theorem freshId_regs (s : State) : (s.freshId.2).regs = s.regs := rfl
@[simp] theorem freshId_jobKeys (s : State) : (s.freshId.2).jobKeys = s.jobKeys := rfl
@[simp] theorem freshId_fabric (s : State) : (s.freshId.2).fabric = s.fabric := rfl
@[simp] theorem freshId_tai (s : State) : (s.freshId.2).tai = s.tai := rfl
@[simp] theorem freshId_time (s : State) : (s.freshId.2).time = s.time := rfl
@[simp] theorem freshId_cycle (s : State) : (s.freshId.2).cycle = s.cycle := rfl
@[simp] theorem freshId_lag (s : State) : (s.freshId.2).lag = s.lag := rfl
@[simp] theorem freshId_tagLast (s : State) : (s.freshId.2).tagLast = s.tagLast := rfl
@[simp] theorem freshId_mbox (s : State) : (s.freshId.2).mbox = s.mbox := rfl
@[simp] theorem freshId_firmware (s : State) : (s.freshId.2).firmware = s.firmware := rfl
@[simp] theorem freshId_measured (s : State) : (s.freshId.2).measured = s.measured := rfl
@[simp] theorem freshId_stageStart (s : State) : (s.freshId.2).stageStart = s.stageStart := rfl
@[simp] theorem freshId_thermal (s : State) : (s.freshId.2).thermal = s.thermal := rfl
@[simp] theorem freshId_powered (s : State) : (s.freshId.2).powered = s.powered := rfl
@[simp] theorem freshId_agenda (s : State) : (s.freshId.2).agenda = s.agenda := rfl
@[simp] theorem freshId_cur (s : State) : (s.freshId.2).cur = s.cur := rfl
@[simp] theorem freshId_choice (s : State) : (s.freshId.2).choice = s.choice := rfl

/-! ### view -/

@[simp] theorem view_clusters (s : State) (p : Nat): ((s.view p).2).clusters = s.clusters := rfl
@[simp] theorem view_dies (s : State) (p : Nat): ((s.view p).2).dies = s.dies := rfl
@[simp] theorem view_mem (s : State) (p : Nat): ((s.view p).2).mem = s.mem := rfl
@[simp] theorem view_objs (s : State) (p : Nat): ((s.view p).2).objs = s.objs := rfl
@[simp] theorem view_nextSerial (s : State) (p : Nat): ((s.view p).2).nextSerial = s.nextSerial := rfl
@[simp] theorem view_highWater (s : State) (p : Nat): ((s.view p).2).highWater = s.highWater := rfl
@[simp] theorem view_handles (s : State) (p : Nat): ((s.view p).2).handles = s.handles := rfl
@[simp] theorem view_tableHome (s : State) (p : Nat): ((s.view p).2).tableHome = s.tableHome := rfl
@[simp] theorem view_known (s : State) (p : Nat): ((s.view p).2).known = s.known := rfl
@[simp] theorem view_leaves (s : State) (p : Nat): ((s.view p).2).leaves = s.leaves := rfl
@[simp] theorem view_buckets (s : State) (p : Nat): ((s.view p).2).buckets = s.buckets := rfl
@[simp] theorem view_touched (s : State) (p : Nat): ((s.view p).2).touched = s.touched := rfl
@[simp] theorem view_hands (s : State) (p : Nat): ((s.view p).2).hands = s.hands := rfl
@[simp] theorem view_plans (s : State) (p : Nat): ((s.view p).2).plans = s.plans := rfl
@[simp] theorem view_store (s : State) (p : Nat): ((s.view p).2).store = s.store := rfl
@[simp] theorem view_regs (s : State) (p : Nat): ((s.view p).2).regs = s.regs := rfl
@[simp] theorem view_jobKeys (s : State) (p : Nat): ((s.view p).2).jobKeys = s.jobKeys := rfl
@[simp] theorem view_fabric (s : State) (p : Nat): ((s.view p).2).fabric = s.fabric := rfl
@[simp] theorem view_tai (s : State) (p : Nat): ((s.view p).2).tai = s.tai := rfl
@[simp] theorem view_time (s : State) (p : Nat): ((s.view p).2).time = s.time := rfl
@[simp] theorem view_cycle (s : State) (p : Nat): ((s.view p).2).cycle = s.cycle := rfl
@[simp] theorem view_lag (s : State) (p : Nat): ((s.view p).2).lag = s.lag := rfl
@[simp] theorem view_tagLast (s : State) (p : Nat): ((s.view p).2).tagLast = s.tagLast := rfl
@[simp] theorem view_mbox (s : State) (p : Nat): ((s.view p).2).mbox = s.mbox := rfl
@[simp] theorem view_firmware (s : State) (p : Nat): ((s.view p).2).firmware = s.firmware := rfl
@[simp] theorem view_measured (s : State) (p : Nat): ((s.view p).2).measured = s.measured := rfl
@[simp] theorem view_stageStart (s : State) (p : Nat): ((s.view p).2).stageStart = s.stageStart := rfl
@[simp] theorem view_thermal (s : State) (p : Nat): ((s.view p).2).thermal = s.thermal := rfl
@[simp] theorem view_powered (s : State) (p : Nat): ((s.view p).2).powered = s.powered := rfl
@[simp] theorem view_agenda (s : State) (p : Nat): ((s.view p).2).agenda = s.agenda := rfl
@[simp] theorem view_cur (s : State) (p : Nat): ((s.view p).2).cur = s.cur := rfl
@[simp] theorem view_fresh (s : State) (p : Nat): ((s.view p).2).fresh = s.fresh := rfl

/-! ### advance -/

@[simp] theorem advance_clusters (s : State) (p c : Nat) (t : Option (BitVec 19)): (s.advance p c t).clusters = s.clusters := by unfold State.advance; split <;> rfl
@[simp] theorem advance_dies (s : State) (p c : Nat) (t : Option (BitVec 19)): (s.advance p c t).dies = s.dies := by unfold State.advance; split <;> rfl
@[simp] theorem advance_mem (s : State) (p c : Nat) (t : Option (BitVec 19)): (s.advance p c t).mem = s.mem := by unfold State.advance; split <;> rfl
@[simp] theorem advance_objs (s : State) (p c : Nat) (t : Option (BitVec 19)): (s.advance p c t).objs = s.objs := by unfold State.advance; split <;> rfl
@[simp] theorem advance_nextSerial (s : State) (p c : Nat) (t : Option (BitVec 19)): (s.advance p c t).nextSerial = s.nextSerial := by unfold State.advance; split <;> rfl
@[simp] theorem advance_highWater (s : State) (p c : Nat) (t : Option (BitVec 19)): (s.advance p c t).highWater = s.highWater := by unfold State.advance; split <;> rfl
@[simp] theorem advance_handles (s : State) (p c : Nat) (t : Option (BitVec 19)): (s.advance p c t).handles = s.handles := by unfold State.advance; split <;> rfl
@[simp] theorem advance_tableHome (s : State) (p c : Nat) (t : Option (BitVec 19)): (s.advance p c t).tableHome = s.tableHome := by unfold State.advance; split <;> rfl
@[simp] theorem advance_known (s : State) (p c : Nat) (t : Option (BitVec 19)): (s.advance p c t).known = s.known := by unfold State.advance; split <;> rfl
@[simp] theorem advance_leaves (s : State) (p c : Nat) (t : Option (BitVec 19)): (s.advance p c t).leaves = s.leaves := by unfold State.advance; split <;> rfl
@[simp] theorem advance_buckets (s : State) (p c : Nat) (t : Option (BitVec 19)): (s.advance p c t).buckets = s.buckets := by unfold State.advance; split <;> rfl
@[simp] theorem advance_touched (s : State) (p c : Nat) (t : Option (BitVec 19)): (s.advance p c t).touched = s.touched := by unfold State.advance; split <;> rfl
@[simp] theorem advance_hands (s : State) (p c : Nat) (t : Option (BitVec 19)): (s.advance p c t).hands = s.hands := by unfold State.advance; split <;> rfl
@[simp] theorem advance_plans (s : State) (p c : Nat) (t : Option (BitVec 19)): (s.advance p c t).plans = s.plans := by unfold State.advance; split <;> rfl
@[simp] theorem advance_store (s : State) (p c : Nat) (t : Option (BitVec 19)): (s.advance p c t).store = s.store := by unfold State.advance; split <;> rfl
@[simp] theorem advance_regs (s : State) (p c : Nat) (t : Option (BitVec 19)): (s.advance p c t).regs = s.regs := by unfold State.advance; split <;> rfl
@[simp] theorem advance_jobKeys (s : State) (p c : Nat) (t : Option (BitVec 19)): (s.advance p c t).jobKeys = s.jobKeys := by unfold State.advance; split <;> rfl
@[simp] theorem advance_fabric (s : State) (p c : Nat) (t : Option (BitVec 19)): (s.advance p c t).fabric = s.fabric := by unfold State.advance; split <;> rfl
@[simp] theorem advance_tai (s : State) (p c : Nat) (t : Option (BitVec 19)): (s.advance p c t).tai = s.tai := by unfold State.advance; split <;> rfl
@[simp] theorem advance_time (s : State) (p c : Nat) (t : Option (BitVec 19)): (s.advance p c t).time = s.time := by unfold State.advance; split <;> rfl
@[simp] theorem advance_cycle (s : State) (p c : Nat) (t : Option (BitVec 19)): (s.advance p c t).cycle = s.cycle := by unfold State.advance; split <;> rfl
@[simp] theorem advance_lag (s : State) (p c : Nat) (t : Option (BitVec 19)): (s.advance p c t).lag = s.lag := by unfold State.advance; split <;> rfl
@[simp] theorem advance_tagLast (s : State) (p c : Nat) (t : Option (BitVec 19)): (s.advance p c t).tagLast = s.tagLast := by unfold State.advance; split <;> rfl
@[simp] theorem advance_mbox (s : State) (p c : Nat) (t : Option (BitVec 19)): (s.advance p c t).mbox = s.mbox := by unfold State.advance; split <;> rfl
@[simp] theorem advance_firmware (s : State) (p c : Nat) (t : Option (BitVec 19)): (s.advance p c t).firmware = s.firmware := by unfold State.advance; split <;> rfl
@[simp] theorem advance_measured (s : State) (p c : Nat) (t : Option (BitVec 19)): (s.advance p c t).measured = s.measured := by unfold State.advance; split <;> rfl
@[simp] theorem advance_stageStart (s : State) (p c : Nat) (t : Option (BitVec 19)): (s.advance p c t).stageStart = s.stageStart := by unfold State.advance; split <;> rfl
@[simp] theorem advance_thermal (s : State) (p c : Nat) (t : Option (BitVec 19)): (s.advance p c t).thermal = s.thermal := by unfold State.advance; split <;> rfl
@[simp] theorem advance_powered (s : State) (p c : Nat) (t : Option (BitVec 19)): (s.advance p c t).powered = s.powered := by unfold State.advance; split <;> rfl
@[simp] theorem advance_agenda (s : State) (p c : Nat) (t : Option (BitVec 19)): (s.advance p c t).agenda = s.agenda := by unfold State.advance; split <;> rfl
@[simp] theorem advance_cur (s : State) (p c : Nat) (t : Option (BitVec 19)): (s.advance p c t).cur = s.cur := by unfold State.advance; split <;> rfl
@[simp] theorem advance_choice (s : State) (p c : Nat) (t : Option (BitVec 19)): (s.advance p c t).choice = s.choice := by unfold State.advance; split <;> rfl
@[simp] theorem advance_fresh (s : State) (p c : Nat) (t : Option (BitVec 19)): (s.advance p c t).fresh = s.fresh := by unfold State.advance; split <;> rfl

/-! ### respond -/

@[simp] theorem respond_clusters (s : State) (p : Nat) (r : Req) (ws : List Word) (tag : BitVec 3): (s.respond p r ws tag).clusters = s.clusters := by unfold State.respond; split <;> rfl
@[simp] theorem respond_dies (s : State) (p : Nat) (r : Req) (ws : List Word) (tag : BitVec 3): (s.respond p r ws tag).dies = s.dies := by unfold State.respond; split <;> rfl
@[simp] theorem respond_mem (s : State) (p : Nat) (r : Req) (ws : List Word) (tag : BitVec 3): (s.respond p r ws tag).mem = s.mem := by unfold State.respond; split <;> rfl
@[simp] theorem respond_objs (s : State) (p : Nat) (r : Req) (ws : List Word) (tag : BitVec 3): (s.respond p r ws tag).objs = s.objs := by unfold State.respond; split <;> rfl
@[simp] theorem respond_nextSerial (s : State) (p : Nat) (r : Req) (ws : List Word) (tag : BitVec 3): (s.respond p r ws tag).nextSerial = s.nextSerial := by unfold State.respond; split <;> rfl
@[simp] theorem respond_highWater (s : State) (p : Nat) (r : Req) (ws : List Word) (tag : BitVec 3): (s.respond p r ws tag).highWater = s.highWater := by unfold State.respond; split <;> rfl
@[simp] theorem respond_handles (s : State) (p : Nat) (r : Req) (ws : List Word) (tag : BitVec 3): (s.respond p r ws tag).handles = s.handles := by unfold State.respond; split <;> rfl
@[simp] theorem respond_tableHome (s : State) (p : Nat) (r : Req) (ws : List Word) (tag : BitVec 3): (s.respond p r ws tag).tableHome = s.tableHome := by unfold State.respond; split <;> rfl
@[simp] theorem respond_known (s : State) (p : Nat) (r : Req) (ws : List Word) (tag : BitVec 3): (s.respond p r ws tag).known = s.known := by unfold State.respond; split <;> rfl
@[simp] theorem respond_leaves (s : State) (p : Nat) (r : Req) (ws : List Word) (tag : BitVec 3): (s.respond p r ws tag).leaves = s.leaves := by unfold State.respond; split <;> rfl
@[simp] theorem respond_buckets (s : State) (p : Nat) (r : Req) (ws : List Word) (tag : BitVec 3): (s.respond p r ws tag).buckets = s.buckets := by unfold State.respond; split <;> rfl
@[simp] theorem respond_touched (s : State) (p : Nat) (r : Req) (ws : List Word) (tag : BitVec 3): (s.respond p r ws tag).touched = s.touched := by unfold State.respond; split <;> rfl
@[simp] theorem respond_hands (s : State) (p : Nat) (r : Req) (ws : List Word) (tag : BitVec 3): (s.respond p r ws tag).hands = s.hands := by unfold State.respond; split <;> rfl
@[simp] theorem respond_plans (s : State) (p : Nat) (r : Req) (ws : List Word) (tag : BitVec 3): (s.respond p r ws tag).plans = s.plans := by unfold State.respond; split <;> rfl
@[simp] theorem respond_store (s : State) (p : Nat) (r : Req) (ws : List Word) (tag : BitVec 3): (s.respond p r ws tag).store = s.store := by unfold State.respond; split <;> rfl
@[simp] theorem respond_regs (s : State) (p : Nat) (r : Req) (ws : List Word) (tag : BitVec 3): (s.respond p r ws tag).regs = s.regs := by unfold State.respond; split <;> rfl
@[simp] theorem respond_jobKeys (s : State) (p : Nat) (r : Req) (ws : List Word) (tag : BitVec 3): (s.respond p r ws tag).jobKeys = s.jobKeys := by unfold State.respond; split <;> rfl
@[simp] theorem respond_fabric (s : State) (p : Nat) (r : Req) (ws : List Word) (tag : BitVec 3): (s.respond p r ws tag).fabric = s.fabric := by unfold State.respond; split <;> rfl
@[simp] theorem respond_tai (s : State) (p : Nat) (r : Req) (ws : List Word) (tag : BitVec 3): (s.respond p r ws tag).tai = s.tai := by unfold State.respond; split <;> rfl
@[simp] theorem respond_time (s : State) (p : Nat) (r : Req) (ws : List Word) (tag : BitVec 3): (s.respond p r ws tag).time = s.time := by unfold State.respond; split <;> rfl
@[simp] theorem respond_cycle (s : State) (p : Nat) (r : Req) (ws : List Word) (tag : BitVec 3): (s.respond p r ws tag).cycle = s.cycle := by unfold State.respond; split <;> rfl
@[simp] theorem respond_lag (s : State) (p : Nat) (r : Req) (ws : List Word) (tag : BitVec 3): (s.respond p r ws tag).lag = s.lag := by unfold State.respond; split <;> rfl
@[simp] theorem respond_tagLast (s : State) (p : Nat) (r : Req) (ws : List Word) (tag : BitVec 3): (s.respond p r ws tag).tagLast = s.tagLast := by unfold State.respond; split <;> rfl
@[simp] theorem respond_mbox (s : State) (p : Nat) (r : Req) (ws : List Word) (tag : BitVec 3): (s.respond p r ws tag).mbox = s.mbox := by unfold State.respond; split <;> rfl
@[simp] theorem respond_firmware (s : State) (p : Nat) (r : Req) (ws : List Word) (tag : BitVec 3): (s.respond p r ws tag).firmware = s.firmware := by unfold State.respond; split <;> rfl
@[simp] theorem respond_measured (s : State) (p : Nat) (r : Req) (ws : List Word) (tag : BitVec 3): (s.respond p r ws tag).measured = s.measured := by unfold State.respond; split <;> rfl
@[simp] theorem respond_stageStart (s : State) (p : Nat) (r : Req) (ws : List Word) (tag : BitVec 3): (s.respond p r ws tag).stageStart = s.stageStart := by unfold State.respond; split <;> rfl
@[simp] theorem respond_thermal (s : State) (p : Nat) (r : Req) (ws : List Word) (tag : BitVec 3): (s.respond p r ws tag).thermal = s.thermal := by unfold State.respond; split <;> rfl
@[simp] theorem respond_powered (s : State) (p : Nat) (r : Req) (ws : List Word) (tag : BitVec 3): (s.respond p r ws tag).powered = s.powered := by unfold State.respond; split <;> rfl
@[simp] theorem respond_agenda (s : State) (p : Nat) (r : Req) (ws : List Word) (tag : BitVec 3): (s.respond p r ws tag).agenda = s.agenda := by unfold State.respond; split <;> rfl
@[simp] theorem respond_cur (s : State) (p : Nat) (r : Req) (ws : List Word) (tag : BitVec 3): (s.respond p r ws tag).cur = s.cur := by unfold State.respond; split <;> rfl
@[simp] theorem respond_choice (s : State) (p : Nat) (r : Req) (ws : List Word) (tag : BitVec 3): (s.respond p r ws tag).choice = s.choice := by unfold State.respond; split <;> rfl
@[simp] theorem respond_fresh (s : State) (p : Nat) (r : Req) (ws : List Word) (tag : BitVec 3): (s.respond p r ws tag).fresh = s.fresh := by unfold State.respond; split <;> rfl

/-! ### postEl -/

@[simp] theorem postEl_clusters (s : State) (p a b c d : Nat): (s.postEl p a b c d).clusters = s.clusters := by unfold State.postEl; repeat (first | rfl | split)
@[simp] theorem postEl_mem (s : State) (p a b c d : Nat): (s.postEl p a b c d).mem = s.mem := by unfold State.postEl; repeat (first | rfl | split)
@[simp] theorem postEl_objs (s : State) (p a b c d : Nat): (s.postEl p a b c d).objs = s.objs := by unfold State.postEl; repeat (first | rfl | split)
@[simp] theorem postEl_nextSerial (s : State) (p a b c d : Nat): (s.postEl p a b c d).nextSerial = s.nextSerial := by unfold State.postEl; repeat (first | rfl | split)
@[simp] theorem postEl_highWater (s : State) (p a b c d : Nat): (s.postEl p a b c d).highWater = s.highWater := by unfold State.postEl; repeat (first | rfl | split)
@[simp] theorem postEl_handles (s : State) (p a b c d : Nat): (s.postEl p a b c d).handles = s.handles := by unfold State.postEl; repeat (first | rfl | split)
@[simp] theorem postEl_tableHome (s : State) (p a b c d : Nat): (s.postEl p a b c d).tableHome = s.tableHome := by unfold State.postEl; repeat (first | rfl | split)
@[simp] theorem postEl_known (s : State) (p a b c d : Nat): (s.postEl p a b c d).known = s.known := by unfold State.postEl; repeat (first | rfl | split)
@[simp] theorem postEl_leaves (s : State) (p a b c d : Nat): (s.postEl p a b c d).leaves = s.leaves := by unfold State.postEl; repeat (first | rfl | split)
@[simp] theorem postEl_buckets (s : State) (p a b c d : Nat): (s.postEl p a b c d).buckets = s.buckets := by unfold State.postEl; repeat (first | rfl | split)
@[simp] theorem postEl_touched (s : State) (p a b c d : Nat): (s.postEl p a b c d).touched = s.touched := by unfold State.postEl; repeat (first | rfl | split)
@[simp] theorem postEl_hands (s : State) (p a b c d : Nat): (s.postEl p a b c d).hands = s.hands := by unfold State.postEl; repeat (first | rfl | split)
@[simp] theorem postEl_plans (s : State) (p a b c d : Nat): (s.postEl p a b c d).plans = s.plans := by unfold State.postEl; repeat (first | rfl | split)
@[simp] theorem postEl_store (s : State) (p a b c d : Nat): (s.postEl p a b c d).store = s.store := by unfold State.postEl; repeat (first | rfl | split)
@[simp] theorem postEl_regs (s : State) (p a b c d : Nat): (s.postEl p a b c d).regs = s.regs := by unfold State.postEl; repeat (first | rfl | split)
@[simp] theorem postEl_jobKeys (s : State) (p a b c d : Nat): (s.postEl p a b c d).jobKeys = s.jobKeys := by unfold State.postEl; repeat (first | rfl | split)
@[simp] theorem postEl_fabric (s : State) (p a b c d : Nat): (s.postEl p a b c d).fabric = s.fabric := by unfold State.postEl; repeat (first | rfl | split)
@[simp] theorem postEl_tai (s : State) (p a b c d : Nat): (s.postEl p a b c d).tai = s.tai := by unfold State.postEl; repeat (first | rfl | split)
@[simp] theorem postEl_time (s : State) (p a b c d : Nat): (s.postEl p a b c d).time = s.time := by unfold State.postEl; repeat (first | rfl | split)
@[simp] theorem postEl_cycle (s : State) (p a b c d : Nat): (s.postEl p a b c d).cycle = s.cycle := by unfold State.postEl; repeat (first | rfl | split)
@[simp] theorem postEl_lag (s : State) (p a b c d : Nat): (s.postEl p a b c d).lag = s.lag := by unfold State.postEl; repeat (first | rfl | split)
@[simp] theorem postEl_tagLast (s : State) (p a b c d : Nat): (s.postEl p a b c d).tagLast = s.tagLast := by unfold State.postEl; repeat (first | rfl | split)
@[simp] theorem postEl_mbox (s : State) (p a b c d : Nat): (s.postEl p a b c d).mbox = s.mbox := by unfold State.postEl; repeat (first | rfl | split)
@[simp] theorem postEl_firmware (s : State) (p a b c d : Nat): (s.postEl p a b c d).firmware = s.firmware := by unfold State.postEl; repeat (first | rfl | split)
@[simp] theorem postEl_measured (s : State) (p a b c d : Nat): (s.postEl p a b c d).measured = s.measured := by unfold State.postEl; repeat (first | rfl | split)
@[simp] theorem postEl_stageStart (s : State) (p a b c d : Nat): (s.postEl p a b c d).stageStart = s.stageStart := by unfold State.postEl; repeat (first | rfl | split)
@[simp] theorem postEl_thermal (s : State) (p a b c d : Nat): (s.postEl p a b c d).thermal = s.thermal := by unfold State.postEl; repeat (first | rfl | split)
@[simp] theorem postEl_powered (s : State) (p a b c d : Nat): (s.postEl p a b c d).powered = s.powered := by unfold State.postEl; repeat (first | rfl | split)
@[simp] theorem postEl_agenda (s : State) (p a b c d : Nat): (s.postEl p a b c d).agenda = s.agenda := by unfold State.postEl; repeat (first | rfl | split)
@[simp] theorem postEl_cur (s : State) (p a b c d : Nat): (s.postEl p a b c d).cur = s.cur := by unfold State.postEl; repeat (first | rfl | split)
@[simp] theorem postEl_choice (s : State) (p a b c d : Nat): (s.postEl p a b c d).choice = s.choice := by unfold State.postEl; repeat (first | rfl | split)
@[simp] theorem postEl_fresh (s : State) (p a b c d : Nat): (s.postEl p a b c d).fresh = s.fresh := by unfold State.postEl; repeat (first | rfl | split)

/-! ### Accessors after updates -/

/-- The unit replaced. -/
@[simp] theorem proc_setProc_self (s : State) (p : Nat) (P : Proc) : (s.setProc p P).proc p = P := by
  simp [State.proc, State.setProc]

/-- Another unit. -/
theorem proc_setProc_ne (s : State) {p q : Nat} (P : Proc) (h : q ≠ p) : (s.setProc p P).proc q = s.proc q := by
  simp [State.proc, State.setProc, kmap_get_set, h]

/-- The unit changed. -/
@[simp] theorem proc_modProc_self (s : State) (p : Nat) (f : Proc → Proc) : (s.modProc p f).proc p = f (s.proc p) := by
  simp [State.modProc]

/-- Another unit. -/
theorem proc_modProc_ne (s : State) {p q : Nat} (f : Proc → Proc) (h : q ≠ p) : (s.modProc p f).proc q = s.proc q := by
  simp [State.modProc, proc_setProc_ne, h]

/-- The cluster changed. -/
@[simp] theorem cluster_modCluster_self (s : State) (n : Nat) (f : Cluster → Cluster) :
    (s.modCluster n f).cluster n = f (s.cluster n) := by
  simp [State.cluster, State.modCluster]

/-- Another cluster. -/
theorem cluster_modCluster_ne (s : State) {n k : Nat} (f : Cluster → Cluster) (h : k ≠ n) :
    (s.modCluster n f).cluster k = s.cluster k := by
  simp [State.cluster, State.modCluster, kmap_get_set, h]

/-- The die changed. -/
@[simp] theorem die_modDie_self (s : State) (d : Nat) (f : Die → Die) : (s.modDie d f).die d = f (s.die d) := by
  simp [State.die, State.modDie]

/-- Another die. -/
theorem die_modDie_ne (s : State) {d k : Nat} (f : Die → Die) (h : k ≠ d) : (s.modDie d f).die k = s.die k := by
  simp [State.die, State.modDie, kmap_get_set, h]

/-- Units are apart from dies. -/
@[simp] theorem proc_modDie (s : State) (d : Nat) (f : Die → Die) (p : Nat) : (s.modDie d f).proc p = s.proc p := rfl
/-- Units are apart from clusters. -/
@[simp] theorem proc_modCluster (s : State) (d : Nat) (f : Cluster → Cluster) (p : Nat) :
    (s.modCluster d f).proc p = s.proc p := rfl
/-- Dies are apart from units. -/
@[simp] theorem die_modProc (s : State) (p : Nat) (f : Proc → Proc) (d : Nat) : (s.modProc p f).die d = s.die d := rfl
/-- Dies are apart from clusters. -/
@[simp] theorem die_modCluster (s : State) (p : Nat) (f : Cluster → Cluster) (d : Nat) :
    (s.modCluster p f).die d = s.die d := rfl
/-- Clusters are apart from units. -/
@[simp] theorem cluster_modProc (s : State) (p : Nat) (f : Proc → Proc) (n : Nat) :
    (s.modProc p f).cluster n = s.cluster n := rfl
/-- Clusters are apart from dies. -/
@[simp] theorem cluster_modDie (s : State) (p : Nat) (f : Die → Die) (n : Nat) :
    (s.modDie p f).cluster n = s.cluster n := rfl

/-- The region changed. -/
@[simp] theorem region_modRegion_self (s : State) (d g : Nat) (f : Region → Region) :
    (s.modRegion d g f).region d g = f (s.region d g) := by
  simp [State.region, State.modRegion]

/-- A control-page register read after it is stored. -/
@[simp] theorem ctlReg_setCtlReg_self (s : State) (d r : Nat) (w : Word) : (s.setCtlReg d r w).ctlReg d r = w := by
  simp [State.ctlReg, State.setCtlReg]

/-- Another control-page register. -/
theorem ctlReg_setCtlReg_ne (s : State) (d : Nat) {r k : Nat} (w : Word) (h : k ≠ r) :
    (s.setCtlReg d r w).ctlReg d k = s.ctlReg d k := by
  simp [State.ctlReg, State.setCtlReg, kmap_get_set_ne, h]

/-- A package register read after it is stored. -/
@[simp] theorem pkgReg_setPkgReg_self (s : State) (r : Nat) (w : Word) : (s.setPkgReg r w).pkgReg r = w := by
  simp [State.pkgReg, State.setPkgReg]

/-- Another package register. -/
theorem pkgReg_setPkgReg_ne (s : State) {r k : Nat} (w : Word) (h : k ≠ r) :
    (s.setPkgReg r w).pkgReg k = s.pkgReg k := by
  simp [State.pkgReg, State.setPkgReg, kmap_get_set, h]

/-- The leaf entry written. -/
@[simp] theorem leaf_setLeaf_self (s : State) (n : Nat) (l : Leaf) : (s.setLeaf n l).leaf n = l := by
  simp [State.leaf, State.setLeaf]

/-- The object written. -/
@[simp] theorem obj_setObj_self (s : State) (n : Nat) (o : Obj) : (s.setObj n o).obj n = o := by
  simp [State.obj, State.setObj]

/-! ### Vectors by number -/

/-- An element read after it is replaced, below the length. -/
theorem vget_vset {α : Type} {n : Nat} [NeZero n] (v : Vector α n) {i j : Nat} (hi : i < n) (hj : j < n) (x : α) :
    vget (vset v i x) j = if j = i then x else vget v j := by
  simp only [vget, vset, Nat.mod_eq_of_lt hi, Nat.mod_eq_of_lt hj]
  rw [Vector.getElem_set]
  simp only [eq_comm]

/-- The element replaced. -/
@[simp] theorem vget_vset_self {α : Type} {n : Nat} [NeZero n] (v : Vector α n) (i : Nat) (x : α) :
    vget (vset v i x) i = x := by
  simp [vget, vset]

/-! ### Contexts -/

/-- The context replaced. -/
@[simp] theorem ctx_setCtx_self (P : Proc) (c : Nat) (C : Ctx) : (P.setCtx c C).ctx c = C := by
  simp [Proc.ctx, Proc.setCtx]

/-- Another context. -/
theorem ctx_setCtx_ne (P : Proc) {c k : Nat} (hc : c < 4) (hk : k < 4) (C : Ctx) (h : k ≠ c) :
    (P.setCtx c C).ctx k = P.ctx k := by
  simp [Proc.ctx, Proc.setCtx, vget_vset, hc, hk, h]

/-- The context changed. -/
@[simp] theorem ctx_modCtx_self (s : State) (p c : Nat) (f : Ctx → Ctx) : (s.modCtx p c f).ctx p c = f (s.ctx p c) := by
  simp [State.ctx, State.modCtx]

@[simp] theorem setCtx_slots (P : Proc) (c : Nat) (C : Ctx) : (P.setCtx c C).slots = P.slots := rfl
@[simp] theorem setCtx_last (P : Proc) (c : Nat) (C : Ctx) : (P.setCtx c C).last = P.last := rfl
@[simp] theorem setCtx_ins (P : Proc) (c : Nat) (C : Ctx) : (P.setCtx c C).ins = P.ins := rfl
@[simp] theorem setCtx_outs (P : Proc) (c : Nat) (C : Ctx) : (P.setCtx c C).outs = P.outs := rfl
@[simp] theorem setCtx_sels (P : Proc) (c : Nat) (C : Ctx) : (P.setCtx c C).sels = P.sels := rfl
@[simp] theorem setCtx_lanes (P : Proc) (c : Nat) (C : Ctx) : (P.setCtx c C).lanes = P.lanes := rfl
@[simp] theorem setCtx_owners (P : Proc) (c : Nat) (C : Ctx) : (P.setCtx c C).owners = P.owners := rfl
@[simp] theorem setCtx_ptr (P : Proc) (c : Nat) (C : Ctx) : (P.setCtx c C).ptr = P.ptr := rfl
@[simp] theorem setCtx_head (P : Proc) (c : Nat) (C : Ctx) : (P.setCtx c C).head = P.head := rfl
@[simp] theorem setCtx_openTasks (P : Proc) (c : Nat) (C : Ctx) : (P.setCtx c C).openTasks = P.openTasks := rfl
@[simp] theorem setCtx_hold (P : Proc) (c : Nat) (C : Ctx) : (P.setCtx c C).hold = P.hold := rfl
@[simp] theorem setCtx_ml (P : Proc) (c : Nat) (C : Ctx) : (P.setCtx c C).ml = P.ml := rfl
@[simp] theorem setCtx_el (P : Proc) (c : Nat) (C : Ctx) : (P.setCtx c C).el = P.el := rfl
@[simp] theorem setCtx_elHeld (P : Proc) (c : Nat) (C : Ctx) : (P.setCtx c C).elHeld = P.elHeld := rfl
@[simp] theorem setCtx_taskOut (P : Proc) (c : Nat) (C : Ctx) : (P.setCtx c C).taskOut = P.taskOut := rfl
@[simp] theorem setCtx_trace (P : Proc) (c : Nat) (C : Ctx) : (P.setCtx c C).trace = P.trace := rfl
@[simp] theorem setCtx_traceBuf (P : Proc) (c : Nat) (C : Ctx) : (P.setCtx c C).traceBuf = P.traceBuf := rfl
@[simp] theorem setCtx_reqs (P : Proc) (c : Nat) (C : Ctx) : (P.setCtx c C).reqs = P.reqs := rfl
@[simp] theorem setCtx_held (P : Proc) (c : Nat) (C : Ctx) : (P.setCtx c C).held = P.held := rfl
@[simp] theorem setCtx_parked (P : Proc) (c : Nat) (C : Ctx) : (P.setCtx c C).parked = P.parked := rfl
@[simp] theorem setCtx_resps (P : Proc) (c : Nat) (C : Ctx) : (P.setCtx c C).resps = P.resps := rfl
@[simp] theorem setCtx_view (P : Proc) (c : Nat) (C : Ctx) : (P.setCtx c C).view = P.view := rfl
@[simp] theorem setCtx_evq (P : Proc) (c : Nat) (C : Ctx) : (P.setCtx c C).evq = P.evq := rfl
@[simp] theorem setCtx_region (P : Proc) (c : Nat) (C : Ctx) : (P.setCtx c C).region = P.region := rfl
@[simp] theorem setCtx_dirtySlots (P : Proc) (c : Nat) (C : Ctx) : (P.setCtx c C).dirtySlots = P.dirtySlots := rfl
@[simp] theorem setCtx_badRegs (P : Proc) (c : Nat) (C : Ctx) : (P.setCtx c C).badRegs = P.badRegs := rfl

end Sys2Proof.Laws
end

