-- ==== Sys2Proof/Laws/Memory.lean ====
section
/-! SUPPORT. Memory: a read after a write, writes of several bytes, and the canonical form that every write keeps. -/

namespace Sys2Proof.Laws

open Sys2Proof Sys2Proof.Machine

/-- A byte read after a write. -/
theorem mget_mset (s : State) (a k : Nat) (b : Byte) : (s.mset a b).mget k = if k = a then b else s.mget k :=
  kmap_get_set 0 s.mem a k b

/-- Everything but memory is as before a write of bytes. -/
theorem mwrite_eq (s : State) (a : Nat) (bs : List Byte) : s.mwrite a bs = { s with mem := (s.mwrite a bs).mem } := by
  induction bs generalizing s a with
  | nil => rfl
  | cons b bs ih => simp only [State.mwrite]; rw [ih]; rfl

/-- A byte read after a write of bytes. -/
theorem mget_mwrite (s : State) (a k : Nat) (bs : List Byte) :
    (s.mwrite a bs).mget k = if a ≤ k ∧ k < a + bs.length then bs.getD (k - a) 0 else s.mget k := by
  induction bs generalizing s a with
  | nil => simp only [State.mwrite, List.length_nil]; rw [if_neg (by omega)]
  | cons b bs ih =>
    simp only [State.mwrite, ih, mget_mset, List.length_cons]
    by_cases h : k = a
    · subst h
      have e : ¬(k + 1 ≤ k ∧ k < k + 1 + bs.length) := by omega
      have e' : k ≤ k ∧ k < k + (bs.length + 1) := by omega
      rw [if_neg e, if_pos rfl, if_pos e', Nat.sub_self, List.getD_cons_zero]
    · simp only [h, ↓reduceIte]
      by_cases h1 : a + 1 ≤ k ∧ k < a + 1 + bs.length
      · rw [if_pos h1, if_pos (by omega)]
        obtain ⟨j, rfl⟩ : ∃ j, k = a + 1 + j := ⟨k - (a + 1), by omega⟩
        have e1 : a + 1 + j - (a + 1) = j := by omega
        have e2 : a + 1 + j - a = j + 1 := by omega
        rw [e1, e2, List.getD_cons_succ]
      · rw [if_neg h1, if_neg (by omega)]

/-- The bytes just written read back. -/
theorem mread_mwrite (s : State) (a : Nat) (bs : List Byte) : (s.mwrite a bs).mread a bs.length = bs := by
  apply List.ext_getElem
  · simp [State.mread]
  · intro i h1 h2
    simp only [State.mread, List.getElem_map, List.getElem_range, mget_mwrite]
    rw [if_pos (by omega)]
    simp [h2]

/-- A write of a byte keeps the canonical form. -/
theorem memOk_mset (s : State) (a : Nat) (b : Byte) (h : s.memOk) : (s.mset a b).memOk :=
  kmap_wf_set 0 s.mem a b h

/-- A write of bytes keeps the canonical form. -/
theorem memOk_mwrite (s : State) (a : Nat) (bs : List Byte) (h : s.memOk) : (s.mwrite a bs).memOk := by
  induction bs generalizing s a with
  | nil => exact h
  | cons b bs ih => exact ih _ _ (memOk_mset s a b h)

/-- Zeroing a range keeps the canonical form. -/
theorem memOk_clearBytes (s : State) (a n : Nat) (h : s.memOk) : (s.clearBytes a n).memOk := kmap_wf_filter 0 s.mem _ h

/-- A byte read after a range has been zeroed. -/
theorem mget_clearBytes (s : State) (a n k : Nat) :
    (s.clearBytes a n).mget k = if a ≤ k ∧ k < a + n then 0 else s.mget k := by
  unfold State.clearBytes State.mget
  by_cases h : a ≤ k ∧ k < a + n
  · rw [if_pos h]
    induction s.mem with
    | nil => rfl
    | cons c m ih =>
      obtain ⟨x, v⟩ := c
      simp only [List.filter_cons]
      split
      · next hc =>
        simp only [KMap.get]
        rw [if_neg (by rintro rfl; simp [h.1, h.2] at hc)]
        exact ih
      · exact ih
  · rw [if_neg h]
    induction s.mem with
    | nil => rfl
    | cons c m ih =>
      obtain ⟨x, v⟩ := c
      simp only [List.filter_cons]
      split
      · simp only [KMap.get]; split
        · rfl
        · exact ih
      · next hc =>
        simp only [KMap.get]
        rw [if_neg (by rintro rfl; simp only [Bool.not_eq_true', Bool.and_eq_false_iff, decide_eq_false_iff_not] at hc; apply h; simpa using hc)]
        exact ih

/-- States of the same memory agree on the canonical form. -/
theorem memOk_of_eq {s t : State} (h : s.memOk) (e : t.mem = s.mem) : t.memOk := by
  unfold State.memOk at *; rw [e]; exact h

/-- Marking a frame dirty leaves memory. -/
@[simp] theorem markDirty_mem (s : State) (a : Nat) : (s.markDirty a).mem = s.mem := rfl

/-- What a write to a scratchpad does to memory. -/
theorem swrite_mem (s : State) (a : Nat) (bs : List Byte) : (s.swrite a bs).mem = (s.mwrite a bs).mem := by
  unfold State.swrite
  split
  · next h => rw [List.isEmpty_iff.1 h]; rfl
  · simp only; split <;> rfl

/-- A write to a scratchpad keeps the canonical form. -/
theorem memOk_swrite (s : State) (a : Nat) (bs : List Byte) (h : s.memOk) : (s.swrite a bs).memOk :=
  memOk_of_eq (memOk_mwrite s a bs h) (swrite_mem s a bs)

end Sys2Proof.Laws
end

