-- ==== Sys2Proof/Laws/Issue.lean ====
section
/-! SUPPORT. What the issue of a word does: its dequeues, its delivery, and the two shapes that most words have, one that
delivers what its operands give and one that queues a request. -/

namespace Sys2Proof.Laws

open Sys2Proof Sys2Proof.Machine

/-! ### Dequeues -/

/-- A fold keeps what each of its steps keeps. -/
theorem foldl_keeps {α β γ : Type} (g : β → γ) (f : β → α → β) (h : ∀ s a, g (f s a) = g s) (l : List α) (s : β) :
    g (l.foldl f s) = g s := by
  induction l generalizing s with
  | nil => rfl
  | cons a l ih => simp only [List.foldl_cons, ih, h]

/-- One dequeue touches units and, on a core, the mailbox only. -/
theorem dequeue1_rest (p c : Nat) (fwd : Bool) (s : State) (ch : Nat) :
    State.dequeue1 p c fwd s ch =
      { s with procs := (State.dequeue1 p c fwd s ch).procs, dies := (State.dequeue1 p c fwd s ch).dies } := by
  unfold State.dequeue1
  split
  · rfl
  · split
    · split <;> rfl
    · split
      · rfl
      · split <;> rfl

/-- The dequeues touch units and, on a core, the mailbox only. -/
theorem dequeue_rest (s : State) (p c : Nat) (sh : Shape) (v : View) :
    s.dequeue p c sh v = { s with procs := (s.dequeue p c sh v).procs, dies := (s.dequeue p c sh v).dies } := by
  unfold State.dequeue
  generalize dqChans sh v = l
  generalize (v.opc == 0x90) = b
  induction l generalizing s with
  | nil => rfl
  | cons a l ih =>
    rw [List.foldl_cons, ih, dequeue1_rest]

/-- One dequeue keeps what the unit's other parts hold. -/
theorem dequeue1_keeps {γ : Type} (g : Proc → γ) (hin : ∀ P ch f, g (popIn P ch f) = g P) (htask : ∀ P, g (popTask P) = g P)
    (hml : ∀ P m, g { P with ml := m } = g P) (hev : ∀ P m, g { P with evq := m } = g P)
    (hel : ∀ P m, g { P with el := m } = g P) (p c : Nat) (fwd : Bool) (s : State) (ch q : Nat) :
    g ((State.dequeue1 p c fwd s ch).proc q) = g (s.proc q) := by
  unfold State.dequeue1
  by_cases hq : q = p
  · subst hq
    split
    · rw [proc_modProc_self, hin]
    · split
      · split
        · rfl
        · rw [proc_modProc_self, htask]
      · split
        · rw [proc_modProc_self, hml]
        · split
          · rw [proc_modProc_self]; split
            · rw [hev]
            · rw [hel]
          · rfl
  · split
    · rw [proc_modProc_ne _ _ hq]
    · split
      · split
        · rfl
        · rw [proc_modProc_ne _ _ hq]
      · split
        · rw [proc_modProc_ne _ _ hq]
        · split
          · rw [proc_modProc_ne _ _ hq]
          · rfl

/-- The dequeues keep what the unit's other parts hold. -/
theorem dequeue_keeps {γ : Type} (g : Proc → γ) (hin : ∀ P ch f, g (popIn P ch f) = g P) (htask : ∀ P, g (popTask P) = g P)
    (hml : ∀ P m, g { P with ml := m } = g P) (hev : ∀ P m, g { P with evq := m } = g P)
    (hel : ∀ P m, g { P with el := m } = g P) (s : State) (p c : Nat) (sh : Shape) (v : View) (q : Nat) :
    g ((s.dequeue p c sh v).proc q) = g (s.proc q) :=
  foldl_keeps (fun s => g (s.proc q)) _ (fun s ch => dequeue1_keeps g hin htask hml hev hel p c _ s ch q) _ s

/-- Taking a head from the task lane changes its lane, the head and the open tasks only. -/
theorem popTask_rest (P : Proc) :
    popTask P = { P with lanes := (popTask P).lanes, head := (popTask P).head, openTasks := (popTask P).openTasks } := by
  unfold popTask; split <;> rfl

@[simp] theorem popTask_ctxs (P : Proc) : (popTask P).ctxs = P.ctxs := by rw [popTask_rest]
@[simp] theorem popTask_outs (P : Proc) : (popTask P).outs = P.outs := by rw [popTask_rest]
@[simp] theorem popTask_ins (P : Proc) : (popTask P).ins = P.ins := by rw [popTask_rest]
@[simp] theorem popTask_ml (P : Proc) : (popTask P).ml = P.ml := by rw [popTask_rest]
@[simp] theorem popTask_reqs (P : Proc) : (popTask P).reqs = P.reqs := by rw [popTask_rest]
@[simp] theorem popTask_held (P : Proc) : (popTask P).held = P.held := by rw [popTask_rest]
@[simp] theorem popTask_parked (P : Proc) : (popTask P).parked = P.parked := by rw [popTask_rest]
@[simp] theorem popTask_slots (P : Proc) : (popTask P).slots = P.slots := by rw [popTask_rest]
@[simp] theorem popTask_sels (P : Proc) : (popTask P).sels = P.sels := by rw [popTask_rest]
@[simp] theorem popTask_taskOut (P : Proc) : (popTask P).taskOut = P.taskOut := by rw [popTask_rest]
@[simp] theorem popTask_trace (P : Proc) : (popTask P).trace = P.trace := by rw [popTask_rest]
@[simp] theorem popTask_region (P : Proc) : (popTask P).region = P.region := by rw [popTask_rest]

/-- The contexts after the dequeues. -/
@[simp] theorem dequeue_ctxs (s : State) (p c : Nat) (sh : Shape) (v : View) (q : Nat) :
    ((s.dequeue p c sh v).proc q).ctxs = (s.proc q).ctxs :=
  dequeue_keeps Proc.ctxs (fun _ _ _ => rfl) popTask_ctxs (fun _ _ => rfl) (fun _ _ => rfl) (fun _ _ => rfl) s p c sh v q
/-- One context after the dequeues. -/
@[simp] theorem dequeue_ctx (s : State) (p c : Nat) (sh : Shape) (v : View) (q k : Nat) :
    (s.dequeue p c sh v).ctx q k = s.ctx q k := by simp [State.ctx, Proc.ctx]
/-- The output channels after the dequeues. -/
@[simp] theorem dequeue_outs (s : State) (p c : Nat) (sh : Shape) (v : View) (q : Nat) :
    ((s.dequeue p c sh v).proc q).outs = (s.proc q).outs :=
  dequeue_keeps Proc.outs (fun _ _ _ => rfl) popTask_outs (fun _ _ => rfl) (fun _ _ => rfl) (fun _ _ => rfl) s p c sh v q
/-- The request queue after the dequeues. -/
@[simp] theorem dequeue_reqs (s : State) (p c : Nat) (sh : Shape) (v : View) (q : Nat) :
    ((s.dequeue p c sh v).proc q).reqs = (s.proc q).reqs :=
  dequeue_keeps Proc.reqs (fun _ _ _ => rfl) popTask_reqs (fun _ _ => rfl) (fun _ _ => rfl) (fun _ _ => rfl) s p c sh v q
/-- The held requests after the dequeues. -/
@[simp] theorem dequeue_held (s : State) (p c : Nat) (sh : Shape) (v : View) (q : Nat) :
    ((s.dequeue p c sh v).proc q).held = (s.proc q).held :=
  dequeue_keeps Proc.held (fun _ _ _ => rfl) popTask_held (fun _ _ => rfl) (fun _ _ => rfl) (fun _ _ => rfl) s p c sh v q
/-- The parked requests after the dequeues. -/
@[simp] theorem dequeue_parked (s : State) (p c : Nat) (sh : Shape) (v : View) (q : Nat) :
    ((s.dequeue p c sh v).proc q).parked = (s.proc q).parked :=
  dequeue_keeps Proc.parked (fun _ _ _ => rfl) popTask_parked (fun _ _ => rfl) (fun _ _ => rfl) (fun _ _ => rfl) s p c sh v q
/-- The slots after the dequeues. -/
@[simp] theorem dequeue_slots (s : State) (p c : Nat) (sh : Shape) (v : View) (q : Nat) :
    ((s.dequeue p c sh v).proc q).slots = (s.proc q).slots :=
  dequeue_keeps Proc.slots (fun _ _ _ => rfl) popTask_slots (fun _ _ => rfl) (fun _ _ => rfl) (fun _ _ => rfl) s p c sh v q
/-- The selector table after the dequeues. -/
@[simp] theorem dequeue_sels (s : State) (p c : Nat) (sh : Shape) (v : View) (q : Nat) :
    ((s.dequeue p c sh v).proc q).sels = (s.proc q).sels :=
  dequeue_keeps Proc.sels (fun _ _ _ => rfl) popTask_sels (fun _ _ => rfl) (fun _ _ => rfl) (fun _ _ => rfl) s p c sh v q
/-- The task-out queue after the dequeues. -/
@[simp] theorem dequeue_taskOut (s : State) (p c : Nat) (sh : Shape) (v : View) (q : Nat) :
    ((s.dequeue p c sh v).proc q).taskOut = (s.proc q).taskOut :=
  dequeue_keeps Proc.taskOut (fun _ _ _ => rfl) popTask_taskOut (fun _ _ => rfl) (fun _ _ => rfl) (fun _ _ => rfl) s p c sh v q
/-- The trace control after the dequeues. -/
@[simp] theorem dequeue_trace (s : State) (p c : Nat) (sh : Shape) (v : View) (q : Nat) :
    ((s.dequeue p c sh v).proc q).trace = (s.proc q).trace :=
  dequeue_keeps Proc.trace (fun _ _ _ => rfl) popTask_trace (fun _ _ => rfl) (fun _ _ => rfl) (fun _ _ => rfl) s p c sh v q
/-- The region after the dequeues. -/
@[simp] theorem dequeue_region (s : State) (p c : Nat) (sh : Shape) (v : View) (q : Nat) :
    ((s.dequeue p c sh v).proc q).region = (s.proc q).region :=
  dequeue_keeps Proc.region (fun _ _ _ => rfl) popTask_region (fun _ _ => rfl) (fun _ _ => rfl) (fun _ _ => rfl) s p c sh v q

/-- One dequeue leaves the other units. -/
theorem dequeue1_proc_ne (p c : Nat) (fwd : Bool) (s : State) (ch q : Nat) (hq : q ≠ p) :
    (State.dequeue1 p c fwd s ch).proc q = s.proc q := by
  unfold State.dequeue1
  split
  · rw [proc_modProc_ne _ _ hq]
  · split
    · split
      · rfl
      · rw [proc_modProc_ne _ _ hq]
    · split
      · rw [proc_modProc_ne _ _ hq]
      · split
        · rw [proc_modProc_ne _ _ hq]
        · rfl

/-- The dequeues leave the other units. -/
theorem dequeue_proc_ne (s : State) (p c : Nat) (sh : Shape) (v : View) (q : Nat) (hq : q ≠ p) :
    (s.dequeue p c sh v).proc q = s.proc q :=
  foldl_keeps (fun s => s.proc q) _ (fun s ch => dequeue1_proc_ne p c _ s ch q hq) _ s

/-- One dequeue leaves the dies but for a core's mailbox. -/
theorem dequeue1_dies (p c : Nat) (fwd : Bool) (s : State) (ch : Nat) (h : isCore p = false ∨ ch ≠ 4) :
    (State.dequeue1 p c fwd s ch).dies = s.dies := by
  unfold State.dequeue1
  split
  · rfl
  · split
    · next h4 =>
      rcases h with h | h
      · simp [h]
      · exact absurd h4 h
    · split
      · rfl
      · split <;> rfl

/-- The dequeues leave the dies but for a core's mailbox. -/
theorem dequeue_dies (s : State) (p c : Nat) (sh : Shape) (v : View)
    (h : isCore p = false ∨ (dqChans sh v).contains 4 = false) : (s.dequeue p c sh v).dies = s.dies := by
  unfold State.dequeue
  revert h
  generalize dqChans sh v = l
  generalize (v.opc == 0x90) = b
  intro h
  induction l generalizing s with
  | nil => rfl
  | cons a l ih =>
    rw [List.foldl_cons, ih, dequeue1_dies]
    · rcases h with h | h
      · exact .inl h
      · right; rintro rfl; simp at h
    · rcases h with h | h
      · exact .inl h
      · right; simp only [List.contains_cons, Bool.or_eq_false_iff] at h; exact h.2

/-- One dequeue and an input channel. -/
theorem dequeue1_ins (p c : Nat) (fwd : Bool) (s : State) (ch k : Nat) (hk : k < 4) :
    vget ((State.dequeue1 p c fwd s ch).proc p).ins k =
      if ch = k then { vget (s.proc p).ins k with q := (vget (s.proc p).ins k).q.tail } else vget (s.proc p).ins k := by
  unfold State.dequeue1
  split
  · next h =>
    rw [proc_modProc_self]
    simp only [popIn]
    rw [vget_vset _ h hk]
    by_cases e : k = ch
    · subst e; simp
    · rw [if_neg e, if_neg (Ne.symm e)]
  · next h =>
    rw [if_neg (by omega : ¬ch = k)]
    split
    · split
      · rfl
      · rw [proc_modProc_self, popTask_ins]
    · split
      · rw [proc_modProc_self]
      · split
        · rw [proc_modProc_self]; split <;> rfl
        · rfl

/-- A list without its repeats has none. -/
theorem nodup_eraseDups_nat (l : List Nat) : l.eraseDups.Nodup := by
  generalize hn : l.length = n
  induction n using Nat.strongRecOn generalizing l with
  | _ n ih =>
    cases l with
    | nil => simp
    | cons a l =>
      rw [List.eraseDups_cons, List.nodup_cons]
      refine ⟨?_, ih _ ?_ _ rfl⟩
      · rw [List.mem_eraseDups]; simp
      · subst hn
        exact Nat.lt_succ_of_le (List.length_filter_le _ _)

/-- No channel is dequeued twice (02 R61). -/
theorem dqChans_nodup (sh : Shape) (v : View) : (dqChans sh v).Nodup := by
  simp only [dqChans]; exact nodup_eraseDups_nat _

/-- The input channels after the dequeues. -/
theorem dequeue_ins (s : State) (p c : Nat) (sh : Shape) (v : View) (k : Nat) (hk : k < 4) :
    vget ((s.dequeue p c sh v).proc p).ins k =
      if (dqChans sh v).contains k then { vget (s.proc p).ins k with q := (vget (s.proc p).ins k).q.tail }
      else vget (s.proc p).ins k := by
  unfold State.dequeue
  have hn := dqChans_nodup sh v
  revert hn
  generalize dqChans sh v = l
  generalize (v.opc == 0x90) = b
  intro hn
  induction l generalizing s with
  | nil => rfl
  | cons a l ih =>
    obtain ⟨ha, hl⟩ := List.nodup_cons.1 hn
    rw [List.foldl_cons, ih _ hl, dequeue1_ins _ _ _ _ _ _ hk]
    by_cases e : a = k
    · subst e
      simp [ha]
    · simp only [List.contains_cons, e, ↓reduceIte]
      have : (k == a) = false := by simpa using Ne.symm e
      simp [this]

/-- One dequeue and the response lane. -/
theorem dequeue1_ml (p c : Nat) (fwd : Bool) (s : State) (ch : Nat) :
    ((State.dequeue1 p c fwd s ch).proc p).ml = if ch = 5 then mlPop (s.proc p).ml c else (s.proc p).ml := by
  unfold State.dequeue1
  split
  · next h => rw [proc_modProc_self, if_neg (by omega : ¬ch = 5)]; rfl
  · split
    · next h =>
      rw [if_neg (by omega : ¬ch = 5)]
      split
      · rfl
      · rw [proc_modProc_self, popTask_ml]
    · split
      · next h => rw [proc_modProc_self]
      · split
        · rw [proc_modProc_self]; split <;> rfl
        · rfl

/-- The response lane after the dequeues. -/
theorem dequeue_ml (s : State) (p c : Nat) (sh : Shape) (v : View) :
    ((s.dequeue p c sh v).proc p).ml =
      if (dqChans sh v).contains 5 then mlPop (s.proc p).ml c else (s.proc p).ml := by
  unfold State.dequeue
  have hn := dqChans_nodup sh v
  revert hn
  generalize dqChans sh v = l
  generalize (v.opc == 0x90) = b
  intro hn
  induction l generalizing s with
  | nil => rfl
  | cons a l ih =>
    obtain ⟨ha, hl⟩ := List.nodup_cons.1 hn
    rw [List.foldl_cons, ih _ hl, dequeue1_ml]
    by_cases e : a = 5
    · subst e
      simp [ha]
    · simp only [List.contains_cons, e, ↓reduceIte]
      have : ((5 : Nat) == a) = false := by simpa using Ne.symm e
      simp [this]

/-- What a head taken from the task lane leaves of the lanes, the head and the open tasks follows from those alone. -/
theorem popTask_congr (P Q : Proc) (h : (P.lanes, P.head, P.openTasks) = (Q.lanes, Q.head, Q.openTasks)) :
    ((popTask P).lanes, (popTask P).head, (popTask P).openTasks) =
      ((popTask Q).lanes, (popTask Q).head, (popTask Q).openTasks) := by
  simp only [Prod.mk.injEq] at h
  obtain ⟨h1, h2, h3⟩ := h
  unfold popTask
  rw [h2]
  split <;> simp only [h1, h2, h3]

/-- One dequeue and the task lanes. -/
theorem dequeue1_tasks (p c : Nat) (fwd : Bool) (s : State) (ch : Nat) :
    (((State.dequeue1 p c fwd s ch).proc p).lanes, ((State.dequeue1 p c fwd s ch).proc p).head,
        ((State.dequeue1 p c fwd s ch).proc p).openTasks) =
      (let P := if ch = 4 ∧ isCore p = false then popTask (s.proc p) else s.proc p
       (P.lanes, P.head, P.openTasks)) := by
  unfold State.dequeue1
  split
  · next h => rw [proc_modProc_self, if_neg (by omega)]; rfl
  · split
    · next h =>
      split
      · next hc => rw [if_neg (by simp [hc])]; rfl
      · next hc => rw [proc_modProc_self, if_pos ⟨h, by simpa using hc⟩]
    · next h4 =>
      rw [if_neg (show ¬(ch = 4 ∧ isCore p = false) from fun x => h4 x.1)]
      split
      · rw [proc_modProc_self]
      · split
        · rw [proc_modProc_self]; cases isCore p <;> rfl
        · rfl

/-- The task lanes after the dequeues. -/
theorem dequeue_tasks (s : State) (p c : Nat) (sh : Shape) (v : View) :
    (((s.dequeue p c sh v).proc p).lanes, ((s.dequeue p c sh v).proc p).head, ((s.dequeue p c sh v).proc p).openTasks) =
      (let P := if (dqChans sh v).contains 4 = true ∧ isCore p = false then popTask (s.proc p) else s.proc p
       (P.lanes, P.head, P.openTasks)) := by
  unfold State.dequeue
  have hn := dqChans_nodup sh v
  revert hn
  generalize dqChans sh v = l
  generalize (v.opc == 0x90) = b
  intro hn
  induction l generalizing s with
  | nil => simp
  | cons a l ih =>
    obtain ⟨ha, hl⟩ := List.nodup_cons.1 hn
    rw [List.foldl_cons, ih _ hl]
    have h1 := dequeue1_tasks p c b s a
    by_cases e : a = 4
    · subst e
      have hc : ¬(l.contains 4 = true ∧ isCore p = false) := fun x => ha (by simpa using x.1)
      rw [if_neg hc]
      simpa using h1
    · rw [if_neg fun x => e x.1] at h1
      have e2 : (4 == a) = false := by simpa using Ne.symm e
      simp only [List.contains_cons, e2, Bool.false_or]
      split
      · exact popTask_congr _ _ h1
      · exact h1

/-- One dequeue and the event lane. -/
theorem dequeue1_el (p c : Nat) (fwd : Bool) (s : State) (ch : Nat) :
    ((State.dequeue1 p c fwd s ch).proc p).el =
      if ch = 6 ∧ isCore p = false then (s.proc p).el.tail else (s.proc p).el := by
  unfold State.dequeue1
  split
  · next h => rw [proc_modProc_self, if_neg (by omega)]; rfl
  · split
    · next h =>
      rw [if_neg (show ¬(ch = 6 ∧ isCore p = false) from fun x => by omega)]
      split
      · rfl
      · rw [proc_modProc_self, popTask_rest]
    · split
      · next h => rw [proc_modProc_self, if_neg (by omega)]
      · split
        · next h =>
          rw [proc_modProc_self]
          split
          · next hc => rw [if_neg (by simp [hc])]
          · next hc => rw [if_pos ⟨h, by simpa using hc⟩]
        · next h => rw [if_neg fun x => h x.1]

/-- The event lane after the dequeues. -/
theorem dequeue_el (s : State) (p c : Nat) (sh : Shape) (v : View) :
    ((s.dequeue p c sh v).proc p).el =
      if (dqChans sh v).contains 6 = true ∧ isCore p = false then (s.proc p).el.tail else (s.proc p).el := by
  unfold State.dequeue
  have hn := dqChans_nodup sh v
  revert hn
  generalize dqChans sh v = l
  generalize (v.opc == 0x90) = b
  intro hn
  induction l generalizing s with
  | nil => simp
  | cons a l ih =>
    obtain ⟨ha, hl⟩ := List.nodup_cons.1 hn
    rw [List.foldl_cons, ih _ hl, dequeue1_el]
    by_cases e : a = 6
    · subst e
      have hc : ¬(l.contains 6 = true ∧ isCore p = false) := fun x => ha (by simpa using x.1)
      rw [if_neg hc]
      simp
    · have e2 : (6 == a) = false := by simpa using Ne.symm e
      simp only [List.contains_cons, e2, Bool.false_or, e, false_and, ↓reduceIte]

/-- The events held by their sources after the dequeues. -/
@[simp] theorem dequeue_elHeld (s : State) (p c : Nat) (sh : Shape) (v : View) (q : Nat) :
    ((s.dequeue p c sh v).proc q).elHeld = (s.proc q).elHeld :=
  dequeue_keeps Proc.elHeld (fun _ _ _ => rfl) (fun P => by rw [popTask_rest]) (fun _ _ => rfl) (fun _ _ => rfl)
    (fun _ _ => rfl) s p c sh v q

/-- The permit that a dequeue of channel code `ch` takes. -/
def permitAt (P : Proc) (ch : Nat) : Option Permit :=
  if ch < 4 then
    (frontOf (vget P.ins ch).q).bind fun t =>
      if t.kind = .permit then some { key := t.payload.setWidth 12, taint := bitOf t.payload 12 } else none
  else none

/-- One dequeue and the hold set. -/
theorem dequeue1_hold (p c : Nat) (fwd : Bool) (s : State) (ch : Nat) :
    ((State.dequeue1 p c fwd s ch).proc p).hold =
      (s.proc p).hold ++ if fwd = true then [] else (permitAt (s.proc p) ch).toList := by
  unfold State.dequeue1 permitAt
  by_cases h : ch < 4
  · simp only [if_pos h, proc_modProc_self, popIn]
    cases frontOf (vget (s.proc p).ins ch).q with
    | none => simp
    | some t => cases fwd <;> by_cases hk : t.kind = .permit <;> simp [hk]
  · simp only [if_neg h, Option.toList_none, ite_self, List.append_nil]
    split
    · split
      · rfl
      · rw [proc_modProc_self, popTask_rest]
    · split
      · rw [proc_modProc_self]
      · split
        · rw [proc_modProc_self]; split <;> rfl
        · rfl

/-- Functions that agree on a list pick the same of it. -/
theorem filterMap_agree {α β : Type} {f g : α → Option β} {l : List α} (h : ∀ a ∈ l, f a = g a) :
    l.filterMap f = l.filterMap g := by
  induction l with
  | nil => rfl
  | cons a l ih =>
    have h1 := h a (by simp)
    have h2 := ih fun b hb => h b (by simp [hb])
    simp only [List.filterMap_cons, h1, h2]

/-- The hold set after the dequeues. -/
theorem dequeue_hold (s : State) (p c : Nat) (sh : Shape) (v : View) :
    ((s.dequeue p c sh v).proc p).hold =
      (s.proc p).hold ++ if v.opc = 0x90 then [] else (dqChans sh v).filterMap (permitAt (s.proc p)) := by
  unfold State.dequeue
  have hn := dqChans_nodup sh v
  revert hn
  generalize dqChans sh v = l
  have hb : (if v.opc = 0x90 then ([] : List Permit) else l.filterMap (permitAt (s.proc p))) =
      if (v.opc == 0x90) = true then [] else l.filterMap (permitAt (s.proc p)) := by simp
  rw [hb]
  clear hb
  generalize (v.opc == 0x90) = b
  intro hn
  induction l generalizing s with
  | nil => simp
  | cons a l ih =>
    obtain ⟨ha, hl⟩ := List.nodup_cons.1 hn
    rw [List.foldl_cons, ih _ hl, dequeue1_hold]
    have hc : l.filterMap (permitAt ((State.dequeue1 p c b s a).proc p)) = l.filterMap (permitAt (s.proc p)) := by
      refine filterMap_agree fun k hk => ?_
      unfold permitAt
      split
      · next h4 =>
        rw [dequeue1_ins _ _ _ _ _ _ h4, if_neg (by rintro rfl; exact ha hk)]
      · rfl
    rw [hc]
    cases b
    · cases hx : permitAt (s.proc p) a <;> simp [hx]
    · simp

/-! ### Delivery -/

/-- A word that issues performs its effect. -/
theorem issue_of_issues {v : View} {sh : Shape} {s : State} (h : Issues v sh s) (eff : Effect) :
    issue v eff s = .next (perform (s.env sh v) eff s) := by
  obtain ⟨h1, h2, h3⟩ := h
  simp [issue, h1, h2, h3]

/-- A result writes registers only, in a context. -/
theorem setRegs_rest (C : Ctx) (r : Nat) (ws : List Word) : C.setRegs r ws = { C with x := (C.setRegs r ws).x } := by
  induction ws generalizing C r with
  | nil => rfl
  | cons w ws ih => simp only [Ctx.setRegs]; rw [ih]

/-- A register after consecutive ones are written. -/
theorem setRegs_x (C : Ctx) (r n : Nat) (ws : List Word) (hr : r + ws.length ≤ 16) (hn : n < 16) :
    vget (C.setRegs r ws).x n = if r ≤ n ∧ n < r + ws.length then ws.getD (n - r) 0 else vget C.x n := by
  induction ws generalizing C r with
  | nil => simp only [Ctx.setRegs, List.length_nil]; rw [if_neg (by omega)]
  | cons w ws ih =>
    simp only [List.length_cons] at hr
    simp only [Ctx.setRegs]
    rw [ih _ _ (by omega)]
    simp only [List.length_cons]
    by_cases e : n = r
    · subst e
      rw [if_neg (by omega), if_pos (by omega), vget_vset_self, Nat.sub_self, List.getD_cons_zero]
    · rw [vget_vset _ (by omega) hn, if_neg e]
      by_cases h1 : r + 1 ≤ n ∧ n < r + 1 + ws.length
      · rw [if_pos h1, if_pos (by omega)]
        obtain ⟨j, rfl⟩ : ∃ j, n = r + 1 + j := ⟨n - (r + 1), by omega⟩
        rw [show r + 1 + j - (r + 1) = j by omega, show r + 1 + j - r = j + 1 by omega, List.getD_cons_succ]
      · rw [if_neg h1, if_neg (by omega)]

/-- The parts of a context that a delivery leaves. -/
theorem deliverCtx_rest (o : Outst) (C : Ctx) :
    deliverCtx o C = { C with x := (deliverCtx o C).x, p := (deliverCtx o C).p, fpflags := (deliverCtx o C).fpflags } := by
  unfold deliverCtx
  simp only
  split
  · rw [setRegs_rest]
  · rfl

/-- A delivery of no value is PACT and the flags. -/
theorem deliverCtx_none (o : Outst) (C : Ctx) (h : o.vals = []) :
    deliverCtx o C = { C with p := pactOf o.pact o.pidx.toNat o.cond C.p, fpflags := C.fpflags ||| o.flags } := by
  simp only [deliverCtx, h, Ctx.setRegs]
  split <;> simp

/-- Mending touches the error marks only. -/
theorem mend_rest (P : Proc) (c : Nat) (o : Outst) : P.mend c o = { P with badRegs := (P.mend c o).badRegs } := by
  unfold Proc.mend; split <;> rfl

@[simp] theorem mend_ctx (P : Proc) (c : Nat) (o : Outst) (k : Nat) : (P.mend c o).ctx k = P.ctx k := by rw [mend_rest]; rfl
@[simp] theorem mend_ctxs (P : Proc) (c : Nat) (o : Outst) : (P.mend c o).ctxs = P.ctxs := by rw [mend_rest]
@[simp] theorem mend_outs (P : Proc) (c : Nat) (o : Outst) : (P.mend c o).outs = P.outs := by rw [mend_rest]
@[simp] theorem mend_ins (P : Proc) (c : Nat) (o : Outst) : (P.mend c o).ins = P.ins := by rw [mend_rest]
@[simp] theorem mend_ml (P : Proc) (c : Nat) (o : Outst) : (P.mend c o).ml = P.ml := by rw [mend_rest]
@[simp] theorem mend_reqs (P : Proc) (c : Nat) (o : Outst) : (P.mend c o).reqs = P.reqs := by rw [mend_rest]
@[simp] theorem mend_held (P : Proc) (c : Nat) (o : Outst) : (P.mend c o).held = P.held := by rw [mend_rest]
@[simp] theorem mend_parked (P : Proc) (c : Nat) (o : Outst) : (P.mend c o).parked = P.parked := by rw [mend_rest]
@[simp] theorem mend_slots (P : Proc) (c : Nat) (o : Outst) : (P.mend c o).slots = P.slots := by rw [mend_rest]
@[simp] theorem mend_sels (P : Proc) (c : Nat) (o : Outst) : (P.mend c o).sels = P.sels := by rw [mend_rest]
@[simp] theorem mend_taskOut (P : Proc) (c : Nat) (o : Outst) : (P.mend c o).taskOut = P.taskOut := by rw [mend_rest]
@[simp] theorem mend_trace (P : Proc) (c : Nat) (o : Outst) : (P.mend c o).trace = P.trace := by rw [mend_rest]

/-- What a delivery does to its unit. -/
theorem deliver_proc (s : State) (p c : Nat) (o : Outst) :
    (s.deliver p c o).proc p =
      if toOut o then
        { ((s.proc p).setCtx c (deliverCtx o ((s.proc p).ctx c))).mend c o with
          outs := vset (s.proc p).outs (o.dst.toNat - 16)
            (enqueue (vget (s.proc p).outs (o.dst.toNat - 16)) (dataTok o.tag (o.vals.headD 0))) }
      else ((s.proc p).setCtx c (deliverCtx o ((s.proc p).ctx c))).mend c o := by
  unfold State.deliver
  split <;> simp [State.modOut]

/-- A delivery touches its unit only. -/
theorem deliver_rest (s : State) (p c : Nat) (o : Outst) :
    s.deliver p c o = { s with procs := (s.deliver p c o).procs } := by
  unfold State.deliver; simp only; split <;> rfl

/-- A delivery leaves the other units. -/
theorem deliver_proc_ne (s : State) {p q : Nat} (c : Nat) (o : Outst) (h : q ≠ p) :
    (s.deliver p c o).proc q = s.proc q := by
  unfold State.deliver
  split <;> simp [State.modOut, proc_modProc_ne, h]

/-- What the suspension of a result does to its unit. -/
theorem suspend_proc (s : State) (p c : Nat) (o : Outst) :
    (s.suspend p c o).proc p =
      if toOut o then
        { (s.proc p).setCtx c { (s.proc p).ctx c with outst := ((s.proc p).ctx c).outst ++ [o] } with
          outs := vset (s.proc p).outs (o.dst.toNat - 16) (vget (s.proc p).outs (o.dst.toNat - 16) ++ [.resv o.resv]) }
      else (s.proc p).setCtx c { (s.proc p).ctx c with outst := ((s.proc p).ctx c).outst ++ [o] } := by
  unfold State.suspend
  split <;> simp [State.modOut, State.modCtx]

/-- A suspension touches its unit only. -/
theorem suspend_rest (s : State) (p c : Nat) (o : Outst) :
    s.suspend p c o = { s with procs := (s.suspend p c o).procs } := by
  unfold State.suspend; simp only; split <;> rfl

/-- A suspension leaves the other units. -/
theorem suspend_proc_ne (s : State) {p q : Nat} (c : Nat) (o : Outst) (h : q ≠ p) :
    (s.suspend p c o).proc q = s.proc q := by
  unfold State.suspend
  split <;> simp [State.modOut, State.modCtx, proc_modProc_ne, h]

/-- What the advance of the PC does to its unit. -/
theorem advance_proc (s : State) (p c : Nat) (t : Option (BitVec 19)) :
    (s.advance p c t).proc p =
      if isCore p then (s.proc p).setCtx c { (s.proc p).ctx c with pc := t.getD (((s.proc p).ctx c).pc + 8) }
      else s.proc p := by
  unfold State.advance
  split <;> simp [State.modCtx]

/-- The advance of the PC leaves the other units. -/
theorem advance_proc_ne (s : State) {p q : Nat} (c : Nat) (t : Option (BitVec 19)) (h : q ≠ p) :
    (s.advance p c t).proc q = s.proc q := by
  unfold State.advance
  split <;> simp [State.modCtx, proc_modProc_ne, h]

/-- A context after the end of an issue, the output channels apart. -/
theorem finish_now {e : Env} {r : Res} {s : State} (h : latencyOf e ≤ 1) :
    finish e r s = (s.deliver e.p e.c (outstOf e.sh e.v r 0 0)).advance e.p e.c r.pc := by
  simp [finish, h]

/-- A result of a longer latency. -/
theorem finish_later {e : Env} {r : Res} {s : State} (h : 1 < latencyOf e) :
    finish e r s = (s.freshId.2.suspend e.p e.c (outstOf e.sh e.v r (s.unitCycle e.p + latencyOf e) s.fresh)).advance e.p e.c r.pc := by
  have : ¬ latencyOf e ≤ 1 := by omega
  simp [finish, this, State.freshId]

/-- The end of an issue touches its unit and the identifiers only. -/
theorem finish_rest (e : Env) (r : Res) (s : State) :
    finish e r s = { s with procs := (finish e r s).procs, fresh := (finish e r s).fresh } := by
  unfold finish
  simp only
  split
  · unfold State.advance; split
    · simp only [State.modCtx, State.modProc, State.setProc]; rw [deliver_rest]
    · rw [deliver_rest]
  · unfold State.advance; split
    · simp only [State.modCtx, State.modProc, State.setProc]; rw [suspend_rest]; rfl
    · rw [suspend_rest]; rfl

/-- The end of an issue leaves the other units. -/
theorem finish_proc_ne (e : Env) (r : Res) (s : State) {q : Nat} (h : q ≠ e.p) : (finish e r s).proc q = s.proc q := by
  unfold finish
  simp only
  rw [advance_proc_ne _ _ _ h]
  split
  · rw [deliver_proc_ne _ _ _ h]
  · rw [suspend_proc_ne _ _ _ h]; rfl

/-- The end of an issue keeps the parts of its unit that no delivery and no advance touches. -/
theorem finish_keeps {γ : Type} (g : Proc → γ) (hctx : ∀ P c C, g (Proc.setCtx P c C) = g P)
    (hout : ∀ P x, g { P with outs := x } = g P) (hbad : ∀ P x, g { P with badRegs := x } = g P) (e : Env) (r : Res)
    (s : State) (q : Nat) : g ((finish e r s).proc q) = g (s.proc q) := by
  by_cases hq : q = e.p
  · subst hq
    unfold finish
    simp only
    rw [advance_proc]
    split
    · rw [hctx]
      split
      · rw [deliver_proc]; split
        · rw [hout, mend_rest, hbad, hctx]
        · rw [mend_rest, hbad, hctx]
      · rw [suspend_proc]; split
        · rw [hout, hctx]; rfl
        · rw [hctx]; rfl
    · split
      · rw [deliver_proc]; split
        · rw [hout, mend_rest, hbad, hctx]
        · rw [mend_rest, hbad, hctx]
      · rw [suspend_proc]; split
        · rw [hout, hctx]; rfl
        · rw [hctx]; rfl
  · rw [finish_proc_ne e r s hq]

/-- The issuing context after the end of an issue: only what is delivered, what is outstanding and the PC change. -/
theorem finish_ctx (e : Env) (r : Res) (s : State) :
    (finish e r s).ctx e.p e.c =
      { (if latencyOf e ≤ 1 then deliverCtx (outstOf e.sh e.v r 0 0) (s.ctx e.p e.c)
         else { s.ctx e.p e.c with
                outst := (s.ctx e.p e.c).outst ++ [outstOf e.sh e.v r (s.unitCycle e.p + latencyOf e) s.fresh] }) with
        pc := if isCore e.p then r.pc.getD ((s.ctx e.p e.c).pc + 8) else (s.ctx e.p e.c).pc } := by
  by_cases h : latencyOf e ≤ 1
  · rw [finish_now h, if_pos h]
    simp only [State.ctx, advance_proc, deliver_proc]
    split
    · split
      · simp only [Proc.ctx, Proc.setCtx, mend_ctxs, vget_vset_self]; rw [deliverCtx_rest]
      · simp only [Proc.ctx, Proc.setCtx, mend_ctxs, vget_vset_self]; rw [deliverCtx_rest]
    · split
      · simp only [Proc.ctx, Proc.setCtx, mend_ctxs, vget_vset_self]; rw [deliverCtx_rest]
      · simp only [Proc.ctx, Proc.setCtx, mend_ctxs, vget_vset_self]; rw [deliverCtx_rest]
  · rw [finish_later (by omega), if_neg h]
    simp only [State.ctx, advance_proc, suspend_proc, State.freshId]
    split
    · split <;> simp only [Proc.ctx, Proc.setCtx, vget_vset_self] <;> rfl
    · split <;> simp only [Proc.ctx, Proc.setCtx, vget_vset_self] <;> rfl

/-- Another context after the end of an issue. -/
theorem finish_ctx_ne (e : Env) (r : Res) (s : State) {k : Nat} (hc : e.c < 4) (hk : k < 4) (h : k ≠ e.c) :
    (finish e r s).ctx e.p k = s.ctx e.p k := by
  have hv : ∀ (v : Vector Ctx 4) (C : Ctx), vget (vset v e.c C) k = vget v k := fun v C => by
    rw [vget_vset v hc hk, if_neg h]
  unfold finish
  simp only [State.ctx, advance_proc]
  split
  · simp only [Proc.ctx, Proc.setCtx, hv]
    split
    · rw [deliver_proc]; split <;> simp only [mend_ctxs, Proc.setCtx, hv]
    · rw [suspend_proc]; split <;> simp only [Proc.setCtx, hv] <;> rfl
  · simp only [Proc.ctx]
    split
    · rw [deliver_proc]; split <;> simp only [mend_ctxs, Proc.setCtx, hv]
    · rw [suspend_proc]; split <;> simp only [Proc.setCtx, hv] <;> rfl

/-- An output channel after the end of an issue. -/
theorem finish_outs (e : Env) (r : Res) (s : State) {j : Nat} (hj : j < 4) :
    vget ((finish e r s).proc e.p).outs j =
      if toOut (outstOf e.sh e.v r 0 0) = true ∧ e.v.dst.toNat = 16 + j then
        (if latencyOf e ≤ 1 then enqueue (vget (s.proc e.p).outs j) (dataTok r.tag ((outstOf e.sh e.v r 0 0).vals.headD 0))
         else vget (s.proc e.p).outs j ++ [.resv s.fresh])
      else vget (s.proc e.p).outs j := by
  have hd : ∀ d n, (outstOf e.sh e.v r d n).dst = e.v.dst := fun _ _ => rfl
  have ht : ∀ d n, toOut (outstOf e.sh e.v r d n) = toOut (outstOf e.sh e.v r 0 0) := fun _ _ => rfl
  have hlt : toOut (outstOf e.sh e.v r 0 0) = true → e.v.dst.toNat - 16 < 4 ∧ 16 ≤ e.v.dst.toNat := by
    intro h
    simp only [toOut, hd, Bool.and_eq_true, decide_eq_true_eq] at h
    omega
  have adv : ∀ t : State, vget ((t.advance e.p e.c r.pc).proc e.p).outs j = vget (t.proc e.p).outs j := fun t => by
    rw [advance_proc]; split <;> rfl
  by_cases h : latencyOf e ≤ 1
  · rw [finish_now h, adv, deliver_proc]
    split
    · next ho =>
      obtain ⟨h1, h2⟩ := hlt ho
      simp only [hd]
      rw [vget_vset _ h1 hj]
      by_cases e1 : j = e.v.dst.toNat - 16
      · rw [if_pos e1, if_pos (show _ ∧ _ from ⟨ho, by omega⟩), e1]; rfl
      · rw [if_neg e1, if_neg (by omega)]
    · next ho => rw [if_neg fun x => ho x.1]; simp
  · rw [finish_later (by omega), adv, suspend_proc]
    split
    · next ho =>
      rw [ht] at ho
      obtain ⟨h1, h2⟩ := hlt ho
      simp only [hd]
      rw [vget_vset _ h1 hj]
      by_cases e1 : j = e.v.dst.toNat - 16
      · rw [if_pos e1, if_pos (show _ ∧ _ from ⟨ho, by omega⟩), e1]; rfl
      · rw [if_neg e1, if_neg (by omega)]; rfl
    · next ho => rw [ht] at ho; rw [if_neg fun x => ho x.1]; rfl

/-! ### Words that deliver what their operands give -/

/-- The context number of a word in hand. -/
theorem ctxNo_lt (s : State) (v : View) : s.ctxNo v < 4 := by
  unfold State.ctxNo; split <;> omega

/-- What the issue of a word leaves outside its unit, when its effect changes nothing. -/
theorem keptOutside_finish (s : State) (sh : Shape) (v : View) (r : Res) :
    KeptOutside (s.env sh v) s (finish (s.env sh v) r (s.dequeue s.cur.proc (s.ctxNo v) sh v)) := by
  have hd := dequeue_rest s s.cur.proc (s.ctxNo v) sh v
  have hf := finish_rest (s.env sh v) r (s.dequeue s.cur.proc (s.ctxNo v) sh v)
  refine ⟨fun q hq => ?_, fun a => ?_, ?_, ⟨?_, ?_, ?_, ?_, ?_⟩, ⟨?_, ?_, ?_, ?_⟩, fun h => ?_⟩
  · rw [finish_proc_ne _ _ _ hq]; exact dequeue_proc_ne s _ _ sh v q hq
  · rw [hf, hd]; rfl
  · rw [hf, hd]
  · rw [hf, hd]
  · rw [hf, hd]
  · rw [hf, hd]
  · rw [hf, hd]
  · rw [hf, hd]
  · rw [hf, hd]
  · rw [hf, hd]
  · rw [hf, hd]
  · rw [hf, hd]
  · rw [hf]; exact dequeue_dies s _ _ sh v h

/-- What the issue of a word leaves in its unit's channels and queues, when its effect changes nothing. -/
theorem channelsAfter_finish (s : State) (sh : Shape) (v : View) (r : Res) :
    ChannelsAfter (s.env sh v) s (finish (s.env sh v) r (s.dequeue s.cur.proc (s.ctxNo v) sh v)) := by
  have ht := dequeue_tasks s s.cur.proc (s.ctxNo v) sh v
  simp only [Prod.mk.injEq] at ht
  refine ⟨fun ch hch => ?_, ⟨?_, ?_⟩, ⟨?_, ?_, ?_, ?_⟩, ⟨?_, ?_, ?_⟩, ⟨?_, ?_⟩⟩
  · rw [finish_keeps Proc.ins (fun _ _ _ => rfl) (fun _ _ => rfl) (fun _ _ => rfl)]
    exact dequeue_ins s _ _ sh v ch hch
  · rw [finish_keeps Proc.held (fun _ _ _ => rfl) (fun _ _ => rfl) (fun _ _ => rfl), dequeue_held]
  · rw [finish_keeps Proc.parked (fun _ _ _ => rfl) (fun _ _ => rfl) (fun _ _ => rfl), dequeue_parked]
  · rw [finish_keeps Proc.slots (fun _ _ _ => rfl) (fun _ _ => rfl) (fun _ _ => rfl), dequeue_slots]
  · rw [finish_keeps Proc.sels (fun _ _ _ => rfl) (fun _ _ => rfl) (fun _ _ => rfl), dequeue_sels]
  · rw [finish_keeps Proc.taskOut (fun _ _ _ => rfl) (fun _ _ => rfl) (fun _ _ => rfl), dequeue_taskOut]
  · rw [finish_keeps Proc.trace (fun _ _ _ => rfl) (fun _ _ => rfl) (fun _ _ => rfl), dequeue_trace]
  · rw [finish_keeps Proc.lanes (fun _ _ _ => rfl) (fun _ _ => rfl) (fun _ _ => rfl)]; exact ht.1
  · rw [finish_keeps Proc.head (fun _ _ _ => rfl) (fun _ _ => rfl) (fun _ _ => rfl)]; exact ht.2.1
  · rw [finish_keeps Proc.openTasks (fun _ _ _ => rfl) (fun _ _ => rfl) (fun _ _ => rfl)]; exact ht.2.2
  · rw [finish_keeps Proc.el (fun _ _ _ => rfl) (fun _ _ => rfl) (fun _ _ => rfl)]; exact dequeue_el s _ _ sh v
  · rw [finish_keeps Proc.elHeld (fun _ _ _ => rfl) (fun _ _ => rfl) (fun _ _ => rfl), dequeue_elHeld]

/-- The hold set after the issue of a word, when its effect changes nothing. -/
theorem holdAfter_finish (s : State) (sh : Shape) (v : View) (r : Res) :
    ((finish (s.env sh v) r (s.dequeue s.cur.proc (s.ctxNo v) sh v)).proc (s.env sh v).p).hold = holdAfter s (s.env sh v) := by
  rw [finish_keeps Proc.hold (fun _ _ _ => rfl) (fun _ _ => rfl) (fun _ _ => rfl)]
  exact dequeue_hold s _ _ sh v

/-- What the issue of a word leaves at its request port, when its effect changes nothing. -/
theorem portUnused_finish (s : State) (sh : Shape) (v : View) (r : Res) :
    PortUnused (s.env sh v) s (finish (s.env sh v) r (s.dequeue s.cur.proc (s.ctxNo v) sh v)) := by
  refine ⟨?_, ?_⟩
  · rw [finish_keeps Proc.reqs (fun _ _ _ => rfl) (fun _ _ => rfl) (fun _ _ => rfl), dequeue_reqs]
  · rw [finish_keeps Proc.ml (fun _ _ _ => rfl) (fun _ _ => rfl) (fun _ _ => rfl)]
    exact dequeue_ml s _ _ sh v

/-- The predicate written before PACT, as the delivery and the claims have it. -/
theorem head_any_ne (l : List Word) : l.head?.any (· != 0) = (l.headD 0 != 0) := by
  cases l <;> simp

/-- A word whose effect changes nothing delivers its result, and leaves the rest. -/
theorem delivered_finish (s : State) (sh : Shape) (v : View) (r : Res) (hd : sh.dst ≠ .none) (hpc : r.pc = none)
    (hw : v.dst.toNat < 16 → v.dst.toNat + r.vals.length ≤ 16) :
    Delivered s (s.env sh v) r (finish (s.env sh v) r (s.dequeue s.cur.proc (s.ctxNo v) sh v)) := by
  have hc : (s.env sh v).c < 4 := ctxNo_lt s v
  have hvals : ∀ d n, (outstOf (s.env sh v).sh (s.env sh v).v r d n).vals = r.vals := fun d n => by
    show (if sh.dst = .none then [] else r.vals) = r.vals
    rw [if_neg hd]
  have hC : (s.dequeue s.cur.proc (s.ctxNo v) sh v).ctx (s.env sh v).p (s.env sh v).c = (s.env sh v).C := dequeue_ctx s _ _ sh v _ _
  have hout : ∀ j, (toOut (outstOf (s.env sh v).sh (s.env sh v).v r 0 0) = true ∧ v.dst.toNat = 16 + j ∧ j < 4) ↔
      (v.dst.toNat = 16 + j ∧ r.vals ≠ [] ∧ j < 4) := fun j => by
    simp only [toOut, hvals, Bool.and_eq_true, decide_eq_true_eq, Bool.not_eq_true', List.isEmpty_eq_false_iff]
    show ((16 ≤ v.dst.toNat ∧ v.dst.toNat ≤ 19) ∧ _) ∧ _ ↔ _
    constructor
    · rintro ⟨⟨-, h1⟩, h2, h3⟩; exact ⟨h2, h1, h3⟩
    · rintro ⟨h1, h2, h3⟩; exact ⟨⟨⟨by omega, by omega⟩, h2⟩, h1, h3⟩
  refine ⟨fun hl => ⟨fun n hn => ?_, ?_, ?_, ?_, fun j hj => ?_⟩, fun hl => ⟨?_, fun n hn => ?_, ?_, ?_⟩, ?_,
    ⟨fun k hk hkc => ?_, ?_, ?_, ?_⟩, channelsAfter_finish s sh v r, holdAfter_finish s sh v r, portUnused_finish s sh v r, keptOutside_finish s sh v r⟩
  · rw [finish_ctx, if_pos hl, hC]
    simp only [deliverCtx, hvals, regAfter]
    show vget (if v.dst.toNat < 16 then (s.env sh v).C.setRegs v.dst.toNat r.vals else (s.env sh v).C).x n = _
    by_cases h16 : v.dst.toNat < 16
    · rw [if_pos h16, setRegs_x _ _ _ _ (hw h16) hn]
      by_cases h2 : v.dst.toNat ≤ n ∧ n < v.dst.toNat + r.vals.length
      · rw [if_pos h2, if_pos ⟨h16, h2⟩]; rfl
      · rw [if_neg h2, if_neg fun x => h2 x.2]
    · rw [if_neg h16, if_neg fun x => h16 x.1]
  · rw [finish_ctx, if_pos hl, hC]
    simp only [deliverCtx, hvals, predsAfter]
    have hp : (if (outstOf (s.env sh v).sh (s.env sh v).v r 0 0).dst.toNat < 16 then
        (s.env sh v).C.setRegs (outstOf (s.env sh v).sh (s.env sh v).v r 0 0).dst.toNat r.vals else (s.env sh v).C).p =
        (s.env sh v).C.p := by
      split
      · rw [setRegs_rest]
      · rfl
    rw [hp]
    simp only [outstOf, head_any_ne]
  · rw [finish_ctx, if_pos hl, hC]
    simp only [deliverCtx, hvals]
    congr 1
    split
    · rw [setRegs_rest]; rfl
    · rfl
  · rw [finish_ctx, if_pos hl, hC]
    simp only [deliverCtx, hvals]
    split
    · rw [setRegs_rest]; rfl
    · rfl
  · have := finish_outs (s.env sh v) r (s.dequeue s.cur.proc (s.ctxNo v) sh v) hj
    rw [this, dequeue_outs, if_pos hl, hvals]
    by_cases h : v.dst.toNat = 16 + j ∧ r.vals ≠ []
    · have := (hout j).2 ⟨h.1, h.2, hj⟩
      rw [if_pos ⟨this.1, this.2.1⟩]
      exact (if_pos h).symm
    · rw [if_neg]
      · exact (if_neg h).symm
      · intro x
        have := (hout j).1 ⟨x.1, x.2, hj⟩
        exact h ⟨this.1, this.2.1⟩
  · refine ⟨outstOf (s.env sh v).sh (s.env sh v).v r (s.unitCycle (s.env sh v).p + latencyOf (s.env sh v)) s.fresh, ?_, rfl, rfl, hvals _ _, rfl,
      rfl, rfl, rfl, rfl, ?_, fun j hj => ?_⟩
    · rw [finish_ctx, if_neg (by omega), hC, dequeue_rest]; rfl
    · simp only [outstOf, head_any_ne]
    · have := finish_outs (s.env sh v) r (s.dequeue s.cur.proc (s.ctxNo v) sh v) hj
      have hf : (s.dequeue s.cur.proc (s.ctxNo v) sh v).fresh = s.fresh := by rw [dequeue_rest]
      have hl' : ¬ latencyOf (s.env sh v) ≤ 1 := by omega
      rw [this, dequeue_outs, if_neg hl', hf]
      by_cases h : v.dst.toNat = 16 + j ∧ r.vals ≠ []
      · have := (hout j).2 ⟨h.1, h.2, hj⟩
        rw [if_pos ⟨this.1, this.2.1⟩]
        exact (if_pos h).symm
      · rw [if_neg]
        · exact (if_neg h).symm
        · intro x
          have := (hout j).1 ⟨x.1, x.2, hj⟩
          exact h ⟨this.1, this.2.1⟩
  · rw [finish_ctx, if_neg (by omega), hC]
  · rw [finish_ctx, if_neg (by omega), hC]
  · rw [finish_ctx, if_neg (by omega), hC]; rfl
  · rw [finish_ctx, hC, hpc]; rfl
  · rw [finish_ctx_ne _ _ _ hc hk hkc, dequeue_ctx]
  all_goals
    rw [finish_ctx, hC]
    by_cases hl : latencyOf (s.env sh v) ≤ 1
    · rw [if_pos hl, deliverCtx_rest]; exact ⟨rfl, by first | exact ⟨rfl, rfl⟩ | rfl⟩
    · rw [if_neg hl]; exact ⟨rfl, by first | exact ⟨rfl, rfl⟩ | rfl⟩

/-- Whatever issues with an effect that changes nothing delivers what its operands give. -/
theorem delivered_of_pure {v : View} {sh : Shape} {s : State} (h : Issues v sh s) (res : Env → Res) (hd : sh.dst ≠ .none)
    (hpc : ∀ e, (res e).pc = none) (hw : v.dst.toNat < 16 → v.dst.toNat + (res (s.env sh v)).vals.length ≤ 16) :
    ∃ t, issue v (pureRes res) s = .next t ∧ Delivered s (s.env sh v) (res (s.env sh v)) t :=
  ⟨_, issue_of_issues h _, delivered_finish s sh v _ hd (hpc _) hw⟩

/-- A value word's claim, from its meaning, its row and the value it computes. -/
theorem gives_of {i : Instr} {v : View} {g f : Env → Word} (hx : ∀ s, exec i s = issue v (pureVal g) s)
    (hd : ∀ sh, shapeOf v = some sh → sh.dst ≠ .none)
    (hv : ∀ (s : State) sh, shapeOf v = some sh → g (s.env sh v) = f (s.env sh v)) : GivesWord i v f := by
  intro s sh h
  obtain ⟨t, h1, h2⟩ := delivered_of_pure h (fun e => .val (g e)) (hd _ h.1) (fun _ => rfl)
    (fun hl => by simp [Res.val]; omega)
  refine ⟨t, (hx s).trans h1, ?_⟩
  have := hv s sh h.1
  simp only [this] at h2
  exact h2

/-- A claim of a word that delivers what its operands give, from its meaning and its row. -/
theorem gives_res {i : Instr} {v : View} {g f : Env → Res} (hx : ∀ s, exec i s = issue v (pureRes g) s)
    (hd : ∀ sh, shapeOf v = some sh → sh.dst ≠ .none) (hpc : ∀ e, (g e).pc = none)
    (hw : ∀ e, (g e).vals.length ≤ 1)
    (hv : ∀ (s : State) sh, shapeOf v = some sh → g (s.env sh v) = f (s.env sh v)) : Gives i v f := by
  intro s sh h
  obtain ⟨t, h1, h2⟩ := delivered_of_pure h g (hd _ h.1) hpc
    (fun hl => by have := hw (s.env sh v); omega)
  refine ⟨t, (hx s).trans h1, ?_⟩
  rw [hv s sh h.1] at h2
  exact h2

/-! ### Words of the request port -/

/-- One dequeue leaves all of a die but the mailbox. -/
theorem dequeue1_die_keeps {γ : Type} (g : Die → γ) (hg : ∀ D m, g { D with mailbox := m } = g D) (p c : Nat) (fwd : Bool)
    (s : State) (ch d : Nat) : g ((State.dequeue1 p c fwd s ch).die d) = g (s.die d) := by
  unfold State.dequeue1
  split
  · rfl
  · split
    · split
      · by_cases h : d = dieOf p
        · subst h; rw [die_modDie_self, hg]
        · rw [die_modDie_ne _ _ h]
      · rfl
    · split
      · rfl
      · split <;> rfl

/-- The dequeues leave all of a die but the mailbox. -/
theorem dequeue_die_keeps {γ : Type} (g : Die → γ) (hg : ∀ D m, g { D with mailbox := m } = g D) (s : State) (p c : Nat)
    (sh : Shape) (v : View) (d : Nat) : g ((s.dequeue p c sh v).die d) = g (s.die d) :=
  foldl_keeps (fun s => g (s.die d)) _ (fun s ch => dequeue1_die_keeps g hg p c _ s ch d) _ s

/-- The regions after the dequeues. -/
@[simp] theorem dequeue_regionAt (s : State) (p c : Nat) (sh : Shape) (v : View) (d g : Nat) :
    (s.dequeue p c sh v).region d g = s.region d g :=
  dequeue_die_keeps (fun D => D.regions.get Region.reset g) (fun _ _ => rfl) s p c sh v d

/-- The control-page registers after the dequeues. -/
@[simp] theorem dequeue_ctlReg (s : State) (p c : Nat) (sh : Shape) (v : View) (d r : Nat) :
    (s.dequeue p c sh v).ctlReg d r = s.ctlReg d r :=
  dequeue_die_keeps (fun D => D.ctl.get (ctlReset r) r) (fun _ _ => rfl) s p c sh v d

/-- The region that holds an element, after the dequeues. -/
@[simp] theorem dequeue_regionOf (s : State) (p c : Nat) (sh : Shape) (v : View) (e : Nat) :
    (s.dequeue p c sh v).regionOf e = s.regionOf e := by
  unfold State.regionOf; simp

/-- The job a context acts for, after the dequeues. -/
@[simp] theorem dequeue_jobOf (s : State) (p c : Nat) (sh : Shape) (v : View) (q k : Nat) :
    (s.dequeue p c sh v).jobOf q k = s.jobOf q k := by
  unfold State.jobOf; simp

/-- The clusters a job reaches, after the dequeues. -/
@[simp] theorem dequeue_clusterOk (s : State) (p c : Nat) (sh : Shape) (v : View) (q : Nat) (job : Option Nat) (cl : Nat) :
    (s.dequeue p c sh v).clusterOk q job cl = s.clusterOk q job cl := by
  unfold State.clusterOk State.jobInCluster
  have h := dequeue_die_keeps (fun D => D.regions) (fun _ _ => rfl) s p c sh v (cl / 32)
  simp only [h]

/-- The issue checks of a short address, after the dequeues. -/
@[simp] theorem dequeue_shortFault (s : State) (p c : Nat) (sh : Shape) (v : View) (q : Nat) (job : Option Nat) (a : Word)
    (len : Nat) (acc : Acc) : (s.dequeue p c sh v).shortFault q job a len acc = s.shortFault q job a len acc := by
  unfold State.shortFault State.scratchFault
  simp only [dequeue_clusterOk]

/-- What a queued request does to its unit. -/
theorem pushReq_proc (s : State) (e : Env) (kind : ReqKind) (mode : Nat) :
    ∃ r : Req, (s.pushReq e kind mode).proc e.p =
        { s.proc e.p with reqs := (s.proc e.p).reqs ++ [r],
                          ml := mlReserve (s.proc e.p).ml e.c r.rid e.sh.resp (kind == .ldacq) } ∧
      r.kind = kind ∧ r.mode = mode ∧ r.ctx = e.c ∧ r.slot = s.cur.slot ∧ r.word = s.cur.word ∧ r.a = e.a ∧ r.a2 = e.a2 ∧
      r.b = e.b ∧ r.b2 = e.b2 ∧ r.job = s.jobOf e.p e.c ∧ r.resp = e.sh.resp := by
  refine ⟨{ rid := s.fresh, ctx := e.c, slot := s.cur.slot, word := s.cur.word, kind := kind, a := e.a, a2 := e.a2,
              b := e.b, b2 := e.b2, mode := mode, job := s.jobOf e.p e.c, resp := e.sh.resp, code := 0, wide := 0, flying := false, stage := 0, resent := false,
              data := [], miss := none }, ?_, rfl, rfl, rfl, rfl, rfl, rfl, rfl, rfl, rfl, rfl, rfl⟩
  unfold State.pushReq
  rw [proc_modProc_self]
  rfl

/-- A queued request touches its unit and the identifiers only. -/
theorem pushReq_rest (s : State) (e : Env) (kind : ReqKind) (mode : Nat) :
    s.pushReq e kind mode = { s with procs := (s.pushReq e kind mode).procs, fresh := (s.pushReq e kind mode).fresh } := rfl

/-- A queued request leaves the other units. -/
theorem pushReq_proc_ne (s : State) (e : Env) (kind : ReqKind) (mode : Nat) {q : Nat} (h : q ≠ e.p) :
    (s.pushReq e kind mode).proc q = s.proc q := by
  unfold State.pushReq
  rw [proc_modProc_ne _ _ h]
  rfl

/-- An instruction of the request port that no issue fault stops queues its request. -/
theorem requested_of_port {v : View} {sh : Shape} {s : State} (h : Issues v sh s) (kind : ReqKind) (mode : Env → Nat)
    (faults : Env → State → Option Flt) (hlat : sh.lat = 1)
    (hf : faults (s.env sh v) (s.dequeue s.cur.proc (s.ctxNo v) sh v) = none) :
    ∃ t, issue v (portEffect kind mode faults) s = .next t ∧ Requested s (s.env sh v) kind (mode (s.env sh v)) t := by
  refine ⟨_, issue_of_issues h _, ?_⟩
  have ht := dequeue_tasks s s.cur.proc (s.ctxNo v) sh v
  simp only [Prod.mk.injEq] at ht
  have hc : (s.env sh v).c < 4 := ctxNo_lt s v
  have hp : perform (s.env sh v) (portEffect kind mode faults) s =
      finish (s.env sh v) .none ((s.dequeue s.cur.proc (s.ctxNo v) sh v).pushReq (s.env sh v) kind (mode (s.env sh v))) := by
    unfold perform portEffect
    show (match (match faults (s.env sh v) (s.dequeue s.cur.proc (s.ctxNo v) sh v) with
      | some f => Except.error f | none => Except.ok (_, Res.none)) with
      | .ok (s', r) => finish (s.env sh v) r s' | .error f => _) = _
    rw [hf]
    rfl
  rw [hp]
  generalize hD : s.dequeue s.cur.proc (s.ctxNo v) sh v = D
  obtain ⟨r, hr, hk⟩ := pushReq_proc D (s.env sh v) kind (mode (s.env sh v))
  generalize hQ : D.pushReq (s.env sh v) kind (mode (s.env sh v)) = Q at hr ⊢
  have hpp : (s.env sh v).p = s.cur.proc := rfl
  have hcc : (s.env sh v).c = s.ctxNo v := rfl
  have hlat1 : latencyOf (s.env sh v) ≤ 1 := by
    have e1 : (s.env sh v).sh = sh := rfl
    simp [latencyOf, e1, hlat]
  have hctxs : ∀ k, Q.ctx (s.env sh v).p k = s.ctx (s.env sh v).p k := fun k => by
    simp only [State.ctx, hr, Proc.ctx]; subst hD; rw [dequeue_ctxs]
  have hC : Q.ctx (s.env sh v).p (s.env sh v).c = (s.env sh v).C := hctxs _
  have hcur : D.cur = s.cur := by subst hD; rw [dequeue_rest]
  have hjob : ∀ q k, D.jobOf q k = s.jobOf q k := fun q k => by subst hD; simp
  have hto : toOut (outstOf (s.env sh v).sh (s.env sh v).v Res.none 0 0) = false := by
    simp [toOut, outstOf, Res.none]
  have hval : (outstOf (s.env sh v).sh (s.env sh v).v Res.none 0 0).vals = [] := by simp [outstOf, Res.none]
  refine ⟨⟨r, ?_, hk.1, hk.2.1, hk.2.2.1, ?_, ?_, hk.2.2.2.2.2.1, hk.2.2.2.2.2.2.1, hk.2.2.2.2.2.2.2.1,
    hk.2.2.2.2.2.2.2.2.1, ?_, hk.2.2.2.2.2.2.2.2.2.2, ?_⟩, ?_, ?_, ?_, ?_, ?_, ⟨fun k hk4 hkc => ?_, ?_, ?_, ?_⟩,
    ⟨fun ch hch => ?_, ⟨?_, ?_⟩, ⟨?_, ?_, ?_, ?_⟩, ⟨?_, ?_, ?_⟩, ⟨?_, ?_⟩⟩, fun _ => ?_, ?_⟩
  · rw [finish_keeps Proc.reqs (fun _ _ _ => rfl) (fun _ _ => rfl) (fun _ _ => rfl), hr]
    subst hD; simp only [dequeue_reqs]
  · rw [hk.2.2.2.1, hcur]
  · rw [hk.2.2.2.2.1, hcur]
  · rw [hk.2.2.2.2.2.2.2.2.2.1, hjob]
  · rw [finish_keeps Proc.ml (fun _ _ _ => rfl) (fun _ _ => rfl) (fun _ _ => rfl), hr]
    subst hD
    have := dequeue_ml s (s.env sh v).p (s.env sh v).c sh v
    show mlReserve ((s.dequeue _ _ sh v).proc (s.env sh v).p).ml _ _ _ _ = _
    rw [hpp, hcc] at this
    rw [hpp, this]; rfl
  · rw [finish_ctx, if_pos hlat1, hC, deliverCtx_none _ _ hval]
  · rw [finish_ctx, if_pos hlat1, hC, deliverCtx_none _ _ hval]
    simp [predsAfter, Res.none, outstOf]
  · rw [finish_ctx, if_pos hlat1, hC, deliverCtx_none _ _ hval]
    simp [Res.none, outstOf]; rfl
  · apply Vector.ext
    intro j hj
    have := finish_outs (s.env sh v) Res.none Q hj
    rw [if_neg (by rw [hto]; simp)] at this
    simp only [vget, Nat.mod_eq_of_lt hj] at this
    rw [this, hr]
    subst hD; simp only [dequeue_outs]
  · rw [finish_ctx, hC]; rfl
  · rw [finish_ctx_ne _ _ _ hc hk4 hkc, hctxs]
  · rw [finish_ctx, if_pos hlat1, hC, deliverCtx_rest]; exact ⟨rfl, rfl, rfl⟩
  · rw [finish_ctx, if_pos hlat1, hC, deliverCtx_rest]; exact ⟨rfl, rfl⟩
  · rw [finish_ctx, if_pos hlat1, hC, deliverCtx_rest]; exact ⟨rfl, rfl⟩
  · rw [finish_keeps Proc.ins (fun _ _ _ => rfl) (fun _ _ => rfl) (fun _ _ => rfl), hr]
    subst hD; exact dequeue_ins s _ _ sh v ch hch
  · rw [finish_keeps Proc.held (fun _ _ _ => rfl) (fun _ _ => rfl) (fun _ _ => rfl), hr]
    subst hD; simp only [dequeue_held]
  · rw [finish_keeps Proc.parked (fun _ _ _ => rfl) (fun _ _ => rfl) (fun _ _ => rfl), hr]
    subst hD; simp only [dequeue_parked]
  · rw [finish_keeps Proc.slots (fun _ _ _ => rfl) (fun _ _ => rfl) (fun _ _ => rfl), hr]
    subst hD; simp only [dequeue_slots]
  · rw [finish_keeps Proc.sels (fun _ _ _ => rfl) (fun _ _ => rfl) (fun _ _ => rfl), hr]
    subst hD; simp only [dequeue_sels]
  · rw [finish_keeps Proc.taskOut (fun _ _ _ => rfl) (fun _ _ => rfl) (fun _ _ => rfl), hr]
    subst hD; simp only [dequeue_taskOut]
  · rw [finish_keeps Proc.trace (fun _ _ _ => rfl) (fun _ _ => rfl) (fun _ _ => rfl), hr]
    subst hD; simp only [dequeue_trace]
  · rw [finish_keeps Proc.lanes (fun _ _ _ => rfl) (fun _ _ => rfl) (fun _ _ => rfl), hr]
    subst hD; exact ht.1
  · rw [finish_keeps Proc.head (fun _ _ _ => rfl) (fun _ _ => rfl) (fun _ _ => rfl), hr]
    subst hD; exact ht.2.1
  · rw [finish_keeps Proc.openTasks (fun _ _ _ => rfl) (fun _ _ => rfl) (fun _ _ => rfl), hr]
    subst hD; exact ht.2.2
  · rw [finish_keeps Proc.el (fun _ _ _ => rfl) (fun _ _ => rfl) (fun _ _ => rfl), hr]
    subst hD; exact dequeue_el s _ _ sh v
  · rw [finish_keeps Proc.elHeld (fun _ _ _ => rfl) (fun _ _ => rfl) (fun _ _ => rfl), hr]
    subst hD; simp only [dequeue_elHeld]
  · rw [finish_keeps Proc.hold (fun _ _ _ => rfl) (fun _ _ => rfl) (fun _ _ => rfl), hr]
    subst hD; exact dequeue_hold s _ _ sh v
  · have hf := finish_rest (s.env sh v) Res.none Q
    have hq : Q = { D with procs := Q.procs, fresh := Q.fresh } := by subst hQ; exact pushReq_rest _ _ _ _
    have hd : D = { s with procs := D.procs, dies := D.dies } := by subst hD; exact dequeue_rest _ _ _ _ _
    refine ⟨fun q hqp => ?_, fun a => ?_, ?_, ⟨?_, ?_, ?_, ?_, ?_⟩, ⟨?_, ?_, ?_, ?_⟩, fun h => ?_⟩
    · rw [finish_proc_ne _ _ _ hqp]
      subst hQ; rw [pushReq_proc_ne _ _ _ _ hqp]
      subst hD; exact dequeue_proc_ne s _ _ sh v q hqp
    · rw [hf, hq, hd]; rfl
    · rw [hf, hq, hd]
    · rw [hf, hq, hd]
    · rw [hf, hq, hd]
    · rw [hf, hq, hd]
    · rw [hf, hq, hd]
    · rw [hf, hq, hd]
    · rw [hf, hq, hd]
    · rw [hf, hq, hd]
    · rw [hf, hq, hd]
    · rw [hf, hq, hd]
    · rw [hf, hq]
      subst hD; exact dequeue_dies s _ _ sh v h

end Sys2Proof.Laws
end

