-- ==== Sys2Proof/Laws/Fault.lean ====
section
/-! SUPPORT. What reading a view of the time counter and taking an issue fault do, and the words that only change their own
context. -/

namespace Sys2Proof.Laws

open Sys2Proof Sys2Proof.Machine

/-- A view is never early, and at most 4 ns late (00 R9). -/
theorem viewed_view (s : State) (p : Nat) : Viewed s p (s.view p).1 := by
  unfold Viewed State.view
  simp only [BitVec.lt_def]
  split
  · exact ⟨Nat.le_refl _, .inl rfl⟩
  · next h =>
    refine ⟨by omega, .inr ?_⟩
    have : Config.skew s.choice % 5 < 5 := Nat.mod_lt _ (by decide)
    have hb := s.tai.isLt
    rw [BitVec.toNat_sub, BitVec.toNat_ofNat,
      Nat.mod_eq_of_lt (show min (Config.skew s.choice % 5) s.tai.toNat < 2 ^ 64 by omega)]
    omega

/-- Reading a view touches its unit's view only. -/
theorem view_rest (s : State) (p : Nat) :
    (s.view p).2 = { s with procs := (s.view p).2.procs, choice := s.choice + 1 } := rfl

/-- The unit after its view is read. -/
@[simp] theorem view_proc_self (s : State) (p : Nat) : (s.view p).2.proc p = { s.proc p with view := (s.view p).1 } := by
  unfold State.view; simp only [proc_modProc_self]; rfl

/-- The other units after a view is read. -/
theorem view_proc_ne (s : State) {p q : Nat} (h : q ≠ p) : (s.view p).2.proc q = s.proc q := by
  unfold State.view; simp only [proc_modProc_ne _ _ h]; rfl

/-- The contexts after a view is read. -/
@[simp] theorem view_ctx (s : State) (p q k : Nat) : (s.view p).2.ctx q k = s.ctx q k := by
  by_cases h : q = p
  · subst h; simp only [State.ctx, view_proc_self]; rfl
  · simp only [State.ctx, view_proc_ne _ h]

/-- Taking a fault touches its unit, the record queue of its die and the choice counter only. -/
theorem takeFault_rest (s : State) (kind : FaultKind) (p c slot : Nat) (word : Word) (f : Flt) (held : Bool) (nresp : Nat) :
    s.takeFault kind p c slot word f held nresp =
      { s with procs := (s.takeFault kind p c slot word f held nresp).procs
               dies := (s.takeFault kind p c slot word f held nresp).dies, choice := s.choice + 1 } := rfl

/-- The unit that takes a fault: its context goes from RUN to FAULT and holds it (04 R97, 06 R205). -/
theorem takeFault_proc (s : State) (kind : FaultKind) (p c slot : Nat) (word : Word) (f : Flt) (held : Bool) (nresp : Nat) :
    (s.takeFault kind p c slot word f held nresp).proc p =
      ({ s.proc p with view := (s.view p).1 } : Proc).setCtx c
        { s.ctx p c with
          rstate := (s.ctx p c).rstate.faulted
          faults := (s.ctx p c).faults ++ [{ kind := kind, code := f.code, slot := slot, word := word,
                                             job := (s.jobOf p c).getD 0 }] } := by
  unfold State.takeFault State.postFault State.modCtx
  simp only [proc_modDie, proc_modProc_self, view_proc_self]
  rfl

/-- A fault leaves the other units. -/
theorem takeFault_proc_ne (s : State) (kind : FaultKind) (p c slot : Nat) (word : Word) (f : Flt) (held : Bool) (nresp : Nat)
    {q : Nat} (h : q ≠ p) : (s.takeFault kind p c slot word f held nresp).proc q = s.proc q := by
  unfold State.takeFault State.postFault State.modCtx
  simp only [proc_modDie, proc_modProc_ne _ _ h, view_proc_ne _ h]

/-- The die of a unit that takes a fault queues one record (16 R422). -/
theorem takeFault_die (s : State) (kind : FaultKind) (p c slot : Nat) (word : Word) (f : Flt) (held : Bool) (nresp : Nat) :
    (s.takeFault kind p c slot word f held nresp).die (dieOf p) =
      { s.die (dieOf p) with faultPend := (s.die (dieOf p)).faultPend ++
        [faultWords (s.view p).1 f ((s.jobOf p c).getD 0) false (s.ctxTarget p c slot) word held nresp] } := by
  unfold State.takeFault State.postFault
  rw [die_modDie_self]
  rfl

/-- A word whose effect is an issue fault takes it and does nothing else. -/
theorem faultTaken_of {v : View} {sh : Shape} {s : State} {eff : Effect} {f : Flt} (h : Issues v sh s)
    (he : eff (s.env sh v) (s.dequeue s.cur.proc (s.ctxNo v) sh v) = .error f) (h2 : f.op2 = 0) :
    ∃ t, issue v eff s = .next t ∧ FaultTaken s (s.env sh v) (if f.code = 18 then .brk else .issue) f.code f.cause
      (f.op0.getD (s.env sh v).a) (f.op1.getD (s.env sh v).b) t := by
  refine ⟨_, issue_of_issues h _, ?_⟩
  have hc : (s.env sh v).c < 4 := ctxNo_lt s v
  have hp : perform (s.env sh v) eff s = s.takeFault (if f.code = 18 then .brk else .issue) (s.env sh v).p (s.env sh v).c
      s.cur.slot s.cur.word (f.withOps (s.env sh v)) := by
    unfold perform
    show (match eff (s.env sh v) (s.dequeue s.cur.proc (s.ctxNo v) sh v) with
      | .ok (s', r) => finish (s.env sh v) r s' | .error f => _) = _
    rw [he]
  rw [hp]
  refine ⟨?_, fun k hk hkc => ?_, ?_, fun q hq => takeFault_proc_ne _ _ _ _ _ _ _ _ _ hq, fun a => rfl, ⟨rfl, rfl, rfl, rfl, rfl⟩,
    (s.view (s.env sh v).p).1, viewed_view _ _, ?_⟩
  · rw [State.ctx, takeFault_proc, ctx_setCtx_self]; rfl
  · rw [State.ctx, takeFault_proc, ctx_setCtx_ne _ hc hk _ hkc]; rfl
  · rw [takeFault_proc]; rfl
  · rw [takeFault_die]
    simp [faultWords, h2, Flt.withOps, put]

/-- A word of latency 1 that changes its own context and delivers no value. -/
theorem leaves_of {v : View} {sh : Shape} {s : State} (F : Env → Ctx → Ctx) (R : Env → Res) {eff : Effect} (h : Issues v sh s)
    (he : eff (s.env sh v) (s.dequeue s.cur.proc (s.ctxNo v) sh v) =
      .ok ((s.dequeue s.cur.proc (s.ctxNo v) sh v).modCtx (s.env sh v).p (s.env sh v).c (F (s.env sh v)), R (s.env sh v)))
    (hlat : sh.lat = 1) (hv : (R (s.env sh v)).vals = []) :
    ∃ t, issue v eff s = .next t ∧ Leaves s (s.env sh v)
      { F (s.env sh v) (s.env sh v).C with
        p := pactOf v.pact v.pidx.toNat (R (s.env sh v)).cond (F (s.env sh v) (s.env sh v).C).p
        fpflags := (F (s.env sh v) (s.env sh v).C).fpflags ||| (R (s.env sh v)).flags
        pc := if isCore (s.env sh v).p then (R (s.env sh v)).pc.getD ((F (s.env sh v) (s.env sh v).C).pc + 8)
              else (F (s.env sh v) (s.env sh v).C).pc } t := by
  refine ⟨_, issue_of_issues h _, ?_⟩
  have hc : (s.env sh v).c < 4 := ctxNo_lt s v
  have hp : perform (s.env sh v) eff s = finish (s.env sh v) (R (s.env sh v))
      ((s.dequeue s.cur.proc (s.ctxNo v) sh v).modCtx (s.env sh v).p (s.env sh v).c (F (s.env sh v))) := by
    unfold perform
    show (match eff (s.env sh v) (s.dequeue s.cur.proc (s.ctxNo v) sh v) with
      | .ok (s', r) => finish (s.env sh v) r s' | .error f => _) = _
    rw [he]
  rw [hp]
  generalize hD : s.dequeue s.cur.proc (s.ctxNo v) sh v = D
  generalize hr : R (s.env sh v) = r at hv ⊢
  generalize hF : F (s.env sh v) = G
  have hpp : (s.env sh v).p = s.cur.proc := rfl
  have hcc : (s.env sh v).c = s.ctxNo v := rfl
  have hlat1 : latencyOf (s.env sh v) ≤ 1 := by
    have e1 : (s.env sh v).sh = sh := rfl
    simp [latencyOf, e1, hlat]
  have hC : D.ctx (s.env sh v).p (s.env sh v).c = (s.env sh v).C := by subst hD; rw [dequeue_ctx]; rfl
  have hval : (outstOf (s.env sh v).sh (s.env sh v).v r 0 0).vals = [] := by simp [outstOf, hv]
  have hto : toOut (outstOf (s.env sh v).sh (s.env sh v).v r 0 0) = false := by simp [toOut, hval]
  have hq : ∀ q, q ≠ (s.env sh v).p → (D.modCtx (s.env sh v).p (s.env sh v).c G).proc q = D.proc q := fun q hq => by
    unfold State.modCtx; rw [proc_modProc_ne _ _ hq]
  have hk : ∀ {γ : Type} (g : Proc → γ) (_ : ∀ P c C, g (Proc.setCtx P c C) = g P),
      g ((D.modCtx (s.env sh v).p (s.env sh v).c G).proc (s.env sh v).p) = g (D.proc (s.env sh v).p) := fun g hg => by
    unfold State.modCtx; rw [proc_modProc_self, hg]
  have ht := dequeue_tasks s s.cur.proc (s.ctxNo v) sh v
  simp only [Prod.mk.injEq] at ht
  refine ⟨?_, fun k hk4 hkc => ?_, ?_, ⟨fun ch hch => ?_, ⟨?_, ?_⟩, ⟨?_, ?_, ?_, ?_⟩, ⟨?_, ?_, ?_⟩, ⟨?_, ?_⟩⟩, ?_, ⟨?_, ?_⟩, ?_⟩
  · rw [finish_ctx, if_pos hlat1, ctx_modCtx_self, hC, deliverCtx_none _ _ hval]; rfl
  · rw [finish_ctx_ne _ _ _ hc hk4 hkc]
    unfold State.modCtx
    simp only [State.ctx, proc_modProc_self, ctx_setCtx_ne _ hc hk4 _ hkc]
    subst hD; exact dequeue_ctx s _ _ sh v _ _
  · apply Vector.ext
    intro j hj
    have := finish_outs (s.env sh v) r (D.modCtx (s.env sh v).p (s.env sh v).c G) hj
    rw [if_neg (by rw [hto]; simp)] at this
    simp only [vget, Nat.mod_eq_of_lt hj] at this
    rw [this, hk Proc.outs (fun _ _ _ => rfl)]
    subst hD; simp only [dequeue_outs]
  · rw [finish_keeps Proc.ins (fun _ _ _ => rfl) (fun _ _ => rfl) (fun _ _ => rfl), hk Proc.ins (fun _ _ _ => rfl)]
    subst hD; exact dequeue_ins s _ _ sh v ch hch
  · rw [finish_keeps Proc.held (fun _ _ _ => rfl) (fun _ _ => rfl) (fun _ _ => rfl), hk Proc.held (fun _ _ _ => rfl)]
    subst hD; simp only [dequeue_held]
  · rw [finish_keeps Proc.parked (fun _ _ _ => rfl) (fun _ _ => rfl) (fun _ _ => rfl), hk Proc.parked (fun _ _ _ => rfl)]
    subst hD; simp only [dequeue_parked]
  · rw [finish_keeps Proc.slots (fun _ _ _ => rfl) (fun _ _ => rfl) (fun _ _ => rfl), hk Proc.slots (fun _ _ _ => rfl)]
    subst hD; simp only [dequeue_slots]
  · rw [finish_keeps Proc.sels (fun _ _ _ => rfl) (fun _ _ => rfl) (fun _ _ => rfl), hk Proc.sels (fun _ _ _ => rfl)]
    subst hD; simp only [dequeue_sels]
  · rw [finish_keeps Proc.taskOut (fun _ _ _ => rfl) (fun _ _ => rfl) (fun _ _ => rfl), hk Proc.taskOut (fun _ _ _ => rfl)]
    subst hD; simp only [dequeue_taskOut]
  · rw [finish_keeps Proc.trace (fun _ _ _ => rfl) (fun _ _ => rfl) (fun _ _ => rfl), hk Proc.trace (fun _ _ _ => rfl)]
    subst hD; simp only [dequeue_trace]
  · rw [finish_keeps Proc.lanes (fun _ _ _ => rfl) (fun _ _ => rfl) (fun _ _ => rfl), hk Proc.lanes (fun _ _ _ => rfl)]
    subst hD; exact ht.1
  · rw [finish_keeps Proc.head (fun _ _ _ => rfl) (fun _ _ => rfl) (fun _ _ => rfl), hk Proc.head (fun _ _ _ => rfl)]
    subst hD; exact ht.2.1
  · rw [finish_keeps Proc.openTasks (fun _ _ _ => rfl) (fun _ _ => rfl) (fun _ _ => rfl), hk Proc.openTasks (fun _ _ _ => rfl)]
    subst hD; exact ht.2.2
  · rw [finish_keeps Proc.el (fun _ _ _ => rfl) (fun _ _ => rfl) (fun _ _ => rfl), hk Proc.el (fun _ _ _ => rfl)]
    subst hD; exact dequeue_el s _ _ sh v
  · rw [finish_keeps Proc.elHeld (fun _ _ _ => rfl) (fun _ _ => rfl) (fun _ _ => rfl), hk Proc.elHeld (fun _ _ _ => rfl)]
    subst hD; simp only [dequeue_elHeld]
  · rw [finish_keeps Proc.hold (fun _ _ _ => rfl) (fun _ _ => rfl) (fun _ _ => rfl), hk Proc.hold (fun _ _ _ => rfl)]
    subst hD; exact dequeue_hold s _ _ sh v
  · rw [finish_keeps Proc.reqs (fun _ _ _ => rfl) (fun _ _ => rfl) (fun _ _ => rfl), hk Proc.reqs (fun _ _ _ => rfl)]
    subst hD; simp only [dequeue_reqs]
  · rw [finish_keeps Proc.ml (fun _ _ _ => rfl) (fun _ _ => rfl) (fun _ _ => rfl), hk Proc.ml (fun _ _ _ => rfl)]
    subst hD; exact dequeue_ml s _ _ sh v
  · have hf := finish_rest (s.env sh v) r (D.modCtx (s.env sh v).p (s.env sh v).c G)
    have hm : D.modCtx (s.env sh v).p (s.env sh v).c G =
        { D with procs := (D.modCtx (s.env sh v).p (s.env sh v).c G).procs } := rfl
    have hd : D = { s with procs := D.procs, dies := D.dies } := by subst hD; exact dequeue_rest _ _ _ _ _
    refine ⟨fun q hqp => ?_, fun a => ?_, ?_, ⟨?_, ?_, ?_, ?_, ?_⟩, ⟨?_, ?_, ?_, ?_⟩, fun h => ?_⟩
    · rw [finish_proc_ne _ _ _ hqp, hq q hqp]
      subst hD; exact dequeue_proc_ne s _ _ sh v q hqp
    · rw [hf, hm, hd]; rfl
    · rw [hf, hm, hd]
    · rw [hf, hm, hd]
    · rw [hf, hm, hd]
    · rw [hf, hm, hd]
    · rw [hf, hm, hd]
    · rw [hf, hm, hd]
    · rw [hf, hm, hd]
    · rw [hf, hm, hd]
    · rw [hf, hm, hd]
    · rw [hf, hm, hd]
    · rw [hf, hm]
      subst hD; exact dequeue_dies s _ _ sh v h

end Sys2Proof.Laws
end

