-- ==== Sys2Proof/Laws/PerInstr.lean ====
section
/-! SUPPORT. The family Encoding: a well-formed instruction's word passes the decode check in an element or on a control core
(02 R67). One lemma per constructor. -/

namespace Sys2Proof.Laws

open Sys2Proof.Machine

/-- The word of a well-formed instruction passes the decode check somewhere; an event row has no word. -/
def Encoding.Statement (i : Instr) : Prop :=
  ∀ w, encode i = some w → i.wf = true → legalWord w = true

/-- The left one of two conditions that hold. -/
theorem of_and {a b : Bool} (h : (a && b) = true) : a = true := (Bool.and_eq_true_iff.mp h).1

theorem Encoding.add : ∀ a0, Encoding.Statement (.add a0) := fun _ => fun _ e h => Option.some.inj e ▸ h
theorem Encoding.sub : ∀ a0, Encoding.Statement (.sub a0) := fun _ => fun _ e h => Option.some.inj e ▸ h
theorem Encoding.mul : ∀ a0, Encoding.Statement (.mul a0) := fun _ => fun _ e h => Option.some.inj e ▸ h
theorem Encoding.mulh : ∀ a0, Encoding.Statement (.mulh a0) := fun _ => fun _ e h => Option.some.inj e ▸ h
theorem Encoding.mulhu : ∀ a0, Encoding.Statement (.mulhu a0) := fun _ => fun _ e h => Option.some.inj e ▸ h
theorem Encoding.div : ∀ a0, Encoding.Statement (.div a0) := fun _ => fun _ e h => Option.some.inj e ▸ h
theorem Encoding.divu : ∀ a0, Encoding.Statement (.divu a0) := fun _ => fun _ e h => Option.some.inj e ▸ h
theorem Encoding.rem : ∀ a0, Encoding.Statement (.rem a0) := fun _ => fun _ e h => Option.some.inj e ▸ h
theorem Encoding.remu : ∀ a0, Encoding.Statement (.remu a0) := fun _ => fun _ e h => Option.some.inj e ▸ h
theorem Encoding.min : ∀ a0, Encoding.Statement (.min a0) := fun _ => fun _ e h => Option.some.inj e ▸ h
theorem Encoding.max : ∀ a0, Encoding.Statement (.max a0) := fun _ => fun _ e h => Option.some.inj e ▸ h
theorem Encoding.minu : ∀ a0, Encoding.Statement (.minu a0) := fun _ => fun _ e h => Option.some.inj e ▸ h
theorem Encoding.maxu : ∀ a0, Encoding.Statement (.maxu a0) := fun _ => fun _ e h => Option.some.inj e ▸ h
theorem Encoding.abs : ∀ a0, Encoding.Statement (.abs a0) := fun _ => fun _ e h => Option.some.inj e ▸ h
theorem Encoding.neg : ∀ a0, Encoding.Statement (.neg a0) := fun _ => fun _ e h => Option.some.inj e ▸ h
theorem Encoding.mad : ∀ a0, Encoding.Statement (.mad a0) := fun _ => fun _ e h => Option.some.inj e ▸ h
theorem Encoding.and : ∀ a0, Encoding.Statement (.and a0) := fun _ => fun _ e h => Option.some.inj e ▸ h
theorem Encoding.or : ∀ a0, Encoding.Statement (.or a0) := fun _ => fun _ e h => Option.some.inj e ▸ h
theorem Encoding.xor : ∀ a0, Encoding.Statement (.xor a0) := fun _ => fun _ e h => Option.some.inj e ▸ h
theorem Encoding.andn : ∀ a0, Encoding.Statement (.andn a0) := fun _ => fun _ e h => Option.some.inj e ▸ h
theorem Encoding.orn : ∀ a0, Encoding.Statement (.orn a0) := fun _ => fun _ e h => Option.some.inj e ▸ h
theorem Encoding.xnor : ∀ a0, Encoding.Statement (.xnor a0) := fun _ => fun _ e h => Option.some.inj e ▸ h
theorem Encoding.shl : ∀ a0, Encoding.Statement (.shl a0) := fun _ => fun _ e h => Option.some.inj e ▸ h
theorem Encoding.shr : ∀ a0, Encoding.Statement (.shr a0) := fun _ => fun _ e h => Option.some.inj e ▸ h
theorem Encoding.sar : ∀ a0, Encoding.Statement (.sar a0) := fun _ => fun _ e h => Option.some.inj e ▸ h
theorem Encoding.rol : ∀ a0, Encoding.Statement (.rol a0) := fun _ => fun _ e h => Option.some.inj e ▸ h
theorem Encoding.ror : ∀ a0, Encoding.Statement (.ror a0) := fun _ => fun _ e h => Option.some.inj e ▸ h
theorem Encoding.clz : ∀ a0, Encoding.Statement (.clz a0) := fun _ => fun _ e h => Option.some.inj e ▸ h
theorem Encoding.ctz : ∀ a0, Encoding.Statement (.ctz a0) := fun _ => fun _ e h => Option.some.inj e ▸ h
theorem Encoding.popc : ∀ a0, Encoding.Statement (.popc a0) := fun _ => fun _ e h => Option.some.inj e ▸ h
theorem Encoding.brev : ∀ a0, Encoding.Statement (.brev a0) := fun _ => fun _ e h => Option.some.inj e ▸ h
theorem Encoding.bswap : ∀ a0, Encoding.Statement (.bswap a0) := fun _ => fun _ e h => Option.some.inj e ▸ h
theorem Encoding.cmp : ∀ a0, Encoding.Statement (.cmp a0) := fun _ => fun _ e h => Option.some.inj e ▸ h
theorem Encoding.sel : ∀ a0, Encoding.Statement (.sel a0) := fun _ => fun _ e h => Option.some.inj e ▸ h
theorem Encoding.mov : ∀ a0, Encoding.Statement (.mov a0) := fun _ => fun _ e h => Option.some.inj e ▸ h
theorem Encoding.ext : ∀ a0, Encoding.Statement (.ext a0) := fun _ => fun _ e h => Option.some.inj e ▸ h
theorem Encoding.bfx : ∀ a0, Encoding.Statement (.bfx a0) := fun _ => fun _ e h => Option.some.inj e ▸ h
theorem Encoding.bfi : ∀ a0, Encoding.Statement (.bfi a0) := fun _ => fun _ e h => Option.some.inj e ▸ h
theorem Encoding.packlh : ∀ a0, Encoding.Statement (.packlh a0) := fun _ => fun _ e h => Option.some.inj e ▸ h
theorem Encoding.splat : ∀ a0, Encoding.Statement (.splat a0) := fun _ => fun _ e h => Option.some.inj e ▸ h
theorem Encoding.clamp : ∀ a0, Encoding.Statement (.clamp a0) := fun _ => fun _ e h => Option.some.inj e ▸ h
theorem Encoding.addi : ∀ a0, Encoding.Statement (.addi a0) := fun _ => fun _ e h => Option.some.inj e ▸ h
theorem Encoding.muli : ∀ a0, Encoding.Statement (.muli a0) := fun _ => fun _ e h => Option.some.inj e ▸ h
theorem Encoding.andi : ∀ a0, Encoding.Statement (.andi a0) := fun _ => fun _ e h => Option.some.inj e ▸ h
theorem Encoding.ori : ∀ a0, Encoding.Statement (.ori a0) := fun _ => fun _ e h => Option.some.inj e ▸ h
theorem Encoding.xori : ∀ a0, Encoding.Statement (.xori a0) := fun _ => fun _ e h => Option.some.inj e ▸ h
theorem Encoding.shli : ∀ a0, Encoding.Statement (.shli a0) := fun _ => fun _ e h => Option.some.inj e ▸ h
theorem Encoding.shri : ∀ a0, Encoding.Statement (.shri a0) := fun _ => fun _ e h => Option.some.inj e ▸ h
theorem Encoding.sari : ∀ a0, Encoding.Statement (.sari a0) := fun _ => fun _ e h => Option.some.inj e ▸ h
theorem Encoding.roli : ∀ a0, Encoding.Statement (.roli a0) := fun _ => fun _ e h => Option.some.inj e ▸ h
theorem Encoding.cmpi : ∀ a0, Encoding.Statement (.cmpi a0) := fun _ => fun _ e h => Option.some.inj e ▸ h
theorem Encoding.mini : ∀ a0, Encoding.Statement (.mini a0) := fun _ => fun _ e h => Option.some.inj e ▸ h
theorem Encoding.maxi : ∀ a0, Encoding.Statement (.maxi a0) := fun _ => fun _ e h => Option.some.inj e ▸ h
theorem Encoding.movi : ∀ a0, Encoding.Statement (.movi a0) := fun _ => fun _ e h => Option.some.inj e ▸ h
theorem Encoding.movw : ∀ a0, Encoding.Statement (.movw a0) := fun _ => fun _ e h => Option.some.inj e ▸ (of_and h)
theorem Encoding.movwIns : ∀ a0, Encoding.Statement (.movwIns a0) := fun _ => fun _ e h => Option.some.inj e ▸ (of_and h)
theorem Encoding.pset : ∀ a0, Encoding.Statement (.pset a0) := fun _ => fun _ e h => Option.some.inj e ▸ h
theorem Encoding.pget : ∀ a0, Encoding.Statement (.pget a0) := fun _ => fun _ e h => Option.some.inj e ▸ h
theorem Encoding.plogic : ∀ a0, Encoding.Statement (.plogic a0) := fun _ => fun _ e h => Option.some.inj e ▸ h
theorem Encoding.nop : ∀ a0, Encoding.Statement (.nop a0) := fun _ => fun _ e h => Option.some.inj e ▸ h
theorem Encoding.halt : ∀ a0, Encoding.Statement (.halt a0) := fun _ => fun _ e h => Option.some.inj e ▸ h
theorem Encoding.sleepu : ∀ a0, Encoding.Statement (.sleepu a0) := fun _ => fun _ e h => Option.some.inj e ▸ h
theorem Encoding.time : ∀ a0, Encoding.Statement (.time a0) := fun _ => fun _ e h => Option.some.inj e ▸ h
theorem Encoding.spr : ∀ a0, Encoding.Statement (.spr a0) := fun _ => fun _ e h => Option.some.inj e ▸ h
theorem Encoding.spw : ∀ a0, Encoding.Statement (.spw a0) := fun _ => fun _ e h => Option.some.inj e ▸ h
theorem Encoding.trap : ∀ a0, Encoding.Statement (.trap a0) := fun _ => fun _ e h => Option.some.inj e ▸ h
theorem Encoding.brkpt : ∀ a0, Encoding.Statement (.brkpt a0) := fun _ => fun _ e h => Option.some.inj e ▸ h
theorem Encoding.trace : ∀ a0, Encoding.Statement (.trace a0) := fun _ => fun _ e h => Option.some.inj e ▸ h
theorem Encoding.fadd : ∀ a0, Encoding.Statement (.fadd a0) := fun _ => fun _ e h => Option.some.inj e ▸ h
theorem Encoding.fsub : ∀ a0, Encoding.Statement (.fsub a0) := fun _ => fun _ e h => Option.some.inj e ▸ h
theorem Encoding.fmul : ∀ a0, Encoding.Statement (.fmul a0) := fun _ => fun _ e h => Option.some.inj e ▸ h
theorem Encoding.ffma : ∀ a0, Encoding.Statement (.ffma a0) := fun _ => fun _ e h => Option.some.inj e ▸ h
theorem Encoding.ffms : ∀ a0, Encoding.Statement (.ffms a0) := fun _ => fun _ e h => Option.some.inj e ▸ h
theorem Encoding.fdiv : ∀ a0, Encoding.Statement (.fdiv a0) := fun _ => fun _ e h => Option.some.inj e ▸ h
theorem Encoding.fsqrt : ∀ a0, Encoding.Statement (.fsqrt a0) := fun _ => fun _ e h => Option.some.inj e ▸ h
theorem Encoding.fmin : ∀ a0, Encoding.Statement (.fmin a0) := fun _ => fun _ e h => Option.some.inj e ▸ h
theorem Encoding.fmax : ∀ a0, Encoding.Statement (.fmax a0) := fun _ => fun _ e h => Option.some.inj e ▸ h
theorem Encoding.fabs : ∀ a0, Encoding.Statement (.fabs a0) := fun _ => fun _ e h => Option.some.inj e ▸ h
theorem Encoding.fneg : ∀ a0, Encoding.Statement (.fneg a0) := fun _ => fun _ e h => Option.some.inj e ▸ h
theorem Encoding.fcmp : ∀ a0, Encoding.Statement (.fcmp a0) := fun _ => fun _ e h => Option.some.inj e ▸ h
theorem Encoding.fclass : ∀ a0, Encoding.Statement (.fclass a0) := fun _ => fun _ e h => Option.some.inj e ▸ h
theorem Encoding.frint : ∀ a0, Encoding.Statement (.frint a0) := fun _ => fun _ e h => Option.some.inj e ▸ h
theorem Encoding.fscale : ∀ a0, Encoding.Statement (.fscale a0) := fun _ => fun _ e h => Option.some.inj e ▸ h
theorem Encoding.frcpa : ∀ a0, Encoding.Statement (.frcpa a0) := fun _ => fun _ e h => Option.some.inj e ▸ h
theorem Encoding.badd : ∀ a0, Encoding.Statement (.badd a0) := fun _ => fun _ e h => Option.some.inj e ▸ h
theorem Encoding.bsub : ∀ a0, Encoding.Statement (.bsub a0) := fun _ => fun _ e h => Option.some.inj e ▸ h
theorem Encoding.bmul : ∀ a0, Encoding.Statement (.bmul a0) := fun _ => fun _ e h => Option.some.inj e ▸ h
theorem Encoding.bfma : ∀ a0, Encoding.Statement (.bfma a0) := fun _ => fun _ e h => Option.some.inj e ▸ h
theorem Encoding.bmin : ∀ a0, Encoding.Statement (.bmin a0) := fun _ => fun _ e h => Option.some.inj e ▸ h
theorem Encoding.bmax : ∀ a0, Encoding.Statement (.bmax a0) := fun _ => fun _ e h => Option.some.inj e ▸ h
theorem Encoding.bcmp : ∀ a0, Encoding.Statement (.bcmp a0) := fun _ => fun _ e h => Option.some.inj e ▸ h
theorem Encoding.bdot : ∀ a0, Encoding.Statement (.bdot a0) := fun _ => fun _ e h => Option.some.inj e ▸ h
theorem Encoding.bsgn : ∀ a0, Encoding.Statement (.bsgn a0) := fun _ => fun _ e h => Option.some.inj e ▸ h
theorem Encoding.bsum : ∀ a0, Encoding.Statement (.bsum a0) := fun _ => fun _ e h => Option.some.inj e ▸ h
theorem Encoding.vadd : ∀ a0, Encoding.Statement (.vadd a0) := fun _ => fun _ e h => Option.some.inj e ▸ h
theorem Encoding.vsub : ∀ a0, Encoding.Statement (.vsub a0) := fun _ => fun _ e h => Option.some.inj e ▸ h
theorem Encoding.vadds : ∀ a0, Encoding.Statement (.vadds a0) := fun _ => fun _ e h => Option.some.inj e ▸ h
theorem Encoding.vsubs : ∀ a0, Encoding.Statement (.vsubs a0) := fun _ => fun _ e h => Option.some.inj e ▸ h
theorem Encoding.vmul : ∀ a0, Encoding.Statement (.vmul a0) := fun _ => fun _ e h => Option.some.inj e ▸ h
theorem Encoding.vmulh : ∀ a0, Encoding.Statement (.vmulh a0) := fun _ => fun _ e h => Option.some.inj e ▸ h
theorem Encoding.vmin : ∀ a0, Encoding.Statement (.vmin a0) := fun _ => fun _ e h => Option.some.inj e ▸ h
theorem Encoding.vmax : ∀ a0, Encoding.Statement (.vmax a0) := fun _ => fun _ e h => Option.some.inj e ▸ h
theorem Encoding.vabs : ∀ a0, Encoding.Statement (.vabs a0) := fun _ => fun _ e h => Option.some.inj e ▸ h
theorem Encoding.vshl : ∀ a0, Encoding.Statement (.vshl a0) := fun _ => fun _ e h => Option.some.inj e ▸ h
theorem Encoding.vshr : ∀ a0, Encoding.Statement (.vshr a0) := fun _ => fun _ e h => Option.some.inj e ▸ h
theorem Encoding.vsar : ∀ a0, Encoding.Statement (.vsar a0) := fun _ => fun _ e h => Option.some.inj e ▸ h
theorem Encoding.vcmp : ∀ a0, Encoding.Statement (.vcmp a0) := fun _ => fun _ e h => Option.some.inj e ▸ h
theorem Encoding.vsum : ∀ a0, Encoding.Statement (.vsum a0) := fun _ => fun _ e h => Option.some.inj e ▸ h
theorem Encoding.vperm : ∀ a0, Encoding.Statement (.vperm a0) := fun _ => fun _ e h => Option.some.inj e ▸ h
theorem Encoding.vpacks : ∀ a0, Encoding.Statement (.vpacks a0) := fun _ => fun _ e h => Option.some.inj e ▸ h
theorem Encoding.fcvt : ∀ a0, Encoding.Statement (.fcvt a0) := fun _ => fun _ e h => Option.some.inj e ▸ h
theorem Encoding.ftoi : ∀ a0, Encoding.Statement (.ftoi a0) := fun _ => fun _ e h => Option.some.inj e ▸ h
theorem Encoding.itof : ∀ a0, Encoding.Statement (.itof a0) := fun _ => fun _ e h => Option.some.inj e ▸ h
theorem Encoding.bcvtPack : ∀ a0, Encoding.Statement (.bcvtPack a0) := fun _ => fun _ e h => Option.some.inj e ▸ (of_and h)
theorem Encoding.bcvtUnpack : ∀ a0, Encoding.Statement (.bcvtUnpack a0) := fun _ => fun _ e h => Option.some.inj e ▸ (of_and h)
theorem Encoding.cbld : ∀ a0, Encoding.Statement (.cbld a0) := fun _ => fun _ e h => Option.some.inj e ▸ h
theorem Encoding.cbdec : ∀ a0, Encoding.Statement (.cbdec a0) := fun _ => fun _ e h => Option.some.inj e ▸ h
theorem Encoding.cbenc : ∀ a0, Encoding.Statement (.cbenc a0) := fun _ => fun _ e h => Option.some.inj e ▸ h
theorem Encoding.tagset : ∀ a0, Encoding.Statement (.tagset a0) := fun _ => fun _ e h => Option.some.inj e ▸ h
theorem Encoding.tagof : ∀ a0, Encoding.Statement (.tagof a0) := fun _ => fun _ e h => Option.some.inj e ▸ h
theorem Encoding.csares : ∀ a0, Encoding.Statement (.csares a0) := fun _ => fun _ e h => Option.some.inj e ▸ h
theorem Encoding.csaadd : ∀ a0, Encoding.Statement (.csaadd a0) := fun _ => fun _ e h => Option.some.inj e ▸ h
theorem Encoding.fwd : ∀ a0, Encoding.Statement (.fwd a0) := fun _ => fun _ e h => Option.some.inj e ▸ h
theorem Encoding.emit : ∀ a0, Encoding.Statement (.emit a0) := fun _ => fun _ e h => Option.some.inj e ▸ h
theorem Encoding.drop : ∀ a0, Encoding.Statement (.drop a0) := fun _ => fun _ e h => Option.some.inj e ▸ h
theorem Encoding.peek : ∀ a0, Encoding.Statement (.peek a0) := fun _ => fun _ e h => Option.some.inj e ▸ h
theorem Encoding.pgive : ∀ a0, Encoding.Statement (.pgive a0) := fun _ => fun _ e h => Option.some.inj e ▸ h
theorem Encoding.chcfg : ∀ a0, Encoding.Statement (.chcfg a0) := fun _ => fun _ e h => Option.some.inj e ▸ h
theorem Encoding.ctrlw : ∀ a0, Encoding.Statement (.ctrlw a0) := fun _ => fun _ e h => Option.some.inj e ▸ h
theorem Encoding.hndbind : ∀ a0, Encoding.Statement (.hndbind a0) := fun _ => fun _ e h => Option.some.inj e ▸ h
theorem Encoding.tsend : ∀ a0, Encoding.Statement (.tsend a0) := fun _ => fun _ e h => Option.some.inj e ▸ h
theorem Encoding.tsend2 : ∀ a0, Encoding.Statement (.tsend2 a0) := fun _ => fun _ e h => Option.some.inj e ▸ h
theorem Encoding.tdone : ∀ a0, Encoding.Statement (.tdone a0) := fun _ => fun _ e h => Option.some.inj e ▸ h
theorem Encoding.tsubmit : ∀ a0, Encoding.Statement (.tsubmit a0) := fun _ => fun _ e h => Option.some.inj e ▸ h
theorem Encoding.launch : ∀ a0, Encoding.Statement (.launch a0) := fun _ => fun _ e h => Option.some.inj e ▸ h
theorem Encoding.cancel : ∀ a0, Encoding.Statement (.cancel a0) := fun _ => fun _ e h => Option.some.inj e ▸ h
theorem Encoding.wcount : ∀ a0, Encoding.Statement (.wcount a0) := fun _ => fun _ e h => Option.some.inj e ▸ h
theorem Encoding.klend : ∀ a0, Encoding.Statement (.klend a0) := fun _ => fun _ e h => Option.some.inj e ▸ (of_and h)
theorem Encoding.klendRet : ∀ a0, Encoding.Statement (.klendRet a0) := fun _ => fun _ e h => Option.some.inj e ▸ (of_and h)
theorem Encoding.klendQ : ∀ a0, Encoding.Statement (.klendQ a0) := fun _ => fun _ e h => Option.some.inj e ▸ (of_and h)
theorem Encoding.ld : ∀ a0, Encoding.Statement (.ld a0) := fun _ => fun _ e h => Option.some.inj e ▸ h
theorem Encoding.st : ∀ a0, Encoding.Statement (.st a0) := fun _ => fun _ e h => Option.some.inj e ▸ h
theorem Encoding.stp : ∀ a0, Encoding.Statement (.stp a0) := fun _ => fun _ e h => Option.some.inj e ▸ h
theorem Encoding.ldacq : ∀ a0, Encoding.Statement (.ldacq a0) := fun _ => fun _ e h => Option.some.inj e ▸ h
theorem Encoding.strel : ∀ a0, Encoding.Statement (.strel a0) := fun _ => fun _ e h => Option.some.inj e ▸ h
theorem Encoding.fence : ∀ a0, Encoding.Statement (.fence a0) := fun _ => fun _ e h => Option.some.inj e ▸ h
theorem Encoding.flush : ∀ a0, Encoding.Statement (.flush a0) := fun _ => fun _ e h => Option.some.inj e ▸ h
theorem Encoding.ldw : ∀ a0, Encoding.Statement (.ldw a0) := fun _ => fun _ e h => Option.some.inj e ▸ h
theorem Encoding.stw : ∀ a0, Encoding.Statement (.stw a0) := fun _ => fun _ e h => Option.some.inj e ▸ h
theorem Encoding.pref : ∀ a0, Encoding.Statement (.pref a0) := fun _ => fun _ e h => Option.some.inj e ▸ h
theorem Encoding.atom : ∀ a0, Encoding.Statement (.atom a0) := fun _ => fun _ e h => Option.some.inj e ▸ h
theorem Encoding.cas : ∀ a0, Encoding.Statement (.cas a0) := fun _ => fun _ e h => Option.some.inj e ▸ h
theorem Encoding.alloc : ∀ a0, Encoding.Statement (.alloc a0) := fun _ => fun _ e h => Option.some.inj e ▸ h
theorem Encoding.free : ∀ a0, Encoding.Statement (.free a0) := fun _ => fun _ e h => Option.some.inj e ▸ h
theorem Encoding.seal : ∀ a0, Encoding.Statement (.seal a0) := fun _ => fun _ e h => Option.some.inj e ▸ h
theorem Encoding.persist : ∀ a0, Encoding.Statement (.persist a0) := fun _ => fun _ e h => Option.some.inj e ▸ h
theorem Encoding.hbind : ∀ a0, Encoding.Statement (.hbind a0) := fun _ => fun _ e h => Option.some.inj e ▸ h
theorem Encoding.hexp : ∀ a0, Encoding.Statement (.hexp a0) := fun _ => fun _ e h => Option.some.inj e ▸ h
theorem Encoding.hshort : ∀ a0, Encoding.Statement (.hshort a0) := fun _ => fun _ e h => Option.some.inj e ▸ h
theorem Encoding.hdrop : ∀ a0, Encoding.Statement (.hdrop a0) := fun _ => fun _ e h => Option.some.inj e ▸ h
theorem Encoding.objq : ∀ a0, Encoding.Statement (.objq a0) := fun _ => fun _ e h => Option.some.inj e ▸ h
theorem Encoding.planLoad : ∀ a0, Encoding.Statement (.planLoad a0) := fun _ => fun _ e h => Option.some.inj e ▸ (of_and h)
theorem Encoding.planStep : ∀ a0, Encoding.Statement (.planStep a0) := fun _ => fun _ e h => Option.some.inj e ▸ (of_and h)
theorem Encoding.planDrop : ∀ a0, Encoding.Statement (.planDrop a0) := fun _ => fun _ e h => Option.some.inj e ▸ (of_and h)
theorem Encoding.evict : ∀ a0, Encoding.Statement (.evict a0) := fun _ => fun _ e h => Option.some.inj e ▸ h
theorem Encoding.syncadd : ∀ a0, Encoding.Statement (.syncadd a0) := fun _ => fun _ e h => Option.some.inj e ▸ h
theorem Encoding.syncrd : ∀ a0, Encoding.Statement (.syncrd a0) := fun _ => fun _ e h => Option.some.inj e ▸ h
theorem Encoding.syncset : ∀ a0, Encoding.Statement (.syncset a0) := fun _ => fun _ e h => Option.some.inj e ▸ h
theorem Encoding.tlook : ∀ a0, Encoding.Statement (.tlook a0) := fun _ => fun _ e h => Option.some.inj e ▸ h
theorem Encoding.tset : ∀ a0, Encoding.Statement (.tset a0) := fun _ => fun _ e h => Option.some.inj e ▸ h
theorem Encoding.tclr : ∀ a0, Encoding.Statement (.tclr a0) := fun _ => fun _ e h => Option.some.inj e ▸ h
theorem Encoding.tiletagCas : ∀ a0, Encoding.Statement (.tiletagCas a0) := fun _ => fun _ e h => Option.some.inj e ▸ (of_and h)
theorem Encoding.tiletagSet : ∀ a0, Encoding.Statement (.tiletagSet a0) := fun _ => fun _ e h => Option.some.inj e ▸ (of_and h)
theorem Encoding.tiletagRd : ∀ a0, Encoding.Statement (.tiletagRd a0) := fun _ => fun _ e h => Option.some.inj e ▸ (of_and h)
theorem Encoding.sfree : ∀ a0, Encoding.Statement (.sfree a0) := fun _ => fun _ e h => Option.some.inj e ▸ h
theorem Encoding.sbind : ∀ a0, Encoding.Statement (.sbind a0) := fun _ => fun _ e h => Option.some.inj e ▸ h
theorem Encoding.scancel : ∀ a0, Encoding.Statement (.scancel a0) := fun _ => fun _ e h => Option.some.inj e ▸ h
theorem Encoding.mxbind : ∀ a0, Encoding.Statement (.mxbind a0) := fun _ => fun _ e h => Option.some.inj e ▸ (of_and h)
theorem Encoding.mxbindCb : ∀ a0, Encoding.Statement (.mxbindCb a0) := fun _ => fun _ e h => Option.some.inj e ▸ (of_and h)
theorem Encoding.mxbindFree : ∀ a0, Encoding.Statement (.mxbindFree a0) := fun _ => fun _ e h => Option.some.inj e ▸ (of_and h)
theorem Encoding.mxpri : ∀ a0, Encoding.Statement (.mxpri a0) := fun _ => fun _ e h => Option.some.inj e ▸ h
theorem Encoding.mxstat : ∀ a0, Encoding.Statement (.mxstat a0) := fun _ => fun _ e h => Option.some.inj e ▸ h
theorem Encoding.gload : ∀ a0, Encoding.Statement (.gload a0) := fun _ => fun _ e h => Option.some.inj e ▸ h
theorem Encoding.gbind : ∀ a0, Encoding.Statement (.gbind a0) := fun _ => fun _ e h => Option.some.inj e ▸ h
theorem Encoding.gunload : ∀ a0, Encoding.Statement (.gunload a0) := fun _ => fun _ e h => Option.some.inj e ▸ h
theorem Encoding.opcfg : ∀ a0, Encoding.Statement (.opcfg a0) := fun _ => fun _ e h => Option.some.inj e ▸ h
theorem Encoding.oprd : ∀ a0, Encoding.Statement (.oprd a0) := fun _ => fun _ e h => Option.some.inj e ▸ h
theorem Encoding.collSumf : ∀ a0, Encoding.Statement (.collSumf a0) := fun _ => fun _ e h => Option.some.inj e ▸ (of_and h)
theorem Encoding.collMinf : ∀ a0, Encoding.Statement (.collMinf a0) := fun _ => fun _ e h => Option.some.inj e ▸ (of_and h)
theorem Encoding.collMaxf : ∀ a0, Encoding.Statement (.collMaxf a0) := fun _ => fun _ e h => Option.some.inj e ▸ (of_and h)
theorem Encoding.collSumi : ∀ a0, Encoding.Statement (.collSumi a0) := fun _ => fun _ e h => Option.some.inj e ▸ (of_and h)
theorem Encoding.collMini : ∀ a0, Encoding.Statement (.collMini a0) := fun _ => fun _ e h => Option.some.inj e ▸ (of_and h)
theorem Encoding.collMaxi : ∀ a0, Encoding.Statement (.collMaxi a0) := fun _ => fun _ e h => Option.some.inj e ▸ (of_and h)
theorem Encoding.collBcast : ∀ a0, Encoding.Statement (.collBcast a0) := fun _ => fun _ e h => Option.some.inj e ▸ (of_and h)
theorem Encoding.collBarrier : ∀ a0, Encoding.Statement (.collBarrier a0) := fun _ => fun _ e h => Option.some.inj e ▸ (of_and h)
theorem Encoding.br : ∀ a0, Encoding.Statement (.br a0) := fun _ => fun _ e h => Option.some.inj e ▸ h
theorem Encoding.brl : ∀ a0, Encoding.Statement (.brl a0) := fun _ => fun _ e h => Option.some.inj e ▸ h
theorem Encoding.bx : ∀ a0, Encoding.Statement (.bx a0) := fun _ => fun _ e h => Option.some.inj e ▸ h
theorem Encoding.evpop : ∀ a0, Encoding.Statement (.evpop a0) := fun _ => fun _ e h => Option.some.inj e ▸ h
theorem Encoding.mbxpop : ∀ a0, Encoding.Statement (.mbxpop a0) := fun _ => fun _ e h => Option.some.inj e ▸ h
theorem Encoding.cfgload : ∀ a0, Encoding.Statement (.cfgload a0) := fun _ => fun _ e h => Option.some.inj e ▸ h
theorem Encoding.run : ∀ a0, Encoding.Statement (.run a0) := fun _ => fun _ e h => Option.some.inj e ▸ (of_and h)
theorem Encoding.runContext : ∀ a0, Encoding.Statement (.runContext a0) := fun _ => fun _ e h => Option.some.inj e ▸ (of_and h)
theorem Encoding.freeze : ∀ a0, Encoding.Statement (.freeze a0) := fun _ => fun _ e h => Option.some.inj e ▸ (of_and h)
theorem Encoding.freezeRel : ∀ a0, Encoding.Statement (.freezeRel a0) := fun _ => fun _ e h => Option.some.inj e ▸ (of_and h)
theorem Encoding.thaw : ∀ a0, Encoding.Statement (.thaw a0) := fun _ => fun _ e h => Option.some.inj e ▸ h
theorem Encoding.barrier : ∀ a0, Encoding.Statement (.barrier a0) := fun _ => fun _ e h => Option.some.inj e ▸ h
theorem Encoding.markSnap : ∀ a0, Encoding.Statement (.markSnap a0) := fun _ => fun _ e h => Option.some.inj e ▸ (of_and h)
theorem Encoding.markPre : ∀ a0, Encoding.Statement (.markPre a0) := fun _ => fun _ e h => Option.some.inj e ▸ (of_and h)
theorem Encoding.save : ∀ a0, Encoding.Statement (.save a0) := fun _ => fun _ e h => Option.some.inj e ▸ (of_and h)
theorem Encoding.saveRel : ∀ a0, Encoding.Statement (.saveRel a0) := fun _ => fun _ e h => Option.some.inj e ▸ (of_and h)
theorem Encoding.restore : ∀ a0, Encoding.Statement (.restore a0) := fun _ => fun _ e h => Option.some.inj e ▸ h
theorem Encoding.rekey : ∀ a0, Encoding.Statement (.rekey a0) := fun _ => fun _ e h => Option.some.inj e ▸ h
theorem Encoding.resumeRetry : ∀ a0, Encoding.Statement (.resumeRetry a0) := fun _ => fun _ e h => Option.some.inj e ▸ (of_and h)
theorem Encoding.resumeSkip : ∀ a0, Encoding.Statement (.resumeSkip a0) := fun _ => fun _ e h => Option.some.inj e ▸ (of_and h)
theorem Encoding.resumeRoll : ∀ a0, Encoding.Statement (.resumeRoll a0) := fun _ => fun _ e h => Option.some.inj e ▸ (of_and h)
theorem Encoding.resumeCancel : ∀ a0, Encoding.Statement (.resumeCancel a0) := fun _ => fun _ e h => Option.some.inj e ▸ (of_and h)
theorem Encoding.illegalSlotIssue : Encoding.Statement (.illegalSlotIssue) := fun _ h => nomatch h
theorem Encoding.brkSlotBit : Encoding.Statement (.brkSlotBit) := fun _ h => nomatch h
theorem Encoding.coreFetchFault : Encoding.Statement (.coreFetchFault) := fun _ h => nomatch h
theorem Encoding.resultDelivery : ∀ a0 a1 a2, Encoding.Statement (.resultDelivery a0 a1 a2) := fun _ _ _ => fun _ h => nomatch h
theorem Encoding.tokenArrival : ∀ a0, Encoding.Statement (.tokenArrival a0) := fun _ => fun _ h => nomatch h
theorem Encoding.steerResult : ∀ a0 a1, Encoding.Statement (.steerResult a0 a1) := fun _ _ => fun _ h => nomatch h
theorem Encoding.discardHead : ∀ a0 a1, Encoding.Statement (.discardHead a0 a1) := fun _ _ => fun _ h => nomatch h
theorem Encoding.taskPacketArrival : ∀ a0 a1, Encoding.Statement (.taskPacketArrival a0 a1) := fun _ _ => fun _ h => nomatch h
theorem Encoding.tlHeadChoice : ∀ a0, Encoding.Statement (.tlHeadChoice a0) := fun _ => fun _ h => nomatch h
theorem Encoding.taskInject : ∀ a0, Encoding.Statement (.taskInject a0) := fun _ => fun _ h => nomatch h
theorem Encoding.sleepWake : ∀ a0 a1, Encoding.Statement (.sleepWake a0 a1) := fun _ _ => fun _ h => nomatch h
theorem Encoding.traceRecordPost : ∀ a0, Encoding.Statement (.traceRecordPost a0) := fun _ => fun _ h => nomatch h
theorem Encoding.elEventPost : ∀ a0, Encoding.Statement (.elEventPost a0) := fun _ => fun _ h => nomatch h
theorem Encoding.unitComplete : ∀ a0 a1, Encoding.Statement (.unitComplete a0 a1) := fun _ _ => fun _ h => nomatch h
theorem Encoding.eccError : ∀ a0 a1, Encoding.Statement (.eccError a0 a1) := fun _ _ => fun _ h => nomatch h
theorem Encoding.routeToken : ∀ a0 a1 a2, Encoding.Statement (.routeToken a0 a1 a2) := fun _ _ _ => fun _ h => nomatch h
theorem Encoding.memoryRequestServe : ∀ a0, Encoding.Statement (.memoryRequestServe a0) := fun _ => fun _ h => nomatch h
theorem Encoding.mlResponse : ∀ a0 a1, Encoding.Statement (.mlResponse a0 a1) := fun _ _ => fun _ h => nomatch h
theorem Encoding.strelWrite : ∀ a0 a1, Encoding.Statement (.strelWrite a0 a1) := fun _ _ => fun _ h => nomatch h
theorem Encoding.fenceResponse : ∀ a0 a1, Encoding.Statement (.fenceResponse a0 a1) := fun _ _ => fun _ h => nomatch h
theorem Encoding.sealComplete : ∀ a0 a1, Encoding.Statement (.sealComplete a0 a1) := fun _ _ => fun _ h => nomatch h
theorem Encoding.persistComplete : ∀ a0 a1, Encoding.Statement (.persistComplete a0 a1) := fun _ _ => fun _ h => nomatch h
theorem Encoding.objectReclaim : ∀ a0, Encoding.Statement (.objectReclaim a0) := fun _ => fun _ h => nomatch h
theorem Encoding.copyPositionBegin : ∀ a0 a1, Encoding.Statement (.copyPositionBegin a0 a1) := fun _ _ => fun _ h => nomatch h
theorem Encoding.counterFire : ∀ a0 a1, Encoding.Statement (.counterFire a0 a1) := fun _ _ => fun _ h => nomatch h
theorem Encoding.copyEnd : ∀ a0 a1, Encoding.Statement (.copyEnd a0 a1) := fun _ _ => fun _ h => nomatch h
theorem Encoding.normalise : ∀ a0 a1, Encoding.Statement (.normalise a0 a1) := fun _ _ => fun _ h => nomatch h
theorem Encoding.convert : ∀ a0 a1, Encoding.Statement (.convert a0 a1) := fun _ _ => fun _ h => nomatch h
theorem Encoding.suuUpdate : ∀ a0, Encoding.Statement (.suuUpdate a0) := fun _ => fun _ h => nomatch h
theorem Encoding.suuWindowClose : ∀ a0, Encoding.Statement (.suuWindowClose a0) := fun _ => fun _ h => nomatch h
theorem Encoding.reduceGroup : ∀ a0, Encoding.Statement (.reduceGroup a0) := fun _ => fun _ h => nomatch h
theorem Encoding.coalesceIssue : ∀ a0 a1, Encoding.Statement (.coalesceIssue a0 a1) := fun _ _ => fun _ h => nomatch h
theorem Encoding.mxEntryCreate : ∀ a0 a1 a2, Encoding.Statement (.mxEntryCreate a0 a1 a2) := fun _ _ _ => fun _ h => nomatch h
theorem Encoding.mxStandbyLatch : ∀ a0 a1, Encoding.Statement (.mxStandbyLatch a0 a1) := fun _ _ => fun _ h => nomatch h
theorem Encoding.mxLatchEnd : ∀ a0 a1, Encoding.Statement (.mxLatchEnd a0 a1) := fun _ _ => fun _ h => nomatch h
theorem Encoding.mxPark : ∀ a0 a1, Encoding.Statement (.mxPark a0 a1) := fun _ _ => fun _ h => nomatch h
theorem Encoding.mxComputeEnd : ∀ a0 a1, Encoding.Statement (.mxComputeEnd a0 a1) := fun _ _ => fun _ h => nomatch h
theorem Encoding.mxDeliver : ∀ a0 a1, Encoding.Statement (.mxDeliver a0 a1) := fun _ _ => fun _ h => nomatch h
theorem Encoding.espTokenTake : ∀ a0 a1, Encoding.Statement (.espTokenTake a0 a1) := fun _ _ => fun _ h => nomatch h
theorem Encoding.espRowOutput : ∀ a0 a1, Encoding.Statement (.espRowOutput a0 a1) := fun _ _ => fun _ h => nomatch h
theorem Encoding.dispatchDecide : ∀ a0, Encoding.Statement (.dispatchDecide a0) := fun _ => fun _ h => nomatch h
theorem Encoding.taskDelivery : ∀ a0 a1, Encoding.Statement (.taskDelivery a0 a1) := fun _ _ => fun _ h => nomatch h
theorem Encoding.workCounterDone : ∀ a0 a1 a2, Encoding.Statement (.workCounterDone a0 a1 a2) := fun _ _ _ => fun _ h => nomatch h
theorem Encoding.regionComplete : ∀ a0 a1, Encoding.Statement (.regionComplete a0 a1) := fun _ _ => fun _ h => nomatch h
theorem Encoding.eventRecordPost : ∀ a0 a1, Encoding.Statement (.eventRecordPost a0 a1) := fun _ _ => fun _ h => nomatch h
theorem Encoding.faultRecord : ∀ a0, Encoding.Statement (.faultRecord a0) := fun _ => fun _ h => nomatch h
theorem Encoding.watchdogExpiry : ∀ a0 a1, Encoding.Statement (.watchdogExpiry a0 a1) := fun _ _ => fun _ h => nomatch h
theorem Encoding.cutMarkerArrival : ∀ a0, Encoding.Statement (.cutMarkerArrival a0) := fun _ => fun _ h => nomatch h
theorem Encoding.saveRecordWrite : ∀ a0 a1, Encoding.Statement (.saveRecordWrite a0 a1) := fun _ _ => fun _ h => nomatch h
theorem Encoding.cutComplete : ∀ a0 a1, Encoding.Statement (.cutComplete a0 a1) := fun _ _ => fun _ h => nomatch h
theorem Encoding.restoreTokenEnter : ∀ a0 a1, Encoding.Statement (.restoreTokenEnter a0 a1) := fun _ _ => fun _ h => nomatch h
theorem Encoding.islandWrite : ∀ a0 a1, Encoding.Statement (.islandWrite a0 a1) := fun _ _ => fun _ h => nomatch h
theorem Encoding.islandChangeDone : ∀ a0, Encoding.Statement (.islandChangeDone a0) := fun _ => fun _ h => nomatch h
theorem Encoding.jctlWrite : ∀ a0 a1, Encoding.Statement (.jctlWrite a0 a1) := fun _ _ => fun _ h => nomatch h
theorem Encoding.jkeysWrite : ∀ a0 a1, Encoding.Statement (.jkeysWrite a0 a1) := fun _ _ => fun _ h => nomatch h
theorem Encoding.jtrustWrite : ∀ a0 a1, Encoding.Statement (.jtrustWrite a0 a1) := fun _ _ => fun _ h => nomatch h
theorem Encoding.dbgdataRead : ∀ a0 a1, Encoding.Statement (.dbgdataRead a0 a1) := fun _ _ => fun _ h => nomatch h
theorem Encoding.dbgdataWrite : ∀ a0 a1, Encoding.Statement (.dbgdataWrite a0 a1) := fun _ _ => fun _ h => nomatch h
theorem Encoding.nodeidWrite : ∀ a0 a1, Encoding.Statement (.nodeidWrite a0 a1) := fun _ _ => fun _ h => nomatch h
theorem Encoding.apcmdGrant : ∀ a0, Encoding.Statement (.apcmdGrant a0) := fun _ => fun _ h => nomatch h
theorem Encoding.apcmdMigrate : ∀ a0, Encoding.Statement (.apcmdMigrate a0) := fun _ => fun _ h => nomatch h
theorem Encoding.apcmdRevoke : Encoding.Statement (.apcmdRevoke) := fun _ h => nomatch h
theorem Encoding.apcmdReserved : Encoding.Statement (.apcmdReserved) := fun _ h => nomatch h
theorem Encoding.modeSecureWrite : ∀ a0 a1, Encoding.Statement (.modeSecureWrite a0 a1) := fun _ _ => fun _ h => nomatch h
theorem Encoding.modeSnapshotWrite : ∀ a0 a1, Encoding.Statement (.modeSnapshotWrite a0 a1) := fun _ _ => fun _ h => nomatch h
theorem Encoding.modeDebugWrite : ∀ a0 a1, Encoding.Statement (.modeDebugWrite a0 a1) := fun _ _ => fun _ h => nomatch h
theorem Encoding.modeThrottleWrite : ∀ a0 a1, Encoding.Statement (.modeThrottleWrite a0 a1) := fun _ _ => fun _ h => nomatch h
theorem Encoding.controlRegisterWrite : ∀ a0 a1, Encoding.Statement (.controlRegisterWrite a0 a1) := fun _ _ => fun _ h => nomatch h
theorem Encoding.promote : ∀ a0 a1 a2 a3, Encoding.Statement (.promote a0 a1 a2 a3) := fun _ _ _ _ => fun _ h => nomatch h
theorem Encoding.evictPage : ∀ a0, Encoding.Statement (.evictPage a0) := fun _ => fun _ h => nomatch h
theorem Encoding.planPrefetch : ∀ a0 a1 a2 a3, Encoding.Statement (.planPrefetch a0 a1 a2 a3) := fun _ _ _ _ => fun _ h => nomatch h
theorem Encoding.durableAppend : Encoding.Statement (.durableAppend) := fun _ h => nomatch h
theorem Encoding.compaction : ∀ a0, Encoding.Statement (.compaction a0) := fun _ => fun _ h => nomatch h
theorem Encoding.powerLoss : Encoding.Statement (.powerLoss) := fun _ h => nomatch h
theorem Encoding.holdupLow : ∀ a0, Encoding.Statement (.holdupLow a0) := fun _ => fun _ h => nomatch h
theorem Encoding.counterReencrypt : ∀ a0 a1, Encoding.Statement (.counterReencrypt a0 a1) := fun _ _ => fun _ h => nomatch h
theorem Encoding.counterWriteback : ∀ a0 a1, Encoding.Statement (.counterWriteback a0 a1) := fun _ _ => fun _ h => nomatch h
theorem Encoding.scrubRead : ∀ a0 a1, Encoding.Statement (.scrubRead a0 a1) := fun _ _ => fun _ h => nomatch h
theorem Encoding.scrubLevel : ∀ a0, Encoding.Statement (.scrubLevel a0) := fun _ => fun _ h => nomatch h
theorem Encoding.ptpMessage : ∀ a0 a1, Encoding.Statement (.ptpMessage a0 a1) := fun _ _ => fun _ h => nomatch h
theorem Encoding.timeCorrection : ∀ a0 a1, Encoding.Statement (.timeCorrection a0 a1) := fun _ _ => fun _ h => nomatch h
theorem Encoding.timeFailover : Encoding.Statement (.timeFailover) := fun _ h => nomatch h
theorem Encoding.flitReplay : ∀ a0, Encoding.Statement (.flitReplay a0) := fun _ => fun _ h => nomatch h
theorem Encoding.linkStateChange : ∀ a0 a1 a2, Encoding.Statement (.linkStateChange a0 a1 a2) := fun _ _ _ => fun _ h => nomatch h
theorem Encoding.packetRoute : ∀ a0 a1, Encoding.Statement (.packetRoute a0 a1) := fun _ _ => fun _ h => nomatch h
theorem Encoding.escapeTimeout : ∀ a0, Encoding.Statement (.escapeTimeout a0) := fun _ => fun _ h => nomatch h
theorem Encoding.packetReceive : ∀ a0 a1, Encoding.Statement (.packetReceive a0 a1) := fun _ _ => fun _ h => nomatch h
theorem Encoding.ackReceive : ∀ a0 a1, Encoding.Statement (.ackReceive a0 a1) := fun _ _ => fun _ h => nomatch h
theorem Encoding.rejectReceive : ∀ a0 a1, Encoding.Statement (.rejectReceive a0 a1) := fun _ _ => fun _ h => nomatch h
theorem Encoding.collComplete : ∀ a0 a1, Encoding.Statement (.collComplete a0 a1) := fun _ _ => fun _ h => nomatch h
theorem Encoding.spdmMessage : ∀ a0 a1, Encoding.Statement (.spdmMessage a0 a1) := fun _ _ => fun _ h => nomatch h
theorem Encoding.rekeyDrain : ∀ a0 a1 a2, Encoding.Statement (.rekeyDrain a0 a1 a2) := fun _ _ _ => fun _ h => nomatch h
theorem Encoding.rekeySwitch : ∀ a0, Encoding.Statement (.rekeySwitch a0) := fun _ => fun _ h => nomatch h
theorem Encoding.rekeyTimeout : Encoding.Statement (.rekeyTimeout) := fun _ h => nomatch h
theorem Encoding.mboxNop : Encoding.Statement (.mboxNop) := fun _ h => nomatch h
theorem Encoding.mboxReadboot : Encoding.Statement (.mboxReadboot) := fun _ h => nomatch h
theorem Encoding.mboxRestart : Encoding.Statement (.mboxRestart) := fun _ h => nomatch h
theorem Encoding.mboxClearfail : Encoding.Statement (.mboxClearfail) := fun _ h => nomatch h
theorem Encoding.mboxMeasure : Encoding.Statement (.mboxMeasure) := fun _ h => nomatch h
theorem Encoding.mboxRefused : ∀ a0, Encoding.Statement (.mboxRefused a0) := fun _ => fun _ h => nomatch h
theorem Encoding.coldStart : ∀ a0, Encoding.Statement (.coldStart a0) := fun _ => fun _ h => nomatch h
theorem Encoding.stageTimeout : ∀ a0, Encoding.Statement (.stageTimeout a0) := fun _ => fun _ h => nomatch h
theorem Encoding.thermalEvent : ∀ a0 a1, Encoding.Statement (.thermalEvent a0 a1) := fun _ _ => fun _ h => nomatch h
theorem Encoding.stagingBufferWriteback : ∀ a0, Encoding.Statement (.stagingBufferWriteback a0) := fun _ => fun _ h => nomatch h
theorem Encoding.holdupRegained : ∀ a0, Encoding.Statement (.holdupRegained a0) := fun _ => fun _ h => nomatch h
theorem Encoding.powerControllerWrite : ∀ a0 a1 a2, Encoding.Statement (.powerControllerWrite a0 a1 a2) := fun _ _ _ => fun _ h => nomatch h
theorem Encoding.lockHoldover : Encoding.Statement (.lockHoldover) := fun _ h => nomatch h

end Sys2Proof.Laws
end

