-- ==== Sys2Proof/Laws/Values.lean ====
section
/-! SUPPORT. The values of the integer instructions as the integers give them. -/

namespace Sys2Proof.Laws

open Sys2Proof Sys2Proof.Machine

/-- Signed order of words is that of their integers. -/
theorem sle_toInt (a b : Word) : a.sle b = decide (a.toInt ≤ b.toInt) := by simp [BitVec.sle]
/-- Signed strict order of words is that of their integers. -/
theorem slt_toInt (a b : Word) : a.slt b = decide (a.toInt < b.toInt) := by simp [BitVec.slt]

theorem sminWord_eq (a b : Word) : sminWord a b = if a.toInt ≤ b.toInt then a else b := by simp [sminWord, sle_toInt]
theorem smaxWord_eq (a b : Word) : smaxWord a b = if a.toInt ≤ b.toInt then b else a := by simp [smaxWord, sle_toInt]
theorem uminWord_eq (a b : Word) : uminWord a b = if a.toNat ≤ b.toNat then a else b := by simp [uminWord, BitVec.ule]
theorem umaxWord_eq (a b : Word) : umaxWord a b = if a.toNat ≤ b.toNat then b else a := by simp [umaxWord, BitVec.ule]
theorem absWord_eq (a : Word) : absWord a = if a.toInt < 0 then 0 - a else a := by
  simp only [absWord, BitVec.msb_eq_toInt, decide_eq_true_eq]

theorem udivWord_eq (a b : Word) :
    udivWord a b = if b = 0 then BitVec.allOnes 64 else BitVec.ofNat 64 (a.toNat / b.toNat) := by
  unfold udivWord
  split
  · rfl
  · apply BitVec.eq_of_toNat_eq
    rw [BitVec.udiv_eq, BitVec.toNat_udiv, BitVec.toNat_ofNat, Nat.mod_eq_of_lt]
    exact Nat.lt_of_le_of_lt (Nat.div_le_self _ _) a.isLt

theorem uremWord_eq (a b : Word) : uremWord a b = if b = 0 then a else BitVec.ofNat 64 (a.toNat % b.toNat) := by
  unfold uremWord
  split
  · rfl
  · apply BitVec.eq_of_toNat_eq
    rw [BitVec.umod_eq, BitVec.toNat_umod, BitVec.toNat_ofNat]
    refine (Nat.mod_eq_of_lt ?_).symm
    exact Nat.lt_of_le_of_lt (Nat.mod_le _ _) a.isLt

theorem sdivWord_eq (a b : Word) :
    sdivWord a b = if b = 0 then BitVec.allOnes 64 else BitVec.ofInt 64 (a.toInt.tdiv b.toInt) := by
  unfold sdivWord
  split
  · rfl
  · apply BitVec.eq_of_toInt_eq
    rw [BitVec.toInt_sdiv, BitVec.toInt_ofInt]

theorem sremWord_eq (a b : Word) : sremWord a b = if b = 0 then a else BitVec.ofInt 64 (a.toInt.tmod b.toInt) := by
  unfold sremWord
  split
  · rfl
  · apply BitVec.eq_of_toInt_eq
    rw [BitVec.toInt_srem, BitVec.toInt_ofInt]
    rw [← BitVec.toInt_srem, ← BitVec.toInt_ofInt, BitVec.ofInt_toInt]

theorem mulhuWord_eq (a b : Word) : mulhuWord a b = BitVec.ofNat 64 (a.toNat * b.toNat / 2 ^ 64) := by
  have h1 := a.isLt
  have h2 := b.isLt
  apply BitVec.eq_of_toNat_eq
  unfold mulhuWord
  simp only [BitVec.extractLsb'_toNat, BitVec.toNat_mul, BitVec.toNat_setWidth, BitVec.toNat_ofNat, Nat.shiftRight_eq_div_pow]
  have hl : a.toNat * b.toNat < 2 ^ 128 := by
    calc a.toNat * b.toNat < 2 ^ 64 * 2 ^ 64 := Nat.mul_lt_mul'' h1 h2
      _ = 2 ^ 128 := by decide
  rw [Nat.mod_eq_of_lt (by omega : a.toNat < 2 ^ 128), Nat.mod_eq_of_lt (by omega : b.toNat < 2 ^ 128), Nat.mod_eq_of_lt hl]

theorem mulhWord_eq (a b : Word) : mulhWord a b = BitVec.ofInt 64 (a.toInt * b.toInt / 2 ^ 64) := by
  unfold mulhWord
  apply BitVec.eq_of_toNat_eq
  have hx : (a.signExtend 128 * b.signExtend 128) = BitVec.ofInt 128 (a.toInt * b.toInt) := by
    rw [BitVec.ofInt_mul, BitVec.signExtend, BitVec.signExtend]
  rw [hx, BitVec.extractLsb'_toNat, BitVec.toNat_ofInt, BitVec.toNat_ofInt, Nat.shiftRight_eq_div_pow]
  omega

theorem sshiftRight_eq (a : Word) (n : Nat) : a.sshiftRight n = BitVec.ofInt 64 (a.toInt / 2 ^ n) := by
  rw [BitVec.sshiftRight, Int.shiftRight_eq_div_pow]; norm_cast

theorem shiftCount_eq (b : Word) : shiftCount b = b.toNat % 64 := by simp [shiftCount, fldN]

theorem fld6 (b : Word) : fldN b 0 6 = b.toNat % 64 := by simp [fldN]

end Sys2Proof.Laws
end

