-- ==== Sys2Proof/Tests/Slice0.lean ====
section
/-! SUPPORT. Tests: ill-formed terms that WellFormed refuses, words written out from the encoding tables of the specification,
single steps whose results come from the specification's tables or from hand calculation, and for every statement a state and
operands that meet its hypotheses. -/

namespace Sys2Proof.Tests

open Sys2Proof Sys2Proof.Machine

set_option maxRecDepth 20000
set_option exponentiation.threshold 2048

/-! ### States for tests -/

/-- The machine after reset with context 0 of unit `p` running, the registers `xs` set, and slot 0 with the word `w` in hand. -/
def issuing (p : Nat) (w : Word) (xs : List (Nat × Word)) : State :=
  { State.reset.modCtx p 0 (fun C => { C with rstate := .run, x := xs.foldl (fun x a => vset x a.1 a.2) C.x }) with
    cur := { proc := p, ctx := 0, slot := 0, word := w } }

/-- The same on core 0 of die 0, acting for job 1. -/
def forJob (xs : List (Nat × Word)) : State := (issuing 4096 0 xs).modCtx 4096 0 fun C => { C with ctxjob := 0x101 }

/-- The next state of an outcome, and the reset state where there is none. -/
def nextOf (o : Host.Outcome State Fault Refusal) : State :=
  match o with
  | .next t => t
  | _ => State.reset

/-- Fields of a register word: x1 from x2 and x3, no predicate, no dequeue. -/
def r1 : RForm := { trig := unguarded, dst := 1, sa := 2, sb := 3, pact := 0, pidx := 0, dq := 0, mod := 0 }
/-- Fields of a word of the request port: destination 20. -/
def q1 : RForm := { r1 with dst := 20 }
/-- Fields of a word without a destination. -/
def z1 : RForm := { r1 with dst := 0 }
/-- Fields of an immediate word: x1 from x2. -/
def i1 : IForm := { trig := unguarded, dst := 1, sa := 2, imm := 0, dq := 0, mod := 0 }
/-- Fields of MOVW: x1, halfword 0. -/
def w1 : WForm := { trig := unguarded, dst := 1, imm := 0, hw := 0, zero := 0, ins := 0 }
/-- Fields of a branch by nothing. -/
def b1 : BForm := { trig := unguarded, disp := 0 }

/-- The shape of a word's opcode; ADD's where there is none. -/
def shp (v : View) : Shape :=
  match shapeOf v with
  | some sh => sh
  | none => {}

/-- The word with the fields `v` issues in `s`. -/
def canIssue (v : View) (s : State) : Bool :=
  match shapeOf v with
  | some sh => admission sh v s == .run && s.eccHit sh v == false
  | none => false

theorem issues_of_canIssue {v : View} {s : State} (h : canIssue v s = true) : Issues v (shp v) s := by
  unfold canIssue at h
  unfold shp
  split at h
  · rename_i sh e
    simp only [Bool.and_eq_true, beq_iff_eq] at h
    exact ⟨e, h.1, h.2⟩
  · exact absurd h (by decide)

theorem issues_all {v : BitVec 8 → View} {s : State} {l : List (BitVec 8)} (h : l.all (fun op => canIssue (v op) s) = true) :
    ∀ op ∈ l, Issues (v op) (shp (v op)) s := fun op m => issues_of_canIssue (List.all_eq_true.mp h op m)

/-- `n` opcodes from `lo` on. -/
def ops (lo n : Nat) : List (BitVec 8) := (List.range n).map fun k => BitVec.ofNat 8 (lo + k)

/-! ### Witnesses: words that deliver a value -/

theorem witness_IntegerArithmeticResults :
    (∀ op ∈ ops 0x00 16, Issues (viewR op r1) (shp (viewR op r1)) (issuing 0 0 [])) ∧ (Instr.add r1).wf = true ∧
      (Instr.abs { r1 with sb := 0 }).wf = true :=
  ⟨issues_all (by decide), by decide, by decide⟩

theorem witness_LogicAndShiftResults :
    (∀ op ∈ ops 0x10 16, Issues (viewR op r1) (shp (viewR op r1)) (issuing 0 0 [])) ∧ (Instr.and r1).wf = true ∧
      (Instr.clz { r1 with sb := 0 }).wf = true :=
  ⟨issues_all (by decide), by decide, by decide⟩

theorem witness_CompareSelectMoveResults :
    (∀ op ∈ ops 0x20 9, Issues (viewR op r1) (shp (viewR op r1)) (issuing 0 0 [])) ∧ r1.mod.toNat < 3 ∧
      ({ r1 with mod := 2 } : RForm).mod.toNat < 3 :=
  ⟨issues_all (by decide), by decide, by decide⟩

theorem witness_ImmediateResults :
    (∀ op ∈ ops 0x30 13, Issues (viewI op i1) (shp (viewI op i1)) (issuing 0 0 [])) ∧
      Issues (viewW 0x3D w1) (shp (viewW 0x3D w1)) (issuing 0 0 []) :=
  ⟨issues_all (by decide), issues_of_canIssue (by decide)⟩

theorem witness_FloatResults : ∀ op ∈ ops 0x50 16, Issues (viewR op r1) (shp (viewR op r1)) (issuing 0 0 []) :=
  issues_all (by decide)

theorem witness_BfloatResults : ∀ op ∈ ops 0x60 10, Issues (viewR op r1) (shp (viewR op r1)) (issuing 0 0 []) :=
  issues_all (by decide)

theorem witness_PackedResults : ∀ op ∈ ops 0x70 16, Issues (viewR op r1) (shp (viewR op r1)) (issuing 0 0 []) :=
  issues_all (by decide)

/-- Fields of CSAADD: pairs from x2, x4 and x6. -/
def pairs : RForm := { r1 with dst := 2, sa := 4, sb := 6 }

theorem witness_ConversionResults :
    (∀ op ∈ ops 0x80 6 ++ ops 0x87 3, Issues (viewR op r1) (shp (viewR op r1)) (issuing 0 0 [])) ∧
      (Instr.csaadd pairs).wf = true ∧ Issues (viewR 0x8A pairs) (shp (viewR 0x8A pairs)) (issuing 0 0 []) :=
  ⟨issues_all (by decide), by decide, issues_of_canIssue (by decide)⟩

/-! ### Witnesses: words of the context -/

theorem witness_PredicateAndContextWords :
    ∀ op ∈ ops 0x40 5, Issues (viewR op z1) (shp (viewR op z1)) (issuing 0 0 []) := issues_all (by decide)

theorem witness_TimeAndSleepWords :
    ∀ op ∈ ops 0x45 2, Issues (viewR op r1) (shp (viewR op r1)) (issuing 0 0 []) := issues_all (by decide)

theorem witness_SpecialRegisterReads :
    Issues (viewI 0x47 i1) (shp (viewI 0x47 i1)) (issuing 0 0 []) ∧
      Issues (viewI 0x47 i1) (shp (viewI 0x47 i1)) (issuing 4096 0 []) :=
  ⟨issues_of_canIssue (by decide), issues_of_canIssue (by decide)⟩

theorem witness_SpecialRegisterWrites :
    (∀ n ∈ ([0, 1, 2, 20, 21] : List (BitVec 10)), Issues (viewI 0x48 { i1 with dst := 0, imm := n })
      (shp (viewI 0x48 { i1 with dst := 0, imm := n })) (issuing 0 0 [])) ∧
      Issues (viewR 0x86 z1) (shp (viewR 0x86 z1)) (issuing 0 0 []) :=
  ⟨fun n m => issues_of_canIssue ((by decide : ∀ n ∈ ([0, 1, 2, 20, 21] : List (BitVec 10)),
      canIssue (viewI 0x48 { i1 with dst := 0, imm := n }) (issuing 0 0 []) = true) n m), issues_of_canIssue (by decide)⟩

/-- Tracing is on in element 0, and its trace buffer holds `b`. -/
def tracing (on : Bool) (b : Option (List Word)) : State :=
  (issuing 0 0 []).modProc 0 fun P => { P with trace := { P.trace with en := on, drop := true }, traceBuf := b }

theorem witness_TrapBreakpointAndTraceWords :
    Issues (viewI 0x49 i1) (shp (viewI 0x49 i1)) (issuing 0 0 []) ∧
      Issues (viewR 0x4A z1) (shp (viewR 0x4A z1)) (issuing 0 0 []) ∧
      (Issues (viewR 0x4B z1) (shp (viewR 0x4B z1)) (tracing false none) ∧ ((tracing false none).proc 0).trace.en = false) ∧
      (Issues (viewR 0x4B z1) (shp (viewR 0x4B z1)) (tracing true (some [0])) ∧
        ((tracing true (some [0])).proc 0).trace.en = true ∧ ((tracing true (some [0])).proc 0).traceBuf ≠ none) ∧
      Issues (viewR 0x4B z1) (shp (viewR 0x4B z1)) (tracing true none) ∧ ((tracing true none).proc 0).trace.en = true ∧
        ((tracing true none).proc 0).traceBuf = none :=
  ⟨issues_of_canIssue (by decide), issues_of_canIssue (by decide), ⟨issues_of_canIssue (by decide), by decide⟩,
    ⟨issues_of_canIssue (by decide), by decide, by decide⟩, issues_of_canIssue (by decide), by decide, by decide⟩

/-! ### Witnesses: words of channels, selectors and tasks -/

/-- Element 0 running with the tokens `ts` in its input channel 0 and the permits `ks` held. -/
def withInput (ts : List Token) (ks : List Permit) (xs : List (Nat × Word)) : State :=
  (issuing 0 0 xs).modProc 0 fun P =>
    { P with ins := vset P.ins 0 { InChan.reset with q := ts.map .tok }, hold := ks }

/-- A permit of key `n`. -/
def permitTok (n : Nat) : Token := { kind := .permit, tag := 0, payload := BitVec.ofNat 64 n }

/-- Fields of FWD: output 0, channel 0 with any head. -/
def fwd1 (dq : BitVec 4) : RForm :=
  { r1 with dst := 16, sa := 0, sb := 0, dq := dq, trig := { unguarded with cha := 0, tga := 15 } }

theorem witness_SendingWords :
    ((Instr.fwd (fwd1 8)).wf = true ∧ Issues (viewR 0x90 (fwd1 8)) (shp (viewR 0x90 (fwd1 8))) (withInput [permitTok 5] [] []) ∧
      (withInput [permitTok 5] [] []).headOf 0 0 0 = some (permitTok 5) ∧ (fwd1 8).dq.getLsbD 3 = true) ∧
    (Issues (viewR 0x90 (fwd1 0)) (shp (viewR 0x90 (fwd1 0))) (withInput [dataTok 0 1] [] []) ∧
      (withInput [dataTok 0 1] [] []).headOf 0 0 0 = some (dataTok 0 1)) ∧
    ((Instr.fwd (fwd1 0)).wf = true ∧ Issues (viewR 0x90 (fwd1 0)) (shp (viewR 0x90 (fwd1 0))) (withInput [permitTok 5] [] []) ∧
      (withInput [permitTok 5] [] []).headOf 0 0 0 = some (permitTok 5) ∧ (permitTok 5).kind = .permit ∧
      (fwd1 0).dq.getLsbD 3 = false) ∧
    (let f : RForm := { r1 with dst := 16, sa := 0, sb := 0, mod := 1 }
     (Instr.emit f).wf = true ∧ Issues (viewR 0x91 f) (shp (viewR 0x91 f)) (issuing 0 0 [])) ∧
    (let f : RForm := { r1 with dst := 19, sb := 0 }
     (Instr.ctrlw f).wf = true ∧ Issues (viewR 0x96 f) (shp (viewR 0x96 f)) (issuing 0 0 [])) :=
  ⟨⟨by decide, issues_of_canIssue (by decide), by decide, by decide⟩, ⟨issues_of_canIssue (by decide), by decide⟩,
    ⟨by decide, issues_of_canIssue (by decide), by decide, by decide, by decide⟩,
    ⟨by decide, issues_of_canIssue (by decide)⟩, by decide, issues_of_canIssue (by decide)⟩

/-- Handler 2 of element 0 is bound to context 3 by selector 9, and its lane holds a packet when `full`. -/
def withHandler (full : Bool) (a : Word) : State :=
  (issuing 0 0 [(2, a)]).modProc 0 fun P =>
    { P with sels := P.sels.set Sel.reset 9 { v := true, ctx := 3, handler := 2 }, owners := vset P.owners 2 3
             lanes := vset P.lanes 2 (if full then [{ sel := 9, len2 := false, w0 := 0, w1 := 0, task := 0, taint := 0 }] else []) }

theorem witness_ChannelStateWords :
    (let f : RForm := { r1 with sa := 0, sb := 0, trig := { unguarded with cha := 0, tga := 15 } }
     Issues (viewR 0x93 f) (shp (viewR 0x93 f)) (withInput [dataTok 0 1] [] [])) ∧
    (let f : RForm := { z1 with sa := 0, sb := 3, mod := 7 }
     (Instr.drop f).wf = true ∧ Issues (viewR 0x92 f) (shp (viewR 0x92 f)) (issuing 0 0 [])) ∧
    (let f : RForm := { z1 with sb := 3 }
     (Instr.chcfg f).wf = true ∧ Issues (viewR 0x95 f) (shp (viewR 0x95 f)) (issuing 0 0 [])) ∧
    (let v := viewR 0x97 { r1 with sb := 0 }
     -- refused: selector 10 would bind handler 2, which context 3 owns, to context 1
     (let s := withHandler true 0x920A
      Issues v (shp v) s ∧ (s.env (shp v) v).a.getLsbD 15 = true ∧ (s.env (shp v) v).a.toNat / 2 ^ 8 % 8 = 2 ∧
        (vget (s.proc 0).owners 2).toNat ≠ (s.env (shp v) v).a.toNat / 2 ^ 12 % 4 ∧ vget (s.proc 0).lanes 2 ≠ []) ∧
     -- bound: context 3 already owns handler 2
     (let s := withHandler true 0xB20A
      Issues v (shp v) s ∧ (s.env (shp v) v).a.toNat / 2 ^ 12 % 4 = 3 ∧ (vget (s.proc 0).owners 2).toNat = 3)) :=
  ⟨issues_of_canIssue (by decide), ⟨by decide, issues_of_canIssue (by decide)⟩, ⟨by decide, issues_of_canIssue (by decide)⟩,
    ⟨issues_of_canIssue (by decide), by decide, by decide, by decide, by decide⟩, issues_of_canIssue (by decide), by decide,
    by decide⟩

/-- Region `g` of die 0 holds element 0 and cluster 0 for job 1, in state `st`; element 16 and cluster 1 lie in region 2 of job 2.
The context of element 0 has the registers `xs`. -/
def regions (st : RegState) (xs : List (Nat × Word)) : State :=
  let s := (issuing 0 0 xs).modDie 0 fun D => { D with
    regions := (D.regions.set Region.reset 1 { Region.reset with st := st, job := 1, elems := [0], clusters := [0] }).set
      Region.reset 2 { Region.reset with st := .running, job := 2, elems := [16], clusters := [1] } }
  (s.modProc 0 fun P => { P with region := some 1 }).modProc 16 fun P => { P with region := some 2 }

/-- Element 0 with task 7 open, cancelled or not. -/
def withOpen (cancelled : Bool) (a : Word) : State :=
  (issuing 0 0 [(2, a)]).modProc 0 fun P => { P with openTasks := [{ task := 7, cancelled := cancelled }] }

theorem witness_TaskWords :
    (∀ op ∈ ops 0xA0 2, Issues (viewR op z1) (shp (viewR op z1)) (regions .running [])) ∧
    ((regions .running []).jobOf 0 0 = some 1 ∧ ((regions .running []).regionOf 0).map (·.job) = some 1 ∧
      ((regions .running [(3, 0)]).env (shp (viewR 0xA0 z1)) (viewR 0xA0 z1)).b.toNat % 4096 = 0) ∧
    ((regions .running []).regionOf 16).map (·.job) = some 2 ∧
    (let v := viewR 0xA2 { z1 with sb := 0 }
     Issues v (shp v) (withOpen false 7) ∧ Issues v (shp v) (withOpen true 0x10007) ∧ Issues v (shp v) (withOpen false 8) ∧
      ((withOpen true 0x10007).env (shp v) v).a.toNat % 2 ^ 16 = 7 ∧
      (((withOpen false 8).dequeue 0 0 (shp v) v).proc 0).openTasks.find? (fun o => o.task.toNat == 8) = none) :=
  ⟨issues_all (by decide), by decide, by decide, issues_of_canIssue (by decide), issues_of_canIssue (by decide),
    issues_of_canIssue (by decide), by decide, by decide⟩

/-! ### Witnesses: words of the request port -/

/-- The unit reaches cluster `cl`, as a Bool. -/
def reachesB (s : State) (e : Env) (cl : Nat) : Bool :=
  match s.jobOf e.p e.c with
  | some j => s.jobInCluster j cl
  | none => isCore e.p && decide (cl / 32 = dieOf e.p)

theorem reaches_of {s : State} {e : Env} {cl : Nat} (h : reachesB s e cl = true) : Reaches s e cl := by
  unfold reachesB at h
  unfold Reaches
  cases hj : s.jobOf e.p e.c <;> simpa [hj] using h

theorem short_scratch {s : State} {e : Env} {a : Word} {len : Nat} {acc : Acc}
    (h : aSlot a = 0 ∧ aCheck a = 0 ∧ aOff a < 2 ^ 30 ∧ aOff a % 2 ^ 22 + len ≤ 2 ^ 22 ∧
      reachesB s e (aOff a / 2 ^ 22) = true ∧ (acc = .atomic → aOff a % len = 0) ∧
      (acc ≠ .atomic → aOff a % 2 ^ 22 + len ≤ 0x3FF000)) : ShortAllowed s e a len acc :=
  .inr ⟨h.1, h.2.1, .inl ⟨h.2.2.1, h.2.2.2.1, reaches_of h.2.2.2.2.1, h.2.2.2.2.2.1, h.2.2.2.2.2.2⟩⟩

/-- The operands of the word with fields `v` in `s`. -/
def envOf (v : View) (s : State) : Env := s.env (shp v) v

theorem witness_MemoryWords :
    (∀ op ∈ ops 0xB0 10 ++ ops 0xC0 2, Issues (viewR op q1) (shp (viewR op q1)) (regions .running [(2, 0x100)])) ∧
    -- a load, a store and an atomic in scratchpad, up to the sync page; the atomic in the sync page
    (∀ acc ∈ [Acc.load, .store, .atomic],
      ShortAllowed (regions .running [(2, 0x100)]) (envOf (viewR 0xB0 q1) (regions .running [(2, 0x100)])) 0x100 8 acc) ∧
    ShortAllowed (regions .running []) (envOf (viewR 0xB0 q1) (regions .running [])) 0x3FEFF8 8 .store ∧
    ShortAllowed (regions .running []) (envOf (viewR 0xB0 q1) (regions .running [])) 0x3FF000 8 .atomic ∧
    -- local memory and the control page of a control core, and a handle of a job
    ShortAllowed (issuing 4096 0 []) (envOf (viewR 0xB0 q1) (issuing 4096 0 [])) 0x4003FFF8 8 .load ∧
    ShortAllowed (issuing 4096 0 []) (envOf (viewR 0xB0 q1) (issuing 4096 0 [])) 0x80004FF8 8 .store ∧
    ShortAllowed (forJob []) (envOf (viewR 0xB0 q1) (forJob [])) 0x0005000100000000 8 .load :=
  ⟨issues_all (by decide),
    fun acc _ => short_scratch ⟨by decide, by decide, by decide, by decide, by decide, fun _ => by decide, fun _ => by decide⟩,
    short_scratch (by decide), short_scratch (by decide),
    .inr ⟨by decide, by decide, .inr (.inl (by decide))⟩, .inr ⟨by decide, by decide, .inr (.inr (by decide))⟩,
    .inl ⟨by decide, .inr (by decide)⟩⟩

theorem hasJob_of {e : Env} {s : State} (h : (s.jobOf e.p e.c).isSome = true) : HasJob e s := by
  unfold HasJob
  intro n
  simp [n] at h

/-- Core 0 of die 0 for job 1, with a handle's short address in x2 and 0 in x3. -/
def handleJob : State := forJob [(2, 0x0005000100000000)]

theorem witness_ObjectWords :
    (∀ op ∈ ops 0xD0 11, Issues (viewR op q1) (shp (viewR op q1)) handleJob) ∧
    HasJob (envOf (viewR 0xD1 q1) handleJob) handleJob ∧ aSlot (envOf (viewR 0xD1 q1) handleJob).a ≠ 0 ∧
    -- ALLOC at both ends of its range
    (envOf (viewR 0xD0 q1) (forJob [(2, 1)])).a = 1 ∧ (envOf (viewR 0xD0 q1) (forJob [(2, 1 <<< 48)])).a = 1 <<< 48 ∧
    -- plan.load
    (let e := envOf (viewR 0xD9 q1) handleJob
     e.a.toNat % 32 = 0 ∧ fldN e.b 12 20 = 0 ∧ fldN e.b 8 2 ≠ 3 ∧ ShortAllowed handleJob e e.a 32 .load) ∧
    -- HDROP of slot 0 without a job
    aSlot (envOf (viewR 0xD7 q1) (issuing 4096 0 [])).a = 0 :=
  ⟨issues_all (by decide), hasJob_of (by decide), by decide, by decide, by decide,
    ⟨by decide, by decide, by decide, .inl ⟨by decide, .inr (by decide)⟩⟩, by decide⟩

/-- Element 0 in its region, with `a` in x2 and `b` in x3. -/
def regionAB (a b : Word) : State := regions .running [(2, a), (3, b)]

theorem witness_EngineWords :
    (∀ op ∈ ops 0xC2 3 ++ [0xC9] ++ ops 0xE0 10, Issues (viewR op q1) (shp (viewR op q1)) (regionAB 0 0)) ∧
    -- the first and the last sync word of a reached cluster
    (∀ a ∈ ([0x3FF000, 0x3FFFF8] : List Word), SyncAllowed (envOf (viewR 0xC2 q1) (regionAB a 0)) (regionAB a 0)) ∧
    -- SBIND
    (let e := envOf (viewR 0xE0 q1) (regionAB 0x40 0)
     e.a.toNat < 2 ^ 30 ∧ e.a.toNat % 64 = 0 ∧ ShortAllowed (regionAB 0x40 0) e e.a 64 .load) ∧
    -- MXBIND in its three forms
    (let e := envOf (viewR 0xE2 q1) (regionAB 0 0x40)
     EngineAllowed e (regionAB 0 0x40) ∧ e.b.toNat < 2 ^ 30 ∧ e.b.toNat % 64 = 0 ∧
       ShortAllowed (regionAB 0 0x40) e e.b 64 .load ∧ e.b.toNat % 32 = 0 ∧ ShortAllowed (regionAB 0 0x40) e e.b 32 .load) ∧
    -- GLOAD
    (let s := regionAB 0x80000 0x0005000100000000
     let e := envOf (viewR 0xE5 q1) s
     GroupAllowed e s ∧ aSlot e.b ≠ 0 ∧ e.b.toNat % 8 = 0 ∧ ShortAllowed s e e.b 8 .load) ∧
    -- GBIND
    (let e := envOf (viewR 0xE6 q1) (regionAB 0x80000 0)
     GroupAllowed e (regionAB 0x80000 0) ∧ fldN e.b 8 24 = 0 ∧ fldN e.b 0 2 = 0 ∧ fldN e.b 4 2 ≠ 3) := by
  refine ⟨issues_all (by decide), ?_, ⟨by decide, by decide, short_scratch (by decide)⟩,
    ⟨⟨by decide, reaches_of (by decide)⟩, by decide, by decide, short_scratch (by decide), by decide, short_scratch (by decide)⟩,
    ⟨⟨by decide, by decide, by decide, by decide, reaches_of (by decide)⟩, by decide, by decide, .inl ⟨by decide, .inl (by decide)⟩⟩,
    ⟨by decide, by decide, by decide, by decide, reaches_of (by decide)⟩, by decide, by decide, by decide⟩
  intro a m
  simp only [List.mem_cons, List.not_mem_nil, or_false] at m
  rcases m with rfl | rfl <;> exact ⟨by decide, by decide, by decide, reaches_of (by decide)⟩

/-- Element 0 in its region, whose graph counter is open and whose job has the keys 8-15, with `a` in x2 and `b` in x3. -/
def graphAB (a b : Word) : State :=
  ((regionAB a b).setCounter 0 (cKey 2 0 1) { Counter.reset with st := 0, count := 1, job := 1 }).setCtlReg 0 5 0x80008

theorem witness_WorkWords :
    (∀ op ∈ ops 0xA3 5 ++ [0xEA], Issues (viewR op q1) (shp (viewR op q1)) (graphAB 0 1)) ∧
    -- TSUBMIT of 1 and of 256 descriptors, LAUNCH of 65,535 instances
    (∀ n ∈ ([1, 256] : List Word), SubmitAllowed 256 (envOf (viewR 0xA3 q1) (graphAB 0 n)) (graphAB 0 n) ∧
      ShortAllowed (graphAB 0 n) (envOf (viewR 0xA3 q1) (graphAB 0 n)) (envOf (viewR 0xA3 q1) (graphAB 0 n)).a
        (64 * fldN (envOf (viewR 0xA3 q1) (graphAB 0 n)).b 0 16) .load) ∧
    SubmitAllowed 65535 (envOf (viewR 0xA4 q1) (graphAB 0 65535)) (graphAB 0 65535) ∧
    ShortAllowed (graphAB 0 1) (envOf (viewR 0xA4 q1) (graphAB 0 1)) (envOf (viewR 0xA4 q1) (graphAB 0 1)).a 64 .load ∧
    -- CANCEL and WCOUNT
    WorkIdOk (envOf (viewR 0xA5 q1) (graphAB 0 0)) (graphAB 0 0) ∧
    -- KLEND of the first and the last key of the job
    (∀ k ∈ ([8, 15] : List Word), KeyAllowed (envOf (viewR 0xA7 q1) (graphAB k 0)) (graphAB k 0)) ∧
    LendAllowed (envOf (viewR 0xA7 q1) (graphAB 8 0)) (graphAB 8 0) ∧
    -- collectives
    HasJob (envOf (viewR 0xEA q1) (graphAB 0 0)) (graphAB 0 0) ∧ fldN (envOf (viewR 0xEA q1) (graphAB 0 0)).a 24 40 = 0 ∧
    fldN (envOf (viewR 0xEA q1) (graphAB 0 0)).a 4 12 = 0 := by
  refine ⟨issues_all (by decide), ?_, ⟨1, by decide, by decide⟩, short_scratch (by decide), by unfold WorkIdOk; decide, ?_, ?_,
    hasJob_of (by decide), by decide, by decide⟩
  · intro n m
    simp only [List.mem_cons, List.not_mem_nil, or_false] at m
    rcases m with rfl | rfl <;> exact ⟨⟨1, by decide, by decide⟩, short_scratch (by decide)⟩
  · intro n m
    simp only [List.mem_cons, List.not_mem_nil, or_false] at m
    rcases m with rfl | rfl <;> exact ⟨1, by decide, by decide, by decide⟩
  · exact ⟨by decide, by decide, by decide, by decide, _, rfl, by decide⟩

/-- The permit of key 5. -/
def permit5 : Permit := { key := 5, taint := true }

theorem witness_PermitWords :
    (let f : RForm := { r1 with dst := 16, sb := 0 }
     let v := viewR 0x94 f
     (Instr.pgive f).wf = true ∧
     (Issues v (shp v) (withInput [] [permit5] [(2, 5)]) ∧ (envOf v (withInput [] [permit5] [(2, 5)])).a.toNat < 4096 ∧
       (holdAfter (withInput [] [permit5] [(2, 5)]) (envOf v (withInput [] [permit5] [(2, 5)]))).find?
         (fun k => k.key.toNat == 5) = some permit5) ∧
     (Issues v (shp v) (withInput [] [] [(2, 4096)]) ∧ 4096 ≤ (envOf v (withInput [] [] [(2, 4096)])).a.toNat) ∧
     (Issues v (shp v) (withInput [] [] [(2, 4095)]) ∧ (envOf v (withInput [] [] [(2, 4095)])).a.toNat < 4096 ∧
       (holdAfter (withInput [] [] [(2, 4095)]) (envOf v (withInput [] [] [(2, 4095)]))).find?
         (fun k => k.key.toNat == 4095) = none)) ∧
    (let v := viewR 0xA7 { q1 with sb := 0, mod := 2 }
     let with5 (ks : List Permit) (a : Word) : State := (regionAB a 0).modProc 0 fun P => { P with hold := ks }
     (Issues v (shp v) (with5 [permit5] 5) ∧ HasJob (envOf v (with5 [permit5] 5)) (with5 [permit5] 5) ∧
       (holdAfter (with5 [permit5] 5) (envOf v (with5 [permit5] 5))).find? (fun k => k.key.toNat == 5) = some permit5) ∧
     (Issues v (shp v) (with5 [] 5) ∧ HasJob (envOf v (with5 [] 5)) (with5 [] 5) ∧
       (holdAfter (with5 [] 5) (envOf v (with5 [] 5))).find? (fun k => k.key.toNat == 5) = none) ∧
     Issues v (shp v) (with5 [] 4096) ∧ 4096 ≤ (envOf v (with5 [] 4096)).a.toNat) :=
  ⟨⟨by decide, ⟨issues_of_canIssue (by decide), by decide, by decide⟩, ⟨issues_of_canIssue (by decide), by decide⟩,
      issues_of_canIssue (by decide), by decide, by decide⟩,
    ⟨issues_of_canIssue (by decide), hasJob_of (by decide), by decide⟩,
    ⟨issues_of_canIssue (by decide), hasJob_of (by decide), by decide⟩, issues_of_canIssue (by decide), by decide⟩

theorem witness_ControlWords :
    (∀ op ∈ ops 0xF5 10, Issues (viewR op q1) (shp (viewR op q1)) handleJob) ∧
    aSlot (envOf (viewR 0xF5 q1) handleJob).a ≠ 0 ∧ (envOf (viewR 0xF5 q1) handleJob).a.toNat % 64 = 0 ∧
    ImageOperandOk (envOf (viewR 0xF5 q1) handleJob).b ∧ HasJob (envOf (viewR 0xFD q1) handleJob) handleJob ∧
    Issues (viewR 0xF5 q1) (shp (viewR 0xF5 q1)) (issuing 4096 0 []) :=
  ⟨issues_all (by decide), by decide, by decide, by unfold ImageOperandOk; decide, hasJob_of (by decide),
    issues_of_canIssue (by decide)⟩

theorem not_reaches {s : State} {e : Env} {cl : Nat} (h : reachesB s e cl = false) : ¬ Reaches s e cl := by
  unfold reachesB at h
  unfold Reaches
  cases hj : s.jobOf e.p e.c <;> simpa [hj] using h

/-- Element 0 about to access eight bytes at `a`. -/
def storing (a : Word) : State := regionAB a 0
/-- An access of eight bytes. -/
def st8 : RForm := { q1 with mod := 3 }

/-- The instruction of opcode `op` with MOD 3 issues in `s`, its address in slot 0 with CHECK `c` and offset `off`. -/
def accesses (op : BitVec 8) (s : State) (c off : Nat) : Prop :=
  Issues (viewR op st8) (shp (viewR op st8)) s ∧ aSlot (envOf (viewR op st8) s).a = 0 ∧
    aCheck (envOf (viewR op st8) s).a = c ∧ aOff (envOf (viewR op st8) s).a = off

theorem accesses_all {ls : List (BitVec 8)} {s : State} {c off : Nat}
    (h : ls.all (fun op => canIssue (viewR op st8) s && decide (aSlot (envOf (viewR op st8) s).a = 0 ∧
      aCheck (envOf (viewR op st8) s).a = c ∧ aOff (envOf (viewR op st8) s).a = off)) = true) :
    ∀ op ∈ ls, accesses op s c off := by
  intro op m
  have := List.all_eq_true.mp h op m
  rw [Bool.and_eq_true] at this
  exact ⟨issues_of_canIssue this.1, of_decide_eq_true this.2⟩

/-- The opcodes that access memory by a short address. -/
def accessOps : List (BitVec 8) := ops 0xB0 5 ++ ops 0xC0 2

theorem witness_AddressFaults :
    -- CHECK is not 0
    (∀ op ∈ accessOps, accesses op (storing 0x100000000) 1 0) ∧
    -- eight bytes past a cluster
    (∀ op ∈ accessOps, accesses op (storing 0x3FFFF9) 0 0x3FFFF9) ∧ 2 ^ 22 < 0x3FFFF9 % 2 ^ 22 + 8 ∧
    -- cluster 1, which the job of element 0 does not hold
    (∀ op ∈ accessOps, accesses op (storing 0x400000) 0 0x400000 ∧
      ¬ Reaches (storing 0x400000) (envOf (viewR op st8) (storing 0x400000)) 1) ∧
    -- the first byte of the sync page, which cluster 0 reaches
    (∀ op ∈ accessOps, accesses op (storing 0x3FEFF9) 0 0x3FEFF9 ∧
      Reaches (storing 0x3FEFF9) (envOf (viewR op st8) (storing 0x3FEFF9)) 0) ∧
    0x3FF000 < 0x3FEFF9 % 2 ^ 22 + 8 ∧ 0x3FEFF9 % 2 ^ 22 + 8 ≤ 2 ^ 22 ∧ 0x3FEFF9 % 8 ≠ 0 ∧ 0x3FEFF9 % atomLen 3 ≠ 0 ∧
    -- the first offset past scratchpad, in an element
    (∀ op ∈ accessOps, accesses op (storing 0x40000000) 0 0x40000000 ∧
      isCore (envOf (viewR op st8) (storing 0x40000000)).p = false) ∧
    -- the windows of a core: the last, local memory and the control page, each at its edges
    (∀ a ∈ ([0xC0000000, 0x4003FFF9, 0x40040000, 0x80000004, 0x80010000, 0x80005000] : List Word), ∀ op ∈ accessOps,
      accesses op (issuing 4096 0 [(2, a)]) 0 a.toNat ∧
        isCore (envOf (viewR op st8) (issuing 4096 0 [(2, a)])).p = true) ∧
    (0xC0000000 / 2 ^ 30 = 3 ∧ 0x4003FFF9 / 2 ^ 30 = 1 ∧ 2 ^ 18 < 0x4003FFF9 % 2 ^ 18 + 8 ∧ 0x40040000 / 2 ^ 18 % 2 ^ 12 ≠ 0 ∧
      0x80000004 / 2 ^ 30 = 2 ∧ 0x80000004 % 8 ≠ 0 ∧ 0x80010000 / 2 ^ 16 % 2 ^ 14 ≠ 0 ∧ 2559 < 0x80005000 % 2 ^ 16 / 8) := by
  refine ⟨accesses_all (by decide), accesses_all (by decide), by decide,
    fun op m => ⟨accesses_all (ls := accessOps) (by decide) op m, ?_⟩,
    fun op m => ⟨accesses_all (ls := accessOps) (by decide) op m, ?_⟩, by decide, by decide, by decide, by decide,
    fun op m => ⟨accesses_all (ls := accessOps) (by decide) op m, ?_⟩, ?_, by decide⟩
  · exact (by decide : ∀ op ∈ accessOps, reachesB (storing 0x400000) (envOf (viewR op st8) (storing 0x400000)) 1 = false) op m
      |> not_reaches
  · exact (by decide : ∀ op ∈ accessOps, reachesB (storing 0x3FEFF9) (envOf (viewR op st8) (storing 0x3FEFF9)) 0 = true) op m
      |> reaches_of
  · exact (by decide : ∀ op ∈ accessOps, isCore (envOf (viewR op st8) (storing 0x40000000)).p = false) op m
  · intro a ma op m
    simp only [List.mem_cons, List.not_mem_nil, or_false] at ma
    rcases ma with rfl | rfl | rfl | rfl | rfl | rfl <;>
      exact ⟨accesses_all (ls := accessOps) (by decide) op m, rfl⟩

/-! ### Witnesses: tags, branches and pops -/

theorem witness_TagWords :
    (∀ op ∈ ops 0xC5 4, Issues (viewR op { r1 with sb := 0 }) (shp (viewR op { r1 with sb := 0 })) (issuing 0 0 [])) ∧
    -- the four answers of TSET: for frame 1,023, for a frame outside the set, for a key held elsewhere, and written
    tsetCode Cluster.reset 0 1023 = 3 ∧ tsetCode Cluster.reset 0 8 = 1 ∧
    tsetCode { Cluster.reset with tags := Cluster.reset.tags.set none 1 (some 0) } 0 7 = 2 ∧ tsetCode Cluster.reset 0 7 = 0 :=
  ⟨issues_all (by decide), by decide, by decide, by decide, by decide⟩

/-- Core 0 at `pc`, with `a` in x2. -/
def atPc (pc : BitVec 19) (a : Word) : State := (issuing 4096 0 [(2, a)]).modCtx 4096 0 fun C => { C with pc := pc }

theorem witness_BranchWords :
    isCore (atPc 0 0).cur.proc = true ∧
    -- targets at both ends of local memory, and one word past each
    (∀ op ∈ ops 0xF0 2, Issues (viewB op { b1 with disp := 0x7FFF }) (shp (viewB op { b1 with disp := 0x7FFF })) (atPc 0 0)) ∧
    (0 : Int) + 8 * ({ b1 with disp := 0x7FFF } : BForm).disp.toInt = 0x3FFF8 ∧
    (∀ op ∈ ops 0xF0 2, Issues (viewB op { b1 with disp := 0x8000 }) (shp (viewB op { b1 with disp := 0x8000 })) (atPc 0 0)) ∧
    (0 : Int) + 8 * ({ b1 with disp := 0x8000 } : BForm).disp.toInt = 0x40000 ∧
    (0 : Int) + 8 * ({ b1 with disp := BitVec.ofInt _ (-1) } : BForm).disp.toInt < 0 ∧
    -- BX to the last word, past it, and between two words
    (∀ a ∈ ([0x3FFF8, 0x40000, 4] : List Word),
      Issues (viewR 0xF2 { z1 with sb := 0 }) (shp (viewR 0xF2 { z1 with sb := 0 })) (atPc 0 a) ∧
        (envOf (viewR 0xF2 { z1 with sb := 0 }) (atPc 0 a)).a = a) := by
  refine ⟨by decide, issues_all (by decide), by decide, issues_all (by decide), by decide, by decide, ?_⟩
  intro a m
  simp only [List.mem_cons, List.not_mem_nil, or_false] at m
  rcases m with rfl | rfl | rfl <;> exact ⟨issues_of_canIssue (by decide), by decide⟩

theorem witness_PopWords :
    isCore (issuing 4096 0 []).cur.proc = true ∧
      Issues (viewR 0xF3 { r1 with dst := 4, sa := 0, sb := 0 }) (shp (viewR 0xF3 { r1 with dst := 4, sa := 0, sb := 0 }))
        (issuing 4096 0 []) ∧
      Issues (viewR 0xF4 { r1 with dst := 8, sa := 0, sb := 0 }) (shp (viewR 0xF4 { r1 with dst := 8, sa := 0, sb := 0 }))
        (issuing 4096 0 []) :=
  ⟨by decide, issues_of_canIssue (by decide), issues_of_canIssue (by decide)⟩

/-! ### Witnesses: events of a unit -/

/-- An outstanding result of one value. -/
def due10 (dst : BitVec 5) : Outst :=
  { due := 10, dst := dst, vals := [7], tag := 0, pv := true, pact := 0, pidx := 0, cond := true, flags := 0, canFlag := false,
    resv := 3 }

/-- The reset state at cycle `n` with element 0 changed by `f`. -/
def element0 (n : Nat) (f : Proc → Proc) : State := { State.reset.modProc 0 f with cycle := n }

/-- Context 0 of element 0 with a result for `dst` outstanding, at cycle 10; output channel 0 has its entry reserved. -/
def outstanding (dst : BitVec 5) : State :=
  element0 10 fun P => { P.setCtx 0 { P.ctx 0 with outst := [due10 dst] } with outs := vset P.outs 0 [.resv 3] }

theorem witness_ResultDelivery : ∀ dst ∈ ([0, 15, 16, 24, 31] : List (BitVec 5)),
    ((outstanding dst).ctx 0 0).outst[0]? = some (due10 dst) ∧ (due10 dst).due ≤ (outstanding dst).unitCycle 0 := by decide

theorem elementOpen_of {s : State} {e : Nat} (h : s.regionOf e = none) : ElementOpen s e := by
  unfold ElementOpen
  rw [h]
  exact trivial

/-- Input channel 0 of element 0 holds `n` data tokens, the last an end marker when `e`; `k` is on its link. -/
def arriving (n : Nat) (e : Bool) (conf : BitVec 19) (drank : BitVec 3) (k : Option Token) : State :=
  let c : InChan := { q := List.replicate n (.tok (dataTok 0 1)) ++ (if e then [.tok (endTok 2)] else []), link := k
                      linkSrc := none, conf := conf, drank := drank }
  element0 0 fun P => { P with ins := vset P.ins 0 c }

/-- Steering as a Bool. -/
theorem steered_iff (c : InChan) (k : Token) :
    Steered c k ↔ (k.kind == .data && c.conf.getLsbD 9 && !c.conf.getLsbD k.tag.toNat) = true := by
  unfold Steered
  simp [and_assoc]

theorem witness_TokenArrivalAndDiscard :
    (∀ c : InChan, c.conf = 0xFF → ¬ Steered c (dataTok 0 1)) ∧
    -- a token enters behind three, and an end marker merges into a full channel
    ((vget ((arriving 3 false 0xFF 0 (some (dataTok 0 1))).proc 0).ins 0).link = some (dataTok 0 1) ∧
      (dataTok 0 1).isCut = false ∧ ElementOpen (arriving 3 false 0xFF 0 (some (dataTok 0 1))) 0 ∧
      (vget ((arriving 3 false 0xFF 0 (some (dataTok 0 1))).proc 0).ins 0).q.length < 4) ∧
    (mergeable (vget ((arriving 3 true 0xFF 0 (some (endTok 1))).proc 0).ins 0).q (endTok 1) = true ∧
      (endTok 1).isCut = false) ∧
    -- a token finds four and stays
    (4 ≤ (vget ((arriving 4 false 0xFF 0 (some (dataTok 0 1))).proc 0).ins 0).q.length ∧
      mergeable (vget ((arriving 4 false 0xFF 0 (some (dataTok 0 1))).proc 0).ins 0).q (dataTok 0 1) = false) ∧
    -- steered, with room and without, in the channel and at the converter
    (Steered (vget ((arriving 3 false 0x200 0 (some (dataTok 0 1))).proc 0).ins 0) (dataTok 0 1) ∧
      Steered (vget ((arriving 4 false 0x200 0 (some (dataTok 0 1))).proc 0).ins 0) (dataTok 0 1)) ∧
    ((steerInput State.reset 0 { InChan.reset with conf := 0x200 }).length < 4 ∧
      4 ≤ (steerInput (State.reset.modCluster 0 fun C => { C with cvt := [(0, { Cvt.reset with
        steerQ := List.replicate 4 { tok := dataTok 0 1, port := .elem 0 0, id := 0, cbslot := 0 } })] }) 0
          { InChan.reset with conf := 0x200 }).length) ∧
    -- discard mode of rank 2: data and rank 1 go, rank 2 ends it, a permit stays
    (∀ k ∈ [dataTok 0 1, endTok 1, endTok 2, permitTok 3],
      let s : State := element0 0 fun P => { P with ins := vset P.ins 0 { InChan.reset with q := [.tok k], drank := 2 } }
      (vget (s.proc 0).ins 0).drank ≠ 0 ∧ frontOf (vget (s.proc 0).ins 0).q = some k ∧ s.regionOf 0 = none) ∧
    ((dataTok 0 1).kind = .data ∧ (endTok 1).isEnd = true ∧ markRank (endTok 1).payload = 1 ∧ markRank (endTok 2).payload = 2 ∧
      (permitTok 3).kind ≠ .data ∧ (permitTok 3).isEnd = false) := by
  refine ⟨?_, ⟨by decide, by decide, elementOpen_of (by decide), by decide⟩, by decide, by decide, ⟨?_, ?_⟩, by decide, by decide,
    by decide⟩
  · intro c h
    rw [steered_iff, h]
    decide
  · rw [steered_iff]
    decide
  · rw [steered_iff]
    decide

/-- A packet for element 0, selector 9. -/
def packet9 : NetPkt :=
  { src := 1, dst := 0, job := 1, pkt := { sel := 9, len2 := false, w0 := 0, w1 := 0, task := 0xFFFF, taint := 0 } }

/-- The same from element 0 itself. -/
def packet9' : NetPkt := { packet9 with src := 0 }

/-- Element 0, whose selector 9 is bound to handler 2 when `bound`, with `n` packets in that lane; one packet is in the network. -/
def lanes (bound : Bool) (n : Nat) (run : Bool) (head : Option (Fin 8)) : State :=
  (element0 0 fun P => { (if run then P.setCtx 3 { P.ctx 3 with rstate := .run } else P) with
    sels := if bound then P.sels.set Sel.reset 9 { v := true, ctx := 3, handler := 2 } else P.sels
    owners := vset P.owners 2 3, lanes := vset P.lanes 2 (List.replicate n packet9.pkt), head := head
    taskOut := [packet9'] }).modDie 0 fun D => { D with net := [packet9] }

theorem witness_TaskLaneEvents :
    (∀ n ∈ [0, 3], ((lanes true n true none).die 0).net[0]? = some packet9 ∧ (lanes true n true none).regionOf 0 = none ∧
      ((((lanes true n true none).proc 0).sels.get Sel.reset 9).v = true ∧
        (vget ((lanes true n true none).proc 0).lanes 2).length < 4)) ∧
    4 ≤ (vget ((lanes true 4 true none).proc 0).lanes 2).length ∧
    (((lanes false 0 true none).proc 0).sels.get Sel.reset 9).v = false ∧
    (((lanes true 1 true none).proc 0).head = none ∧ FirstReady ((lanes true 1 true none).proc 0) 2) ∧
    (((lanes true 1 false (some 2)).proc 0).head = some 2 ∧
      (((lanes true 1 false (some 2)).proc 0).ctx (vget ((lanes true 1 false (some 2)).proc 0).owners 2).toNat).rstate ≠ .run) ∧
    (∀ n ∈ [0, 3], ((lanes true n true none).proc 0).taskOut = [packet9'] ∧
      (∀ m ∈ ((lanes true n true none).die 0).net, m.src = packet9'.src → m.dst ≠ packet9'.dst) ∧
      fldN ((lanes true n true none).ctlReg 0 1072) 0 16 = 0) ∧
    ((lanes true 4 true none).proc 0).taskOut = [packet9'] :=
  ⟨by decide, by decide, by decide, ⟨by decide, ⟨by decide, by decide, 2, by decide⟩⟩, by decide, by decide, by decide⟩

/-- Core 0 of die 0 has `n` event records queued, and the mailbox of die 0 `m`; records wait for both. -/
def queued (n m : Nat) : State :=
  ((element0 0 fun P => { P with traceBuf := some [1, 2, 3, 4], elHeld := [5], el := [1, 2, 3] }).modProc 4096 fun P =>
    { P with evq := List.replicate n [0] }).modDie 0 fun D =>
      { D with evPend := [{ core := 0, words := [1] }], faultPend := [[1, 2]], mailbox := List.replicate m [0] }

theorem full_queue : List.replicate 1024 [0] = ((queued 1024 0).proc 4096).evq := rfl

theorem witness_QueueEvents :
    (let s := element0 0 fun P => P.setCtx 0 { P.ctx 0 with rstate := .sleep, deadline := 9 }
     (s.ctx 0 0).rstate = .sleep ∧ ElementOpen s 0 ∧ (s.proc 0).badRegs.contains (16 * 0 + sprSite 3) = false) ∧
    (((queued 3 0).proc 0).traceBuf = some [1, 2, 3, 4] ∧ ((queued 3 0).proc 4096).evq.length < 1024 ∧
      ((queued 3 0).die 0).evPend[0]? = some { core := 0, words := [1] }) ∧
    1024 ≤ ((queued 1024 0).proc 4096).evq.length ∧
    (((queued 0 255).die 0).faultPend = [[1, 2]] ∧ ((queued 0 255).die 0).mailbox.length < 256) ∧
    256 ≤ ((queued 0 256).die 0).mailbox.length ∧
    (((queued 0 0).proc 0).elHeld = [5] ∧ ElementOpen (queued 0 0) 0 ∧ ((queued 0 0).proc 0).el.length < 4) :=
  ⟨⟨by decide, elementOpen_of (by decide), by decide⟩, by decide, full_queue ▸ by simp, by decide,
    by decide, by decide, elementOpen_of (by decide), by decide⟩

theorem witness_IssueFaults :
    (check false (issuing 0 0x00003873018FFF10 []).cur.word ≠ 0 ∧ (issuing 0 0x00003873018FFF10 []).slotBad = false) ∧
    (((issuing 0 0x00003873018FFF10 []).modProc 0 fun P => { P with slots := [(0, { Slot.reset with bad := true })] }).slotBad = true) ∧
    check true (issuing 4096 0x00003873018FFF10 []).cur.word ≠ 0 ∧ isCore (issuing 4096 0x00003873018FFF10 []).cur.proc = true ∧
    ((atPc 0x40000 0).ctx 4096 0).pc.toNat = 0x40000 ∧ ((atPc 0x3FFF8 0).ctx 4096 0).pc.toNat ≤ 0x3FFF8 := by decide

/-! ### Witnesses: control-page registers -/

theorem witness_ErrorEvents : (0 < 4096 ∧ 4095 < 4096) ∧ 4127 < 4128 ∧ 5 ∉ pathOf 0 := by decide

/-- A request of kind `kind` with the operands `a` and `b`, of context 0. -/
def reqOf (kind : ReqKind) (a b : Word) (mode : Nat := 3) (job : Option Nat := none) : Req :=
  { rid := 1, ctx := 0, slot := 0, word := 0, kind := kind, a := a, a2 := 0, b := b, b2 := 0, mode := mode, job := job, resp := 1
    code := 0, wide := 0, stage := 0, resent := false, flying := false, data := [], miss := none }

/-- A store of `b` to register `n` of the control page. -/
def regStore (n : Nat) (b : Word) : Req := reqOf .st (BitVec.ofNat 64 (0x80000000 + 8 * n)) b

/-- Core 0 of die 0 with the request `r` in its port. -/
def asking (s : State) (r : Req) : State := s.modProc 4096 fun P => { P with reqs := [r] }

/-- A store to register `n` is about to be performed. -/
def storing1 (s : State) (n : Nat) (b : Word) : Prop := StoresTo (asking s (regStore n b)) 4096 0 (regStore n b) n

/-- Registers of die 0 after reset but for `n`. -/
def withReg (n : Nat) (w : Word) : State := State.reset.setCtlReg 0 n w

theorem witness_JobRegisters :
    -- JCTL of job 255: created, written again, and cleared while the job holds a region
    (storing1 State.reset 1020 1 ∧ State.reset.minimal = false ∧ (State.reset.ctlReg 0 1020).getLsbD 0 = false) ∧
    (storing1 (withReg 1020 1) 1020 3 ∧ ((withReg 1020 1).ctlReg 0 1020).getLsbD 0 = true) ∧
    (let s := (withReg 4 1).modDie 0 fun D => { D with regions := [(3, { Region.reset with st := .loaded, job := 1 })] }
     storing1 s 4 0 ∧ (s.ctlReg 0 4).getLsbD 0 = true ∧ s.jobHolds 0 1 = true) ∧
    -- JKEYS past the last key, over another job's keys, over a key in use, and up to the last key
    (storing1 State.reset 5 0x10010FFF0 ∧ storing1 State.reset 1 0x100FF0 ∧ fldN (0x110FF0 : Word) 0 12 + fldN (0x110FF0 : Word) 16 13 = 4097) ∧
    (let s := (withReg 0 1).setCtlReg 0 1 0x80008
     storing1 s 5 0x10008 ∧ (s.ctlReg 0 0).getLsbD 0 = true ∧ rangesMeet 0x10008 (s.ctlReg 0 1) = true) ∧
    (fldN (0x100FF0 : Word) 0 12 + fldN (0x100FF0 : Word) 16 13 = 4096 ∧
      ∀ i, i < 256 → (State.reset.ctlReg 0 (4 * i)).getLsbD 0 = false) ∧
    (let s := (withReg 5 0x10008).modDie 0 fun D => { D with keys := [(8, { Key.reset with st := .held })] }
     storing1 s 5 0 ∧ ∃ x ∈ (s.die 0).keys, x.2.st ≠ .free ∧ s.keyInRange 0 1 x.1 = true) ∧
    -- JTRUST with and without SECURE mode, and JQUOTA
    (storing1 State.reset 7 1 ∧ State.reset.secureMode = false ∧ fldN (1 : Word) 0 16 ≠ 0) ∧
    (storing1 (State.reset.setPkgReg 1080 1) 7 0xFFFF ∧ (State.reset.setPkgReg 1080 1).secureMode = true) ∧
    storing1 State.reset 6 5 := by
  refine ⟨⟨?_, by decide, by decide⟩, ⟨?_, by decide⟩, ⟨?_, by decide, by decide⟩, ⟨?_, ?_, by decide⟩, ⟨?_, by decide, by decide⟩,
    by decide, ⟨?_, by decide⟩, ⟨?_, by decide, by decide⟩, ⟨?_, by decide⟩, ?_⟩ <;>
    (show StoresTo _ _ _ _ _; unfold StoresTo; decide)

theorem witness_IslandAndModeRegisters :
    -- an island of another point, and the same with a change in progress
    (let s := State.reset.setPkgReg 1080 0
     storing1 s 1055 4 ∧ s.reduced = false ∧ s.throttleLevel = 0 ∧ fldN (s.ctlReg 0 1055) 0 3 ≠ 4) ∧
    (let s := State.reset.modDie 0 fun D => { D with islandBusy := [31] }
     31 % 32 ∈ (s.die (31 / 32)).islandBusy) ∧
    -- the first and the last throttle, and MODE with and without a job
    (storing1 State.reset 1056 0 ∧ storing1 State.reset 1072 0) ∧
    (storing1 State.reset 1080 0x37 ∧ (regStore 1080 0x37).stage = 0 ∧
      ∀ d, d < 8 → ∀ j, j < 256 → (State.reset.ctlReg d (4 * j)).getLsbD 0 = false) ∧
    (storing1 (withReg 1020 1) 1080 7 ∧ ((withReg 1020 1).ctlReg 0 (4 * 255)).getLsbD 0 = true) ∧
    (State.reset.thermal = none ∧ State.reset.minimal = false) := by
  refine ⟨⟨?_, by decide, by decide, by decide⟩, by decide, ⟨?_, ?_⟩, ⟨?_, by decide, ?_⟩, ⟨?_, by decide⟩, by decide⟩
  · show StoresTo _ _ _ _ _; unfold StoresTo; decide
  · show StoresTo _ _ _ _ _; unfold StoresTo; decide
  · show StoresTo _ _ _ _ _; unfold StoresTo; decide
  · show StoresTo _ _ _ _ _; unfold StoresTo; decide
  · intro d _ j hj
    show (ctlReset (4 * j)).getLsbD 0 = false
    have : ∀ j : Fin 256, (ctlReset (4 * j.val)).getLsbD 0 = false := by decide
    exact this ⟨j, hj⟩
  · show StoresTo _ _ _ _ _; unfold StoresTo; decide

/-! ### Witnesses: upkeep, time, links, start and heat -/

theorem witness_UpkeepEvents :
    -- a counter block to write back: its parents sound or cached, and its parent bad
    (let s := State.reset.modDie 0 fun D => { D with dirtyBlk := [5] }
     5 ∈ (s.die 0).dirtyBlk ∧ (s.die 0).cached.length + 7 ≤ cacheBlocks ∧
       ∀ b ∈ (blocksAbove 5).takeWhile (fun b => !(s.die 0).cached.contains b), b ∉ (s.die 0).badBlk) ∧
    (let s := State.reset.modDie 0 fun D => { D with dirtyBlk := [5], badBlk := [2 ^ 32] }
     2 ^ 32 ∈ (blocksAbove 5).takeWhile (fun b => !(s.die 0).cached.contains b) ∧ 2 ^ 32 ∈ (s.die 0).badBlk) ∧
    (State.reset.setCtlReg 0 1088 0).ctlReg 0 1088 = 0 ∧
    -- the last read but one and the last of a pass, 256 cycles after the read before, and before that
    (let s := { (State.reset.setCtlReg 0 1088 1).setCtlReg 0 1089 (1342177278 <<< 32 ||| put 2 16) with cycle := 256 }
     (s.ctlReg 0 1088).getLsbD 0 = true ∧ (s.die 0).scrubW = none ∧ s.scrubMay 0 = true ∧
       fldN (s.ctlReg 0 1089) 32 32 + 1 = 1342177279) ∧
    (let s := { (State.reset.setCtlReg 0 1088 1).setCtlReg 0 1089 (1342177279 <<< 32 ||| put 2 16) with cycle := 256 }
     (s.ctlReg 0 1088).getLsbD 0 = true ∧ (s.die 0).scrubW = none ∧ s.scrubMay 0 = true ∧
       fldN (s.ctlReg 0 1089) 32 32 + 1 = 1342177280) ∧
    (let s := { (State.reset.setCtlReg 0 1088 1).setCtlReg 0 1089 (put 2 16) with cycle := 255 }
     (s.ctlReg 0 1088).getLsbD 0 = true ∧ (s.die 0).scrubW = none ∧ s.scrubMay 0 = false) ∧
    -- a write due, at once and while its block is re-encrypted; a sound line, a sound counter block and one that does not verify
    (let s := (State.reset.setCtlReg 0 1088 1).modDie 0 fun D => { D with scrubW := some 7 }
     (s.ctlReg 0 1088).getLsbD 0 = true ∧ (s.die 0).scrubW = some 7 ∧ 7 / 64 ∉ (s.die 0).wrapped ∧ (s.die 0).badPath 7 = none) ∧
    (let s := (State.reset.setCtlReg 0 1088 1).modDie 0 fun D => { D with scrubW := some 7, wrapped := [0] }
     7 < 1287314 * 1024 ∧ 7 / 64 ∈ (s.die 0).wrapped) ∧
    (lineBlock 7 = none ∧ lineBlock (1287314 * 1024) = some 0 ∧
      0 ∈ ((State.reset.modDie 0 fun D => { D with badBlk := [0] }).die 0).badBlk) := by decide

theorem witness_TimeEvents :
    (State.reset.setPkgReg 1091 2).lock ≠ 0 ∧ (-1000 < (-999 : Int)) ∧ ((-1000 : Int) ≤ -1000) ∧
      State.reset.lock = 0 ∧ (State.reset.setPkgReg 1091 1).lock = 1 := by decide

/-- A packet of type `ty` from node 2 to node `dst`, with the sequence number `seq`. -/
def packet (ty dst seq : Nat) : Packet :=
  { dst := dst, src := 2, ptype := ty, seq := seq, op := 0, len := 0, escape := false, dtag := 0, addr := 0
    payload := [], epoch := 0 }

/-- A packet for node 7 waits since cycle `since` at cycle `now`; link 3, up when `up`, is on its route. -/
def routing (up posted : Bool) (since now : Nat) : State :=
  let s := ((State.reset.setPkgReg 2311 0x130008).setPkgReg 1115 (if up then 2 else 0)).setPkgReg 1082 7
  { s with cycle := now, fabric := { s.fabric with outq := [{ pkt := packet 0 7 1, since := since, posted := posted, link := none }] } }

/-- That packet, waiting since cycle 0, in the queue of `l`. -/
def out7 (posted : Bool) (l : Option Nat) : OutPkt := { pkt := packet 0 7 1, since := 0, posted := posted, link := l }

theorem mayLeave_iff (s : State) (x : OutPkt) (l : Nat) :
    MayLeave s x l ↔ ((s.pkgReg (2304 + x.pkt.dst % 256)).getLsbD 20 = true ∧ l < 16 ∧ 2 ≤ fldN (s.pkgReg (1112 + l)) 0 2 ∧
      (if x.pkt.escape then fldN (s.pkgReg (2304 + x.pkt.dst % 256)) 16 4 = l
       else (s.pkgReg (2304 + x.pkt.dst % 256)).getLsbD l = true)) := Iff.rfl

theorem witness_LinkEvents :
    (0 < 16 ∧ 15 < 16 ∧ fldN ((State.reset.setPkgReg 1127 1).pkgReg (1112 + 15)) 0 2 ≠ 0) ∧
    (fldN ((State.reset.setPkgReg 1127 1).pkgReg (1112 + 15)) 0 2 ≠ 3) ∧
    -- a packet may leave from stage 7 on, one of this node only under a valid NODEID
    (GoesOut (routing true false 0 0) (out7 false none).pkt ∧ ¬ GoesOut State.reset (out7 false none).pkt ∧
      ¬ GoesOut (routing true false 0 0) { packet 0 7 1 with src := 0 }) ∧
    -- a link may take the packet, and is the best of its route
    ((routing true false 0 0).fabric.outq[0]? = some (out7 false none) ∧ (out7 false none).link = none ∧
      BestLink (routing true false 0 0) (out7 false none) 3) ∧
    -- the packet stands in that link's queue, and is the first there
    ((out7 false (some 3)).link = some 3 ∧ 2 ≤ fldN ((routing true false 0 0).pkgReg (1112 + 3)) 0 2 ∧
      ∀ y ∈ [out7 false (some 3)].take 0, ¬ Queued (routing true false 0 0) y 3) ∧
    -- no link may take it: not yet and already reported
    ((∀ l, ¬ MayLeave (routing false false 0 0) (out7 false none) l) ∧
      (routing false true 0 0).fabric.outq[0]? = some (out7 true none)) ∧
    -- at and before 256 cycles
    ((0 : Nat) + 256 ≤ (routing true false 0 256).cycle ∧ (routing true false 0 255).cycle < 0 + 256) := by
  refine ⟨by decide, by decide, ⟨by unfold GoesOut; decide, by unfold GoesOut; decide, by unfold GoesOut; decide⟩,
    ⟨by decide, rfl, ?_⟩, ⟨rfl, by decide, by simp⟩, ⟨?_, by decide⟩, by decide⟩
  · refine ⟨by rw [mayLeave_iff]; decide, fun m hm => Or.inr ?_⟩
    rw [mayLeave_iff] at hm
    have : ∀ m : Fin 16, 2 ≤ fldN ((routing true false 0 0).pkgReg (1112 + m.val)) 0 2 → m.val = 3 := by decide
    have e := this ⟨m, hm.2.1⟩ hm.2.2.1
    dsimp only at e
    subst e
    exact ⟨rfl, Nat.le_refl _⟩
  · intro l
    rw [mayLeave_iff]
    intro h
    have : ∀ l : Fin 16, ¬ 2 ≤ fldN ((routing false false 0 0).pkgReg (1112 + l.val)) 0 2 := by decide
    exact this ⟨l, h.2.1⟩ h.2.2.1

/-- The package in stage `n` of a start, with FAILS `fails`, at cycle `now`. -/
def starting (n fails now : Nat) : State :=
  { (State.reset.setPkgReg 1082 (BitVec.ofNat 64 n)).setPkgReg 1081 (put fails 56) with cycle := now }

theorem witness_StartStages :
    (let s := { State.reset with powered := false }
     s.powered = false ∧ fldN (s.pkgReg 1081) 56 8 ≠ 3) ∧
    (∀ n ∈ [1, 2, 3, 4, 5, 6, 7], (starting n 0 0).powered = true ∧ (starting n 0 0).minimal = false ∧
      (starting n 0 0).pkgReg 1082 = BitVec.ofNat 64 n ∧ (starting n 0 0).bootStage = n) ∧
    -- stage 4 with a die left, and with none
    (∃ d, d < 8 ∧ (0x7F : BitVec 8).getLsbD d = false ∧ ((starting 4 0 0).die d).failed = false) ∧
    (∀ d : Fin 8, (0xFF : BitVec 8).getLsbD d = true) ∧
    -- failed starts, up to the last, and a reason that is not the stage's
    (∀ x ∈ [(1, 1), (2, 2), (5, 4), (7, 5)], (starting x.1 2 0).bootStage = x.1 ∧ fldN ((starting x.1 2 0).pkgReg 1081) 56 8 ≤ 3 ∧
      (starting x.1 2 0).minimal = false ∧ (BitVec.ofNat 8 x.2).toNat = x.2) ∧
    ((starting 3 0 0).bootStage, (1 : BitVec 8).toNat) ∉ [(1, 1), (2, 2), (5, 4), (7, 5)] ∧
    -- at and before the limit of stages 1, 3, 4 and 6
    (starting 1 0 7499999999).cycle < (starting 1 0 7499999999).stageStart + 5 * 1500000000 ∧
    (starting 1 0 7500000000).stageStart + 5 * 1500000000 ≤ (starting 1 0 7500000000).cycle ∧
    (starting 3 0 45000000000).stageStart + 30 * 1500000000 ≤ (starting 3 0 45000000000).cycle ∧
    (starting 4 0 30000000000).stageStart + 20 * 1500000000 ≤ (starting 4 0 30000000000).cycle ∧
    (starting 6 0 180000000000).stageStart + 120 * 1500000000 ≤ (starting 6 0 180000000000).cycle := by
  refine ⟨by decide, by decide, ⟨7, by decide⟩, by decide, by decide, by decide, ?_⟩
  simp [starting, State.reset, State.setPkgReg]

/-- The management mailbox runs command `n`. -/
def running (n : Word) : State := { State.reset with mbox := { State.reset.mbox with command := n, status := 0 } }

theorem witness_HeatAndMailbox :
    (94 < 256 ∧ 94 < 95 ∧ 95 ≤ 95 ∧ 104 < 105 ∧ 105 ≤ 105 ∧ 114 < 115 ∧ 115 ≤ 115) ∧ State.reset.thermal = none ∧
      ({ State.reset with thermal := some 1 } : State).thermal = some 1 ∧
    -- a command may begin, one runs, another is written meanwhile, and each ends
    State.reset.mbox.status ≠ 0 ∧ 5 ≤ (5 : Word).toNat ∧
    ((running 1).mbox.status = 0 ∧ (running 1).mbox.command ≠ (2 : Word)) ∧
    (∀ n : Word, (running n).mbox.command = n ∧ (running n).mbox.status = 0) ∧
    ((running 3).minimal = false ∧ ((running 3).setPkgReg 1080 0x80).minimal = true ∧
      ((running 3).setPkgReg 1080 0x80).mbox = (running 3).mbox) :=
  ⟨by decide, rfl, rfl, by decide, by decide, by decide, fun _ => ⟨rfl, rfl⟩, by decide, by decide, rfl⟩

/-! ### Witnesses: residency, the store and the domain -/

/-- A serial number of an object of node 0. -/
def serial5 : Nat := 0x10005
/-- Page 0 of that object. -/
def page5 : Nat := serial5 * 2 ^ 40

/-- The leaf entry `l` stands for that page; every object is DURABLE unless `st` says otherwise. -/
def paged (l : Leaf) (st : ObjSt := .durable) : State :=
  { State.reset with leaves := [(page5, l)], objs := [(serial5, { st := st, size := 65536, die := 0, job := 1, pages := [9], stored := true })] }

/-- A valid leaf entry of tier `n`. -/
def leafAt (n : Nat) : Leaf := { Leaf.reset with v := true, tier := n, dur := true, job := 1 }

/-- A plan whose one entry is that page. -/
def plan5 : Plan :=
  { entries := [{ start := page5 * 65536, len := 65536, rel := false, step := 0 }], step := 0, ahead := 0, comp := 0, core := 0
    die := 0, proc := 0, user := 0, job := 1, got := [], posted := [] }

theorem witness_ResidencyEvents :
    (let s := paged (leafAt 0)
     (s.leaf page5).v = true ∧ (s.leaf page5).tier = 0 ∧ (s.leaf page5).dur = true ∧ (s.leaf page5).pin = false ∧
       s.pageBusy page5 = false ∧ s.cutTargets page5 = false ∧ (∀ e ∈ s.leaves, s.victimClass page5 ≤ s.victimClass e.1) ∧
       s.victimClass page5 = 2 ∧ s.clockVictim 0 = some page5) ∧
    ((paged (leafAt 2)).leaf page5).tier ≠ 0 ∧
    (let s := paged { leafAt 2 with pin := true }
     (s.leaf page5).v = true ∧ (s.leaf page5).tier = 2 ∧ (s.leaf page5).pin = true ∧ (s.leaf page5).pinDie = 0 ∧
       s.frameFree 0 0 = true ∧ s.frameFree 0 1287313 = true ∧ (∀ b ∈ (s.die (0 / 2 ^ 21)).wrapped, b / 16 ≠ 0 % 2 ^ 21) ∧
       page5 ∉ s.store.failedOnce ∧
       page5 ∈ ({ s with store := { s.store with failedOnce := [page5] } } : State).store.failedOnce) ∧
    -- a miss of another die, and a frame one of whose blocks is re-encrypted
    ((paged { leafAt 2 with pin := true, pinDie := 3 }).leaf page5).pinDie ≠ 0 ∧
    (let s := (paged { leafAt 2 with pin := true }).modDie 0 fun D => { D with wrapped := [17] }
     s.frameFree 0 1 = true ∧ ∃ b ∈ (s.die (1 / 2 ^ 21)).wrapped, b / 16 = 1 % 2 ^ 21) ∧
    (State.reset.leaf page5).v = false ∧
    (let s := { paged (leafAt 2) with plans := [(3, some plan5)] }
     s.plans.get none 3 = some plan5 ∧ s.planNext plan5 = some page5 ∧ s.frameFree 0 7 = true ∧
       ∀ e ∈ s.leaves, e.2.v = true → e.2.tier = 2 → e.2.pin = false → e.1 = page5) := by decide

/-- The store with that object waiting, `pages` of it in the log, `free` bytes of the log, and the staging buffer holding
`staging`; its size is `n` pages. -/
def appending (n : Nat) (pages : List Nat) (free staging : Nat) : State :=
  { (paged (leafAt 0) .sealed).setPkgReg 1080 0 with
    objs := [(serial5, { st := .sealed, size := 65536 * n, die := 0, job := 1, pages := pages, stored := false })]
    store := { Store.reset with waiting := [serial5], free := free, staging := staging } }

/-- Bytes of that object that the log has still to take. -/
def owed (s : State) : Nat := logBytes (s.obj serial5).size - 65536 * (s.obj serial5).pages.length

/-- The log's first segment is full, and its page 0 is dead. -/
def fullSegment (free : Nat) : State :=
  { State.reset.setPkgReg 1080 0 with store := { Store.reset with dead := [0], top := max 1 Config.segmentPages, free := free } }

theorem dead_zero (free : Nat) : (fullSegment free).store.dead.filter (inSegment 0) = [0] := by
  simp [fullSegment, inSegment]

theorem witness_StoreEvents :
    (let s := appending 1 [] 65536 0
     s.reduced = false ∧ s.minimal = false ∧ s.store.waiting = [serial5] ∧ (∀ m ∈ s.store.waiting, (s.obj m).st = .sealed) ∧
       s.store.stopped = false ∧ owed s = 65536 ∧ owed s ≤ s.store.free ∧ s.store.staging + 65536 ≤ 2 ^ 31 ∧ 100 ≤ s.store.holdup) ∧
    -- a page of two; all of them; no room in the staging buffer by one byte, and one byte short in the log
    (65536 < owed (appending 2 [] 131072 0) ∧ owed (appending 2 [] 131072 0) ≤ (appending 2 [] 131072 0).store.free) ∧
    (owed (appending 1 [9] 0 0) = 0 ∧ (appending 1 [9] 0 0).store.staging = 0) ∧
    2 ^ 31 < (appending 1 [] 65536 (2 ^ 31 - 65535)).store.staging + 65536 ∧
    (appending 1 [] 65535 0).store.free < owed (appending 1 [] 65535 0) ∧
    -- compaction of a full segment, of one not full, and of one without a dead page
    ((fullSegment 0).store.waiting = [] ∧ (fullSegment 0).store.dead.filter (inSegment 0) ≠ [] ∧
      (0 + 1) * max 1 Config.segmentPages ≤ (fullSegment 0).store.top ∧
      65536 * ((fullSegment 0).objs.flatMap fun e => e.2.pages.filter (inSegment 0)).length ≤ (fullSegment 0).store.free) ∧
    (State.reset.store.top < (0 + 1) * max 1 Config.segmentPages ∧ State.reset.store.dead.filter (inSegment 3) = []) ∧
    (let s := { appending 1 [] 65536 0 with store := { (appending 1 [] 65536 0).store with stopped := true } }
     s.store.waiting = [serial5] ∧ s.store.stopped = true ∧ s.store.dead = [] ∧ owed s ≤ s.store.free) ∧
    ((fullSegment 0).reduced = false ∧ (fullSegment 0).minimal = false ∧ (fullSegment 0).store.stopped = false) ∧
    -- a store mounted read-only, in reduced service and in minimal mode
    (State.reset.reduced = true ∧ (State.reset.setPkgReg 1080 0x80).minimal = true) ∧
    (State.reset.store.waiting = [] ∧ (99 < 100 ∧ 100 ≤ 100) ∧ State.reset.store.lowPosted = false) ∧
    -- an object of this node that is DURABLE, and one that is not
    (wnNode (wideNum 0 serial5 0) = (paged (leafAt 0)).nodeId ∧ ((paged (leafAt 0)).obj (wnSerial (wideNum 0 serial5 0))).st = .durable ∧
      ((paged (leafAt 0) .sealed).obj serial5).st ≠ .durable) := by
  refine ⟨by decide, by decide, by decide, by decide, by decide, ⟨rfl, by rw [dead_zero]; simp, ?_, by decide⟩, ⟨?_, by decide⟩,
    by decide, by decide, by decide, by decide, by decide⟩
  · simp [fullSegment]
  · show 0 < _
    omega

/-- A command `op` of job 1 for that page is in APCMD. -/
def command (op : Nat) (l : Leaf) : State :=
  ((((paged l).setPkgReg 1128 (put 1 63 ||| put 1 8 ||| put op 0)).setPkgReg 1129 (wnLo (page5 * 65536))).setPkgReg 1130
    (wnHi (page5 * 65536))).setCtlReg 0 6 1

/-- Node 1 in a domain with node 2, in SECURE mode, as member in epoch 4, leader node 2 or itself. -/
def inDomain (leads : Bool) (l : Leaf) (st : ObjSt) : State :=
  (((((paged l st).setPkgReg 1104 0x101).setPkgReg 1105 (put 4 32 ||| put (if leads then 1 else 2) 8 ||| put 2 0)).setPkgReg 1108
    6).setPkgReg 1080 1).setCtlReg 0 7 9

theorem witness_PeerPageCommands :
    (storing1 { State.reset with store := { State.reset.store with node := some 3 } } 1104 4 ∧ (3 : Nat) ≠ fldN (4 : Word) 0 8) ∧
    (storing1 State.reset 1104 0x103 ∧ State.reset.store.node = none ∧ State.reset.domState = 0) ∧
    (∀ op ∈ [0, 1, 2], ApRuns (command op (leafAt 1)) op) ∧
    ((command 0 (leafAt 1)).peerPage (command 0 (leafAt 1)).apPage = true ∧
      (command 0 (leafAt 0)).peerPage (command 0 (leafAt 0)).apPage = false) ∧
    ((command 3 (leafAt 1)).pkgReg 1128).getLsbD 63 = true ∧
    (let s := command 1 (leafAt 1)
     5 / 2 ^ 21 < 8 ∧ s.frameFree (5 / 2 ^ 21) 5 = true ∧ fldN (s.pkgReg 1128) 8 8 = 1) ∧
    (let s := { command 1 (leafAt 1) with objs := [] }
     s.peerPage s.apPage = true ∧ s.quotaUsed 0 1 < (s.ctlReg 0 (4 * 1 + 2)).toNat ∧
       ∀ b ∈ (s.die (5 / 2 ^ 21)).wrapped, b / 16 ≠ 5 % 2 ^ 21) := by
  refine ⟨⟨?_, by decide⟩, ⟨?_, by decide, by decide⟩, ?_, by decide, by decide, by decide, by decide⟩
  · show StoresTo _ _ _ _ _; unfold StoresTo; decide
  · show StoresTo _ _ _ _ _; unfold StoresTo; decide
  · decide

/-- Page 0 of that object at node 1, in HBM and writable; node 1 lets a peer take it over, and has heard of packet 5 of node 2. -/
def home1 : State :=
  let s := ((inDomain false Leaf.reset .opened).setPkgReg 1131 3).setPkgReg 1082 7
  { s with
    leaves := [(page5 + 2 ^ 104, { leafAt 0 with w := true, dur := false })]
    fabric := { s.fabric with peers := [(2, { Peer.reset with high := 5, got := [5] })] } }

theorem homeAgrees_of {s : State} {node page b : Nat} {dtag : BitVec 16}
    (h : s.ownNode (pageNode page) = true ∧ (s.leaf page).v = true ∧ s.isMember node = true ∧
      (s.obj (pageSerial page)).st = .opened ∧ (s.leaf page).w = true ∧ dtag ≠ 0 ∧ s.pageTag page = dtag ∧
      (s.pkgReg 1131).getLsbD b = true) : HomeAgrees s node page dtag b := h

/-- A page of node 1 whose object is OPEN, which node 2 may take over: at once, while an access that reached it waits, and when it has
left already. -/
theorem witness_PeerPageMigration :
    HomeAgrees home1 2 (page5 + 2 ^ 104) 9 1 ∧ ¬ HomeAgrees (home1.setPkgReg 1131 0) 2 (page5 + 2 ^ 104) 9 1 ∧
    home1.mayPacket 2 = true ∧ (home1.setPkgReg 1082 6).mayPacket 2 = false ∧ (home1.leaf (page5 + 2 ^ 104)).tier = 0 ∧
    2 ≠ home1.nodeId ∧ home1.accessWaits (page5 + 2 ^ 104) = false ∧
    (let s := { home1 with fabric := { home1.fabric with homeq :=
       [{ pkt := { packet 1 1 6 with dtag := 9, addr := page5 * 65536, len := 8 }, flying := true, page := page5 + 2 ^ 104, data := [] }] } }
     s.accessWaits (page5 + 2 ^ 104) = true ∧ HomeAgrees s 2 (page5 + 2 ^ 104) 9 1) ∧
    (let s := { home1 with leaves := [(page5 + 2 ^ 104, { leafAt 1 with w := true, dur := false })] }
     HomeAgrees s 2 (page5 + 2 ^ 104) 9 1 ∧ (s.leaf (page5 + 2 ^ 104)).tier ≠ 0 ∧ s.mayPacket 2 = true) := by
  refine ⟨homeAgrees_of (by decide), ?_, by decide, by decide, by decide, by decide, by decide, ⟨by decide, homeAgrees_of (by decide)⟩,
    homeAgrees_of (by decide), by decide, by decide⟩
  intro h
  exact absurd h.2.2.2.2.2.2.2 (by decide)

/-- A re-key to epoch 5 in progress at node 1. -/
def rekey5 (leads : Bool) : Rekey :=
  { epoch := 5, leader := 2, members := 6, leads := leads, proc := 4096, rid := 1, drained := [], switched := [], stage := 0
    began := 0, was := 2 }

/-- Node 1 in a re-key. -/
def rekeying (leads : Bool) : State :=
  let s := inDomain leads (leafAt 0) .durable
  { s with fabric := { s.fabric with rekey := some (rekey5 leads) } }

theorem witness_RekeyEvents :
    (let s := inDomain false (leafAt 0) .durable
     s.nodeValid = true ∧ s.epoch = 4 ∧ (2 < 256 ∧ 2 ≠ s.nodeId) ∧ s.fabric.rekey = none ∧ s.fabric.opening = none ∧ s.leader = 2 ∧ s.domState ≠ 0) ∧
    -- a joiner
    (let s := (inDomain false (leafAt 0) .durable).setPkgReg 1105 (put 1 0)
     s.nodeValid = true ∧ s.domState = 1 ∧ s.epoch < 4) ∧
    State.reset.nodeValid = false ∧
    (let s := rekeying false
     s.fabric.rekey = some (rekey5 false) ∧ s.allAcked = true ∧ (rekey5 false).members.testBit s.nodeId = true ∧
       (rekey5 false).members < 2 ^ 256 ∧ s.fabric.heldIn = [] ∧ s.fabric.opening = none ∧ (rekey5 false).was < 4) ∧
    (let s := rekeying true
     s.fabric.rekey = some (rekey5 true) ∧ s.fabric.opening = none ∧ s.tai.toNat < (rekey5 true).began.toNat + s.rekeyTime) ∧
    ((inDomain true (leafAt 0) .durable).leads = true ∧ (inDomain true (leafAt 0) .durable).fabric.opening = none ∧
      (inDomain true (leafAt 0) .durable).allowed (List.replicate 8 0) = true ∧
      (inDomain true (leafAt 0) .durable).allowed [1] = false) ∧
    -- a node that has switched, whose leader gives up or has every node's answer
    (let u : Undo := { rekey := rekey5 false, stat := put 4 32 ||| put 2 8 ||| put 2 0, members := [6, 0, 0, 0], peers := [] }
     let s := inDomain false (leafAt 0) .durable
     let t : State := { s with fabric := { s.fabric with undo := some u } }
     t.fabric.undo = some u ∧ t.fabric.rekey = none ∧ t.fabric.opening = none ∧ u.members.length = 4 ∧ u.rekey.was < 4) ∧
    -- a node that joins with a digest not allowed while a REKEY awaits its session
    (let x := { rekey5 true with members := 14 }
     let s := (inDomain true (leafAt 0) .durable).modProc 4096 fun P => { P with parked := [reqOf .rekey 0 0] }
     let t : State := { s with fabric := { s.fabric with opening := some x } }
     t.fabric.opening = some x ∧ t.allowed [1] = false ∧ x.members.testBit 3 = true ∧ t.isMember 3 = false ∧ x.leads = true ∧
       t.pendingReq x.proc x.rid = some (reqOf .rekey 0 0) ∧ (reqOf .rekey 0 0).rid = x.rid ∧ t.fabric.rekey = none) := by decide

/-- A request of core 0 waits for node 2's answer to packet 9 in epoch 4. -/
def waitingFor (r : Req) : State :=
  let s := (inDomain false (leafAt 0) .durable).modProc 4096 fun P => { P with parked := [r] }
  { s with fabric := { s.fabric with
    remote := [(9, 2, 4096, 1)]
    peers := [(2, { Peer.reset with high := 5, got := [5], unacked := [packet 0 2 9] })] } }

theorem witness_PacketEvents :
    -- on the way to another node
    (∀ ty ∈ [0, 4, 8, 10], isRequest (packet ty 3 1) = true) ∧ (packet 5 3 1).dst ≠ (waitingFor (reqOf .ld 0 0)).nodeId ∧
    -- refused: not of this epoch; received before; before the window
    (let s := waitingFor (reqOf .ld 0 0)
     s.nodeValid = true ∧ s.fabric.rekey = none ∧ (packet 0 1 5).dst = s.nodeId ∧ s.isMember 2 = true ∧
       (packet 0 1 5).epoch ≠ s.epoch % 2 ^ 16 ∧ (5 ∈ (s.peer 2).got ∧ 5 ≤ (s.peer 2).high)) ∧
    -- answers: of a load, of a store, and a final reject
    (∀ r ∈ [reqOf .ld 0 0, reqOf .st 0 0],
      let s := waitingFor r
      let k : Packet := { packet 5 1 6 with epoch := 4, addr := 9 }
      k.dst = s.nodeId ∧ k.epoch = s.epoch % 2 ^ 16 ∧ (s.peer k.src).high < k.seq ∧
        s.forwarded k.src (k.addr % 2 ^ 64) = none ∧ s.requester k.src (k.addr % 2 ^ 64) = some (4096, r.rid) ∧
        s.pendingReq 4096 r.rid = some r ∧ r.kind ≠ .objq ∧
        ((s.peer k.src).unacked.find? (fun q => q.seq == k.addr % 2 ^ 64)).isSome = true) ∧
    (({ packet 7 1 6 with addr := 9 + 7 * 2 ^ 64 } : Packet).addr / 2 ^ 64 % 256 = 7 ∧
      ({ reqOf .ld 0 0 with resent := true } : Req).resent = true) ∧
    (waitingFor (reqOf .objq 0 0)).pendingReq 4096 1 = some (reqOf .objq 0 0) ∧
    -- what a home tells of an object that a request asked about, and a first reject with SEQUENCE
    (let r := { reqOf .ld 0 0 with stage := 4 }
     (waitingFor r).pendingReq 4096 1 = some r ∧ r.stage = 4 ∧ fldN (([2] : List Word).getD 0 0) 0 3 ≠ 5 ∧
       fldN (([5] : List Word).getD 0 0) 0 3 = 5) ∧
    (({ packet 7 1 6 with addr := 9 + 22 * 2 ^ 64 } : Packet).addr / 2 ^ 64 % 256 = 22 ∧ (reqOf .ld 0 0).resent = false ∧
      ((waitingFor (reqOf .ld 0 0)).peer 2).unacked.find? (fun q => q.seq == (9 + 22 * 2 ^ 64) % 2 ^ 64) = some (packet 0 2 9)) := by
  decide

/-- A packet of type `ty` from node 2 for that page of node 1, after those received. -/
def ask1 (ty op : Nat) (len : Nat := 8) : Packet :=
  { packet ty 1 6 with epoch := 4, dtag := 9, addr := page5 * 65536, op := op, len := len, payload := [5, 6] }

theorem atHome1 : ∀ x ∈ ([(0, 8, .load), (1, 8, .store), (2, 8, .store), (3, 8, .atomic), (4, 8, .atomic)] : List (Nat × Nat × Acc)),
    AtHome home1 (ask1 x.1 0) (2 ^ 120 + page5 * 65536) x.2.1 x.2.2 := by
  intro x m
  simp only [List.mem_cons, List.not_mem_nil, or_false] at m
  rcases m with rfl | rfl | rfl | rfl | rfl <;>
    exact ⟨by decide, ⟨by decide, by decide, by decide, by decide, by decide⟩⟩

/-- An access of two words, which is performed word by word. -/
theorem atHome2 : ∀ x ∈ ([(0, .load), (1, .store)] : List (Nat × Acc)),
    AtHome home1 (ask1 x.1 0 16) (2 ^ 120 + page5 * 65536) 16 x.2 ∧ homeGran (2 ^ 120 + page5 * 65536) 16 < 16 ∧
      (ask1 x.1 0 16).payload.length = ((ask1 x.1 0 16).len + 7) / 8 := by
  intro x m
  simp only [List.mem_cons, List.not_mem_nil, or_false] at m
  rcases m with rfl | rfl <;>
    exact ⟨⟨by decide, ⟨by decide, by decide, by decide, by decide, by decide⟩⟩, by decide, by decide⟩

theorem witness_PacketEvents_performed :
    (∀ ty ∈ [0, 1, 2, 3, 4, 8, 9, 10],
      (ask1 ty 0).dst = home1.nodeId ∧ home1.fabric.rekey = none ∧ home1.nodeValid = true ∧ home1.isMember (ask1 ty 0).src = true ∧
        (ask1 ty 0).epoch = home1.epoch % 2 ^ 16 ∧ (home1.peer (ask1 ty 0).src).high < (ask1 ty 0).seq) ∧
    (∀ x ∈ ([(0, 8, .load), (1, 8, .store), (2, 8, .store), (3, 8, .atomic), (4, 8, .atomic)] : List (Nat × Nat × Acc)),
      AtHome home1 (ask1 x.1 0) (2 ^ 120 + page5 * 65536) x.2.1 x.2.2) ∧
    (atomLen (ask1 3 0).op = 8 ∧ (2 ^ 120 + page5 * 65536) % 8 = 0 ∧ (ask1 1 0).len = 8 ∧
      8 ≤ homeGran (2 ^ 120 + page5 * 65536) 8 ∧
      ({ ask1 1 0 with payload := [5] } : Packet).payload.length = ((ask1 1 0).len + 7) / 8) ∧
    -- a compare-and-swap that finds another word than 5, and one that finds what it expects
    (home1.mword (wideKey (2 ^ 120 + page5 * 65536)) ≠ (ask1 4 0).payload.getD 0 0 ∧
      home1.mword (wideKey (2 ^ 120 + page5 * 65536)) = ({ ask1 4 0 with payload := [0, 6] } : Packet).payload.getD 0 0) ∧
    -- an object of job 1
    ((home1.obj ((ask1 10 0).addr / 2 ^ 56 % 2 ^ 64)).st ≠ .unissued ∧ (ask1 10 0).dtag ≠ 0 ∧
      home1.dtag (home1.obj serial5).die (home1.obj serial5).job = (ask1 10 0).dtag) :=
  ⟨by decide, atHome1, by decide, by decide, by decide⟩

/-- A contribution of node `n` to an operation. -/
def contribution (n op : Nat) (v : Word) : Contribution := { node := n, issuer := 0, op := op, val := v, root := 0 }

/-- Node 1's core has contributed to the first instance of group 0, whose members are nodes 1 and 2. -/
def collecting (op : Nat) : State :=
  let s := (((inDomain false (leafAt 0) .durable).modProc 4096 fun P => { P with parked := [reqOf .coll 0 0 op] }).setPkgReg 1136
    6).setPkgReg 1082 7
  { s with fabric := { s.fabric with coll := [(0, [{ n := 0, got := [contribution 1 op 7], answer := [(4096, 1)] }])] } }

theorem witness_Collectives :
    -- a group with other nodes, and one of this node alone
    (CollMay (collecting 0) 0 ∧ ¬ CollMay ((collecting 0).setPkgReg 1082 6) 0 ∧ CollMay (State.reset.setPkgReg 1136 1) 0) ∧
    (∀ op ∈ [0, 3, 7], let s := collecting op
      (s.fabric.coll.get [] 0).find? (fun x => x.got.length == s.cpn 0) =
          some { n := 0, got := [contribution 1 op 7], answer := [(4096, 1)] } ∧
        s.pendingReq 4096 1 = some (reqOf .coll 0 0 op) ∧ s.domState ≠ 3 ∧
        (∀ n, n < 256 → n ≠ s.nodeId → s.inGroup 0 n = true → ∃ c ∈ [contribution 2 op 8], c.node = n) ∧
        (4096, (reqOf .coll 0 0 op).rid) ∈ [(4096, 1)] ∧ [(4096, 1)].Nodup ∧ (reqOf .coll 0 0 op).resp ≠ 0 ∧
        (∀ c ∈ [contribution 2 op 8], c.node < 256 ∧ c.node ≠ s.nodeId ∧ s.inGroup 0 c.node = true)) ∧
    (contribution 2 0 8).op ≠ (contribution 1 3 7).op ∧
    List.Perm [1, 2] [2, 1] ∧ ∀ a ∈ [1, 2], a < 2 ^ 32 :=
  ⟨⟨Or.inr (by decide), fun h => h.elim (fun h => absurd (h 2) (by decide)) (fun h => absurd h.2.1 (by decide)),
      Or.inl (by decide)⟩, by decide, by decide, List.Perm.swap 2 1 [], by decide⟩

/-! ### Witnesses: copies and cuts -/

/-- A load copy of two slots of `S` bytes at the ring 0x1000 of cluster 0, over sixteen elements of eight bytes; `f` are more bits
of its second word. -/
def copy0 (S : Nat) (f : Word) : Copy :=
  { desc := [0x400, put 3 55 ||| f, put (S / 64) 48 ||| put 1 40 ||| 0x1000, put 16 48 ||| put 8 0, put 1 48, put 1 48, put 1 48, 0]
    job := none, proc := 4096, farScratch := true, far := 0x400, notices := 3, next := 0, total := 2, active := [], fired := 0
    firedV := 0, idx := [], issued := 0, reqs := [], sent := 0, placed := 0, whole := 0, stopping := none, broken := false, status := 0 }

/-- Copy 0 of die 0 is `c`. -/
def copying (c : Copy) : State := State.reset.modDie 0 fun D => { D with copies := [(0, some c)] }

theorem mayBegin_of {s : State} {id : Nat} {c : Copy} (h : c.status = 0 ∧ c.stopping = none ∧ c.reqs = [] ∧ s.copyStalled id = false ∧
    c.next < c.total) (r : s.copyRegion c = none) : MayBegin s id c :=
  ⟨h.1, h.2.1, by simp [h.2.2.1], h.2.2.2.1, h.2.2.2.2, fun R e => by rw [r] at e; exact absurd e (by simp)⟩

/-- A position of which the ring words `ws` are counted, and the far words `vs` at SCOPE. -/
def position (p : Nat) (ws : List Nat) (vs : List Nat := []) : CopyPos :=
  { p := p, done := ws, vis := vs, fired := false, firedV := false }

theorem whole_iff (c : Copy) (v : Bool) (n : Nat) : Whole c v n ↔ (c.active.any fun y => y.p == n &&
    if v then y.vis.length == c.due (n + 1) - c.farLow n else y.done.length == c.words) = true := by
  unfold Whole
  cases v <;> simp

/-- Counter 0 of cluster 0 is `x`, and its operator's input holds `q`. -/
def counting (c : Copy) (x : Cnt) (q : List Entry) : State :=
  (copying c).modCluster 0 fun C => { C with cnt := [(0, x)], opIn := C.opIn.set InChan.reset 72 { InChan.reset with q := q } }

/-- A SNAP cut whose area is that page, which has made its image when `made`. -/
def cut5 (img : Option Nat) (w : List (Nat × List Word)) : Cut :=
  { kind := 0, proc := 4096, rid := 1, area := 0x0005000100000000, areaWide := page5 * 65536, areaSize := 65536, time := 0
    internal := [], pending := [], recorded := [], due := [], markersIn := [], caught := [], standing := [], takes := []
    image := img, toWrite := w, missed := false }

theorem witness_CopyEvents :
    -- a position with its notice, and one of a tiled ring whose frames are EMPTY
    (let c := copy0 64 0
     (copying c).copy (128 * 0 + 0) = some c ∧ MayBegin (copying c) (128 * 0 + 0) c ∧ c.tile = false ∧
       c.notices.getLsbD (c.next % c.slots) = true ∧ ∀ y ∈ c.active, y.p % c.slots = c.next % c.slots → y.done.length = c.words) ∧
    (let c := copy0 4096 (put 1 62)
     (copying c).copy (128 * 0 + 0) = some c ∧ MayBegin (copying c) (128 * 0 + 0) c ∧ c.tile = true ∧
       ∀ f ∈ c.slotFrames c.next, ((copying c).cluster (c.ring / 2 ^ 22)).tile f = if c.isStore then 2 else 0) ∧
    -- none left
    (let c := { copy0 64 0 with next := 2 }
     (copying c).copy 0 = some c ∧ c.total ≤ c.next) ∧
    -- a bound counter: a whole position, the end of the copy, and neither
    (let x : Cnt := { Cnt.reset with copy := some 0 }
     let c (ws : List Nat) : Copy := { copy0 64 0 with active := [position 0 ws] }
     (((counting (c (List.range 8)) x []).cnt 0 0).copy = some 0 ∧
       (counting (c (List.range 8)) x []).copy 0 = some (c (List.range 8)) ∧
       ((counting (c (List.range 8)) x []).opOut 0 (cntOp 0) 0).length < 2 ∧
       (counting (c (List.range 8)) x []).opRecorded 0 (cntOp 0) = false ∧ bitOf x.ctrl 2 = false ∧ x.visible = false ∧
       Whole (c (List.range 8)) false 0) ∧
     (({ copy0 64 0 with fired := 2 } : Copy).fired = ({ copy0 64 0 with fired := 2 } : Copy).total ∧
       ¬ Whole { copy0 64 0 with fired := 2 } false 2) ∧
     ¬ Whole (c (List.range 7)) false 0 ∧ (c (List.range 7)).fired ≠ (c (List.range 7)).total ∧ (c (List.range 7)).stopping = none) ∧
    -- CNTV counts the far words complete at SCOPE
    Whole { copy0 64 (put 1 63) with active := [position 0 (List.range 8) (List.range 8)] } true 0 ∧
    -- a counter of its own: one token of two taken, and the second counted
    (let x : Cnt := { Cnt.reset with ctrl := 1, words := 2, count := 1 }
     let s := counting (copy0 64 0) x [.tok (dataTok 0 1)]
     (s.cnt 0 0).copy = none ∧ bitOf (s.cnt 0 0).ctrl 0 = true ∧ s.opLive 0 (cntOp 0) = true ∧
       (s.cnt 0 0).count < max 1 (s.cnt 0 0).words.toNat ∧ frontOf (s.inAt (.oper 0 (cntOp 0) 0)).q = some (dataTok 0 1) ∧
       (dataTok 0 1).kind = .data) ∧
    frontOf ((counting (copy0 64 0) Cnt.reset [.tok { dataTok 0 1 with kind := .ctrl }]).inAt (.oper 0 (cntOp 0) 0)).q =
      some { dataTok 0 1 with kind := .ctrl } ∧
    (let x : Cnt := { Cnt.reset with ctrl := 1, words := 2, count := 2 }
     max 1 x.words.toNat ≤ x.count ∧ bitOf x.ctrl 2 = false) ∧
    -- the end of a copy, with COMP 1
    (let c := { copy0 64 (put 1 59) with next := 2, whole := 2 }
     (copying c).copy (128 * 0 + 0) = some c ∧ c.status = 0 ∧ (copying c).boundCnts (128 * 0 + 0) = false ∧
       (copying c).copyRegion c = none ∧ (copying c).copyStalled (128 * 0 + 0) = false ∧ c.comp = 1 ∧ c.whole = c.total) ∧
    -- a copy that a context stops, and one not whole
    (let c := { copy0 64 0 with stopping := some (4096, 1) }
     let s := (copying c).modProc 4096 fun P => { P with parked := [reqOf .scancel 0 0] }
     s.copy (128 * 0 + 0) = some c ∧ s.boundCnts (128 * 0 + 0) = false ∧ c.stopping = some (4096, 1) ∧ c.reqs = [] ∧
       (s.proc 4096).parked.find? (fun r => r.rid == 1) = some (reqOf .scancel 0 0) ∧ (reqOf .scancel 0 0).resp ≠ 0) ∧
    ((copy0 64 0).whole ≠ (copy0 64 0).total ∧ (copy0 64 0).stopping = none) ∧
    -- a copy whose subgraph broke its ratio, and one of a region that is FROZEN with a cut in progress
    (({ copy0 64 0 with broken := true } : Copy).broken = true ∧ (copy0 64 0).reqs = [] ∧
      (let c := { copy0 64 0 with proc := 0 }
       let R := { Region.reset with st := .frozen, elems := [0], cut := some (cut5 none []) }
       let s := ((copying c).modDie 0 fun D => { D with regions := [(1, R)] }).modProc 0 fun P => { P with region := some 1 }
       s.copyRegion c = some R ∧ R.st = .frozen ∧ R.cut ≠ none)) ∧
    -- a coalescer with a line, once its window is over and before
    (let s := State.reset.setCoal 0 3 { ctrl := put 9 8, status := 0, line := some (5, 1) }
     (s.coalAt 0 3).line = some (5, 1) ∧ 1 + fldN (s.coalAt 0 3).ctrl 8 8 ≤ ({ s with cycle := 10 } : State).cycle ∧
       ({ s with cycle := 9 } : State).cycle < 1 + fldN (s.coalAt 0 3).ctrl 8 8) := by
  refine ⟨⟨by decide, mayBegin_of (by decide) (by decide), by decide, by decide, by decide⟩,
    ⟨by decide, mayBegin_of (by decide) (by decide), by decide, by decide⟩, by decide,
    ⟨⟨by decide, by decide, by decide, by decide, by decide, by decide, (whole_iff _ _ _).2 (by decide)⟩,
      ⟨by decide, fun h => absurd ((whole_iff _ _ _).1 h) (by decide)⟩, fun h => absurd ((whole_iff _ _ _).1 h) (by decide),
      by decide, by decide⟩, (whole_iff _ _ _).2 (by decide), by decide, by decide, by decide, by decide, by decide, by decide,
    by decide, by decide⟩

/-- Region 1 of die 0, of job 1, is `R`; that object is OPEN in a writable page of HBM. -/
def withRegion (R : Region) : State :=
  (paged { leafAt 0 with w := true } .opened).modDie 0 fun D => { D with regions := [(1, { R with job := 1 })] }

/-- Region 1 runs with a cut in progress, and the codec is the cut's. -/
def cutting (c : Cut) : State :=
  (withRegion { Region.reset with st := .running, cut := some c }).modDie 0 fun D => { D with codecq := [.cut 1] }

/-- Element 0, in no region, is about to receive what enters region 1. -/
def entering5 (xs : List Caught) : State :=
  (withRegion { Region.reset with st := .running, entering := xs }).modProc 0 fun P =>
    { P with sels := P.sels.set Sel.reset 9 { v := true, ctx := 3, handler := 2 } }

/-- A cut marker. -/
def cutTok : Token := { kind := .mark, tag := 0, payload := put 1 62 }

theorem witness_CutEvents :
    (let s := arriving 0 false 0xFF 0 (some cutTok)
     (s.inAt (.elem 0 0)).link = some cutTok ∧ cutTok.isCut = true ∧ 0 < 4) ∧
    (let s := entering5 [.event 0 7]
     (s.region 0 1).entering = [.event 0 7] ∧ s.unitHeld 0 = false ∧ (s.proc 0).el.length < 4) ∧
    (let s := entering5 [.packet 0 packet9.pkt]
     (s.region 0 1).entering = [.packet 0 packet9.pkt] ∧ s.unitHeld 0 = false ∧
       ((s.proc 0).sels.get Sel.reset packet9.pkt.sel.toNat).v = true ∧ (vget (s.proc 0).lanes 2).length < 4) ∧
    -- the image may be made; a unit has still to record; another has the codec
    (CutOf (cutting (cut5 none [])) 0 1 (cut5 none []) ∧ (cutting (cut5 none [])).hasCodec 0 (.cut 1) = true ∧
      (cutting (cut5 none [])).nextTake (cut5 none []) = none ∧ (cutting (cut5 none [])).cutReady 0 1 (cut5 none []) = true ∧
      (cut5 none []).missed = false) ∧
    (let c := { cut5 none [] with pending := [0] }
     CutOf (cutting c) 0 1 c ∧ (cutting c).cutReady 0 1 c = false ∧ c.due = []) ∧
    (let s := (cutting (cut5 none [])).modDie 0 fun D => { D with codecq := [.restore 1 7, .cut 1] }
     CutOf s 0 1 (cut5 none []) ∧ s.hasCodec 0 (.cut 1) = false) ∧
    -- a caught token that stands on a link is the next item
    (let c := { cut5 none [] with standing := [.elem 0 0] }
     let s := (cutting c).modInAt (.elem 0 0) fun h => { h with link := some (dataTok 0 1) }
     CutOf s 0 1 c ∧ s.nextTake c = some { item := .token (.elem 0 0) (dataTok 0 1), at_ := none } ∧ 0 < 4 ∧
       s.hasCodec 0 (.cut 1) = true) ∧
    -- a piece to write, and the header at the end
    (CutOf (cutting (cut5 (some 4) [(0, [1, 2, 3, 4])])) 0 1 (cut5 (some 4) [(0, [1, 2, 3, 4])]) ∧
      PieceFits (cutting (cut5 (some 4) [(0, [1, 2, 3, 4])])) 0 1 (cut5 (some 4) [(0, [1, 2, 3, 4])]) 0 [1, 2, 3, 4]) ∧
    (let s := cutting (cut5 (some 4) [])
     let header := imageHeader (s.cutImage 0 1 (cut5 (some 4) []) []) true
     CutOf s 0 1 (cut5 (some 4) []) ∧ (cut5 (some 4) []).kind ≤ 4 ∧ PieceFits s 0 1 (cut5 (some 4) []) 0 header) ∧
    (State.reset.region 0 1).cut = none ∧
    -- the watchdog: expired and not, with an area and without
    (let R := { Region.reset with st := .running, wd := put 2 48, elems := [0] }
     let s := { (withRegion R).modProc 0 (fun P => { P with ins := vset P.ins 0 { InChan.reset with q := [.tok (dataTok 0 1)] } })
       with tai := 2000 }
     fldN (s.region 0 1).wd 48 16 = 2 ∧ (s.region 0 1).st = .running ∧ (s.region 0 1).cut = none ∧
       s.regionFaulted 0 1 (s.region 0 1) = false ∧ s.quiescent (s.region 0 1) = false ∧
       1000 * 2 ≤ (s.tai - (s.region 0 1).wdStart).toNat ∧ (s.region 0 1).area = none ∧
       (({ s with tai := 1999 } : State).tai - (s.region 0 1).wdStart).toNat < 1000 * 2) ∧
    (let s : State := { withRegion Region.reset with
       handles := [(1 * 65536 + 5, { count := 1, st := .bound, node := 0, serial := serial5, base := 0 })] }
     s.saveArea 1 0x0005000100000000 = some (page5 * 65536)) := by
  refine ⟨by decide, by decide, by decide, ⟨by unfold CutOf; decide, by decide, by decide, by decide, by decide⟩,
    ⟨by unfold CutOf; decide, by decide, by decide⟩, ⟨by unfold CutOf; decide, by decide⟩,
    ⟨by unfold CutOf; decide, by decide, by decide, by decide⟩,
    ⟨by unfold CutOf; decide, ⟨by decide, by decide, rfl, by decide, by decide⟩⟩,
    ⟨by unfold CutOf; decide, by decide, ⟨by decide, by decide, rfl, by decide, by decide⟩⟩, by decide, by decide, by decide⟩

/-- Element 0 in region 1, which a SAVE with `.rel` cuts; a token sent in the region is on its way to it. -/
def leaving5 : State :=
  ((cutting { cut5 none [] with kind := 3 }).modDie 0 fun D => { D with regions := D.regions.map fun x =>
    (x.1, { x.2 with elems := [0] }) }).modProc 0 fun P =>
      { P with region := some 1, ins := vset P.ins 0 { InChan.reset with link := some (dataTok 0 1), linkSrc := some (0, 1) } }

theorem witness_CutEvents_waiting :
    -- a SAVED region whose items wait
    (let s := (withRegion { Region.reset with st := .saved, entering := [.event 0 7] })
     (s.region 0 1).st = .saved ∧ (s.region 0 1).entering = [.event 0 7]) ∧
    -- a token that a unit of the region sends late
    (let c := { cut5 none [] with kind := 3 }
     CutOf leaving5 0 1 c ∧ c.missed = false ∧ leaving5.hasCodec 0 (.cut 1) = true ∧ leaving5.nextTake c = none ∧
       leaving5.lateItems 0 1 c = [{ item := .token (.elem 0 0) (dataTok 0 1), at_ := none }] ∧
       (cutting (cut5 none [])).lateItems 0 1 (cut5 none []) = []) ∧
    -- a store packet of the area to its peer is not acknowledged yet; all are
    (let c := cut5 (some 4) []
     let s : State := { cutting c with fabric := { (cutting c).fabric with remote := [(9, 2, cutUnit 0 1, 1)] } }
     CutOf s 0 1 c ∧ s.areaInFlight 0 1 = true ∧ (cutting c).areaInFlight 0 1 = false ∧ c.sent = 0) ∧
    -- a watchdog whose area is an object of node 2
    (let R := { Region.reset with st := .running, job := 1, wd := put 2 48, elems := [0], area := some 0x0005000100000000 }
     let s0 := (inDomain false (leafAt 0) .opened).modDie 0 fun D => { D with regions := [(1, R)] }
     let s : State := { s0.modProc 0 (fun P => { P with ins := vset P.ins 0 { InChan.reset with q := [.tok (dataTok 0 1)] } }) with
       tai := 2000
       handles := [(1 * 65536 + 5, { count := 1, st := .bound, node := 2, serial := serial5, base := 0 })]
       known := [(wideNum 2 serial5 0 / 2 ^ 56, { Known.reset with code := 0, size := 65536 })] }
     fldN (s.region 0 1).wd 48 16 = 2 ∧ (s.region 0 1).st = .running ∧ (s.region 0 1).cut = none ∧
       s.regionFaulted 0 1 (s.region 0 1) = false ∧ s.quiescent (s.region 0 1) = false ∧
       1000 * 2 ≤ (s.tai - (s.region 0 1).wdStart).toNat ∧ (s.region 0 1).area = some 0x0005000100000000 ∧
       s.saveArea 1 0x0005000100000000 = none ∧ s.peerArea 0 1 0x0005000100000000 = some (wideNum 2 serial5 0) ∧
       (s.knownOf (wideNum 2 serial5 0)).code = 0) :=
  ⟨by decide, ⟨by unfold CutOf; decide, by decide, by decide, by decide, by decide, by decide⟩,
    ⟨by unfold CutOf; decide, by decide, by decide, by decide⟩, by decide⟩

/-! ### Witnesses: engines, operators, routers and debug access -/

/-- A template of BF16 operands in frames 0 and 1, its destination frame 2, with chains of `n` operations. -/
def template (n : Nat) : MxTmpl :=
  { w0 := put n 16, w1 := put 1 34 ||| put 2 14, user := 0, proc := 4096, region := none, pri := 1, n := 0, chaining := false
    inChain := 0, partials := [], queued := false, fromFrames := false, closing := false, wrote := 0 }

/-- An operation of template 0 with priority `pri`. -/
def operation (pri : BitVec 2) (latched : Bool) : MxOp :=
  { t := 0, pri := pri, epri := pri.toNat, born := 0, latchStart := 0, latch := [], posted := false, latched := latched
    steps := 0, started := 0, overtaker := false, result := List.replicate 1024 0, flags := 0, wrote := 0, emit := none }

/-- Engine 0 of cluster 0 is `x`, with template 0 bound; the operand frames are FULL. -/
def engine (n now : Nat) (f : Mx → Mx) : State :=
  { State.reset.modCluster 0 (fun C => { C with tiles := [(0, 2), (1, 2)]
                                                mx := [(0, f { Mx.reset with tmpl := [(0, some (template n))] })] }) with cycle := now }

/-- The 1,024 words of the operand frames, all read. -/
def latched0 : KMap (Option Word) := (List.range 1024).map fun i => (i, some 0)

theorem latched0_get {a : Nat} (h : a < 1024) : latched0.get none a = some 0 := by
  have all : ∀ l : List Nat, a ∈ l → KMap.get (none : Option Word) (l.map fun i => (i, some 0)) a = some 0 := by
    intro l
    induction l with
    | nil => simp
    | cons b l ih =>
      intro m
      by_cases e : a = b
      · simp [KMap.get, e]
      · simpa [KMap.get, e] using ih (by simpa [e] using m)
  exact all _ (List.mem_range.2 h)

theorem latched0_full : (template 1).latchNext 0 latched0 = none := by
  have own : (template 1).ownWords 0 ++ (template 1).rowWords 0 latched0 =
      (frameWords 0 0 512 ++ []) ++ (frameWords 0 1 512 ++ []) ++ [] ++ [] := rfl
  unfold MxTmpl.latchNext
  rw [own, List.find?_eq_none]
  intro a m
  simp only [List.append_nil, List.mem_append, frameWords, List.mem_map, List.mem_range, frameByte] at m
  rw [latched0_get (by omega)]
  simp

/-- An entry of template 0 waits. -/
def waiting0 : MxEntry := { t := 0, pri := 1, born := 0 }

theorem witness_MatrixEvents :
    MayEnter (engine 1 0 id) 0 0 0 (template 1) ∧
    (let s := engine 1 5 fun x => { x with queue := [waiting0] }
     (s.mx 0 0).standby = none ∧ (s.mx 0 0).queue = [waiting0] ∧ (s.mx 0 0).slot 0 = some (template 1) ∧
       s.tmplLive 0 0 (template 1) = true) ∧
    -- a latch reads its first word; that word is bad; it has all its words, at and before its cycle
    (let s := engine 1 16 fun x => { x with standby := some (operation 1 false) }
     (s.mx 0 0).standby = some (operation 1 false) ∧ (s.mx 0 0).slot 0 = some (template 1) ∧
       (template 1).latchNext 0 (operation 1 false).latch = some 0 ∧ s.sbad 0 8 = false ∧
       (s.modCluster 0 fun C => { C with badWords := [0] }).sbad 0 8 = true ∧ (operation 1 false).posted = false) ∧
    ((template 1).latchNext 0 latched0 = none ∧ (template 1).latchCycles = 16 ∧ (engine 1 16 id).islandCycle 0 = 16 ∧
      (engine 1 15 id).islandCycle 0 = 15) ∧
    -- a latched operation of a higher priority overtakes; one of the same does not
    (let s := engine 1 3 fun x => { x with standby := some (operation 2 true), running := some (operation 1 true) }
     (operation 1 true).pri.toNat < (operation 2 true).epri ∧ (s.mx 0 0).shadow = none ∧
       (operation 1 true).done s.cycle < (s.mx 0 0).total (operation 1 true) ∧
       (operation 1 true).epri ≤ (operation 1 true).pri.toNat) ∧
    -- the end of the computation, with a parked operation, with a latched one, and with neither
    (∀ p ∈ [none, some (operation 1 true)], ∀ o ∈ [none, some (operation 1 true)],
      let s := engine 1 16 fun x => { x with running := some (operation 1 true), shadow := p, standby := o }
      (s.mx 0 0).running = some (operation 1 true) ∧ (s.mx 0 0).total (operation 1 true) ≤ (operation 1 true).done s.cycle) ∧
    -- a cancelled template with nothing past its entry
    (let T := { template 1 with closing := true }
     let s := engine 1 0 fun x => { x with tmpl := [(0, some T)] }
     (s.mx 0 0).finished = [] ∧ (s.mx 0 0).slot 0 = some T ∧ (s.mx 0 0).active 0 = false ∧ T.spills = false ∧
       ∀ t0, t0 < 8 → (engine 1 0 id).mxDue 0 0 t0 = false) ∧
    -- a delivery inside a chain, and at its end: the first word, and with all words written
    (let s := engine 2 0 fun x => { x with finished := [operation 1 true] }
     (s.mx 0 0).finished = [operation 1 true] ∧ (s.mx 0 0).slot 0 = some (template 2) ∧
       (template 2).inChain + 1 ≠ (template 2).chain ∧ (template 1).inChain + 1 = (template 1).chain ∧
       (template 1).emitd = false ∧ (operation 1 true).wrote < 512 * (template 1).dFrames.length ∧
       512 * (template 1).dFrames.length ≤ ({ operation 1 true with wrote := 512 } : MxOp).wrote ∧
       ({ template 1 with w0 := put 1 16 ||| put 1 39 } : MxTmpl).emitd = true) ∧
    (operation 1 true).result.length = 1024 ∧
    -- tokens of a streamed destination
    (∀ j, j < 4 → (([[endTok 1], [endTok 1], [endTok 1], [endTok 1]] : List (List Token)).getD j []).length ≤ 1 ∧
      ((engine 1 0 id).opOut 0 0 j).length < 2) := by
  refine ⟨⟨by decide, by decide, by decide, by decide, by decide, by decide, by decide, by decide, by decide,
    fun i h => absurd h (by omega)⟩, by decide, by decide, ⟨latched0_full, by decide⟩, by decide, by decide, by decide, by decide,
    by simp [operation], by decide⟩

/-- Array 0 of cluster 0 is `x` and its input begins with `t`. -/
def array (x : Esp) (t : Token) : State :=
  State.reset.modCluster 0 fun C =>
    { C with esp := [(0, x)], opIn := C.opIn.set InChan.reset 16 { InChan.reset with q := [.tok t] } }

/-- A bound graph of one array with eight lanes and one row; `b` are the lanes gathered. -/
def graph8 (b : List (BitVec 16)) : Esp :=
  { Esp.reset with st := .bound, narr := 1, rows := 1, sect := { nodes := [], taps := [], lanes := 8 }, block := b, bind := put 1 4 }

theorem witness_EspalierEvents :
    (∀ t ∈ [{ kind := .ctrl, tag := 0, payload := 0 }, dataTok 2 1, endTok 6], ∀ b ∈ ([[], [0, 0, 0, 0]] : List (List (BitVec 16))),
      TakesTokens (array (graph8 b) t) 0 0 ∧ ((array (graph8 b) t).inAt (.oper 0 (espOp 0) 0)).q = [.tok t]) ∧
    ((graph8 []).block.length + 4 < (graph8 []).sect.lanes ∧
      (graph8 [0, 0, 0, 0]).sect.lanes ≤ (graph8 [0, 0, 0, 0]).block.length + 4 ∧ (graph8 []).items = [] ∧ (graph8 []).head = 0 ∧
      (graph8 []).narr = 1 ∧ (endTok 6).isEnd = true ∧ markRank (endTok 6).payload < 7) ∧
    (State.reset.esp 0 0).st = .free ∧
    -- the output: the last token of a marker of rank 3, and an empty queue, closing or not
    (let H := { graph8 [] with outq := [([endTok 3], false)] }
     let s := array H (dataTok 2 0)
     s.esp 0 0 = H ∧ H.st ≠ .free ∧ s.eventHeld 0 (espRecord 0 0 0 0) 46 = false ∧ (s.opOut 0 (espOp 0) 0).length < 2 ∧
       3 ≤ markRank (endTok 3).payload ∧ fldN H.bind 4 2 = 1) ∧
    (∀ c ∈ [true, false],
      let H := { graph8 [] with closing := c }
      (array H (dataTok 2 0)).esp 0 0 = H ∧ H.outq = []) := by
  refine ⟨?_, by decide, by decide, by decide, by decide⟩
  unfold TakesTokens
  decide

/-- Cluster 0 with input `i` of operator `k` beginning with `ts`. -/
def feeding (k i : Nat) (ts : List Token) (f : Cluster → Cluster) : State :=
  State.reset.modCluster 0 fun C => f { C with opIn := C.opIn.set InChan.reset (4 * k + i) { InChan.reset with q := ts.map .tok } }

theorem sees_of {s : State} {cl k i : Nat} {t : Token} {q : List Entry}
    (h : s.opLive cl k = true ∧ (s.inAt (.oper cl k i)).q = .tok t :: q) : OperatorSees s cl k i t q := h

/-- A control token. -/
def ctrlTok : Token := { kind := .ctrl, tag := 0, payload := 0 }

/-- The normaliser 0 of cluster 0 is on and sees `t`, having word 0 when `w`. -/
def normalising (t : Token) (w : Option Word) : State :=
  feeding (nrmOp 0) 0 [t] fun C => { C with nrm := [(0, { Nrm.reset with ctrl := 1, w0 := w })] }

/-- The converter 0 of cluster 0 is on with the operation `op` for tag 1 and sees `t` on its stream, or has it to steer. -/
def converting (op n : Nat) (steer : Bool) : State :=
  feeding (cvtOp 0) 1 [dataTok 1 0] fun C => { C with cvt := [(0, { Cvt.reset with
    ctrl := 1, map := put op 4, gathered := List.replicate n 0
    steerQ := if steer then [{ tok := dataTok 1 0, port := .elem 0 0, id := 3, cbslot := 0 }] else [] })] }

/-- The sparse-update unit 0 of cluster 0 sees an address and a value, and holds `us` in its window. -/
def updating (us : List Upd) (now : Nat) : State :=
  let s := feeding (suuOp 0) 0 [dataTok 0 0x100] fun C =>
    { C with opIn := C.opIn.set InChan.reset (4 * suuOp 0 + 1) { InChan.reset with q := [.tok (dataTok 0 5)] }
             suu := [(0, { Suu.reset with ctrl := put 1 0 ||| put 9 8, win := us })] }
  { (s.modDie 0 fun D => { D with regions := [(1, { Region.reset with st := .running, job := 1, elems := [0], clusters := [0] })] }).modProc
      0 (fun P => { P with region := some 1 }) with cycle := now }

/-- The reducer of cluster 0 is on with inputs 0 and 1, which begin with `a` and `b`. -/
def reducing (mode : Word) (a b : Token) : State :=
  feeding redOp 0 [a] fun C =>
    { C with opIn := C.opIn.set InChan.reset (4 * redOp + 1) { InChan.reset with q := [.tok b] }
             red := { ctrl := mode, status := 0 } }

theorem witness_OperatorEvents :
    -- the normaliser: word 0, word 1, no partial, an end marker, a control token
    (∀ o ∈ [(dataTok 6 1, none), (dataTok 6 1, some (5 : Word)), (dataTok 0 1, none), (endTok 2, none), (ctrlTok, none)],
      let s := normalising o.1 o.2
      OperatorSees s 0 (nrmOp 0) 0 o.1 [] ∧ bitOf (s.nrm 0 0).ctrl 0 = true ∧ (s.nrm 0 0).w0 = o.2 ∧
        (s.opOut 0 (nrmOp 0) 0).length < 2) ∧
    -- the converter: its last operation of one token, gathering two and three, and a code it rejects
    (∀ o ∈ [(10, 0), (11, 2), (11, 3), (12, 0)],
      let s := converting o.1 o.2 false
      OperatorSees s 0 (cvtOp 0) 1 (dataTok 1 0) [] ∧ bitOf (s.cvt 0 0).ctrl 0 = true ∧ (s.cvt 0 0).steerQ = [] ∧
        (s.cvt 0 0).pend = [] ∧ fldN (s.cvt 0 0).map 4 4 = o.1 ∧ (s.cvt 0 0).gathered.length = o.2 ∧
        (s.opOut 0 (cvtOp 0) 0).length < 2) ∧
    -- a steered token under each kind of operation
    (∀ o ∈ [0, 6, 7, 8, 11, 12],
      let s := converting o 0 true
      (s.cvt 0 0).steerQ = [{ tok := dataTok 1 0, port := .elem 0 0, id := 3, cbslot := 0 }] ∧ s.opLive 0 (cvtOp 0) = true ∧
        (s.cvt 0 0).streamTurn = false) ∧
    -- an update enters
    (let s := updating [] 0
     OperatorSees s 0 (suuOp 0) 0 (dataTok 0 0x100) [] ∧ (s.inAt (.oper 0 (suuOp 0) 1)).q = [.tok (dataTok 0 5)] ∧
       (s.suu (.cluster 0 0)).en = true ∧ fldN (s.suu (.cluster 0 0)).op 0 4 < 10 ∧ aOff 0x100 < 2 ^ 30 ∧
       s.shortFault 0 ((s.regionOfOp 0 (suuOp 0)).map fun g => (s.region 0 g).job) 0x100 (atomLen 0) .atomic = none ∧
       s.sbad 0x100 (atomLen 0) = false ∧ s.pendingUnits 0x100 (atomLen 0) = [] ∧
       (s.suu (.cluster 0 0)).takes 0x100 0 = true) ∧
    -- a window of one update closes at its time, and not before
    (let u : Upd := { loc := 0x100, op := 0, val := 5, src := none }
     let s := updating [u] 9
     (s.suu (.cluster 0 0)).win = [u] ∧ u.loc % 2 ^ 22 < 0x3FF000 ∧ (s.opOut 0 (suuOp 0) 0).length < 2 ∧
       fldN (s.suu (.cluster 0 0)).ctrl 8 8 = 9 ∧ (s.suu (.cluster 0 0)).lastAt + 9 ≤ s.cycle ∧
       (updating [u] 8).cycle < 0 + 9 ∧ (updating [u] 8).suuMarked (.cluster 0 0) = false) ∧
    -- the reducer: two data tokens, two markers, and one of each
    (∀ ab ∈ [(dataTok 0 1, dataTok 0 2), (endTok 1, endTok 2), (endTok 1, dataTok 0 2)],
      let s := reducing 0x27 ab.1 ab.2
      bitOf (s.cluster 0).red.ctrl 0 = true ∧ (s.cluster 0).red.inputs = [0, 1] ∧ (s.cluster 0).red.int64 = true ∧
        s.opLive 0 redOp = true ∧ (s.inAt (.oper 0 redOp 0)).q = [.tok ab.1] ∧ (s.inAt (.oper 0 redOp 1)).q = [.tok ab.2] ∧
        (s.opOut 0 redOp 0).length < 2) := by
  unfold OperatorSees
  exact ⟨by decide, by decide, by decide, by decide, by decide, by decide⟩

/-- The same unit with another operation, and another address token. -/
def pairing (op : Word) (a : Token) : State :=
  (updating [] 0).modCluster 0 fun C =>
    { C with suu := [(0, { Suu.reset with ctrl := put 1 0 ||| put 9 8, op := op })]
             opIn := C.opIn.set InChan.reset (4 * suuOp 0) { InChan.reset with q := [.tok a] } }

theorem witness_OperatorEvents_dropped :
    -- no operation, an address of another tag, and the first byte of a sync page
    (∀ x ∈ ([(10, dataTok 0 0x100), (0, dataTok 3 0x100), (0, dataTok 7 0x3FF000)] : List (Word × Token)),
      let s := pairing x.1 x.2
      OperatorSees s 0 (suuOp 0) 0 x.2 [] ∧ (s.inAt (.oper 0 (suuOp 0) 1)).q = [.tok (dataTok 0 5)] ∧
        (s.suu (.cluster 0 0)).en = true ∧ x.2.kind = .data) ∧
    10 ≤ fldN ((pairing 10 (dataTok 0 0x100)).suu (.cluster 0 0)).op 0 4 ∧
    aSlot 0x3FF000 = 0 ∧ aOff 0x3FF000 < 2 ^ 30 ∧ 0x3FF000 ≤ aOff 0x3FF000 % 2 ^ 22 ∧ aOff 0x3FEFF8 % 2 ^ 22 < 0x3FF000 := by
  unfold OperatorSees
  decide

/-- A token in a router with route tag 4. -/
def routed (t : Token) : RTok := { route := 4, tok := t, sender := none, ent := none, saved := [] }

/-- Router 3 of cluster 0 has `x` at its input from the north and the entry `e` for route tag 4; input channel 0 of the element
there holds a token on its link when `full`. -/
def router3 (x : RTok) (e : BitVec 16) (full : Bool) : State :=
  (State.reset.modCluster 0 fun C =>
    { C with routers := [(3, { Router.reset with table := [(4, e)], inq := vset Router.reset.inq 0 [x] })] }).modProc 3 fun P =>
      { P with ins := vset P.ins 0 { InChan.reset with link := if full then some (dataTok 0 0) else none } }

/-- Router 3 in region 1, whose image is being written. -/
def cutRouter (t : Token) : State :=
  ((router3 (routed t) 0x10 false).modProc 3 fun P => { P with region := some 1 }).modDie 0 fun D =>
    { D with regions := [(1, { Region.reset with st := .running, job := 1, elems := [3], cut := some (cut5 (some 4) []) })] }

/-- Core 0 reads or writes DBGDATA while DBGADDR is `a`. -/
def debugging (a : Word) (r : Req) : State := asking (((regions .loaded []).setPkgReg 1080 4).setCtlReg 0 2048 a) r

theorem atRouter_of {s : State} {cl r : Nat} {src : RouterIn} {x : RTok} {rest : List RTok}
    (h : ((s.router cl r).stuck.any fun y => y.1 == src) = false)
    (q : vget (s.router cl r).inq (rinIdx src) = x :: rest) (f : frontOf (s.srcPort cl r src) = none) :
    AtRouter s cl r src x rest := ⟨h, .inl ⟨q, f⟩⟩

theorem witness_RouteRegionAndDebugEvents :
    -- a token with room at its way out, a full way out, and an entry of 0
    AtRouter (router3 (routed (dataTok 0 1)) 0x10 false) 0 3 (.mesh 0) (routed (dataTok 0 1)) [] ∧
    (∀ w, w < 2 → bitOf (((router3 (routed (dataTok 0 1)) 0x10 false).router 0 3).wp.get 0 (3 * w)) 31 = false) ∧
    (let s := router3 (routed (dataTok 0 1)) 0x10 false
     routeEntry s 0 3 (routed (dataTok 0 1)) = 0x10 ∧ s.cutHolds 0 3 (routed (dataTok 0 1)) = false ∧
       ∀ b, b < 16 → (0x10 : BitVec 16).getLsbD b = true → s.egressRoom (egressOf 0 3 b) = true) ∧
    -- an entry that has changed since the token entered; an input that an image holds it for; a CTRL token while the image is written
    (routeEntry (router3 (routed (dataTok 0 1)) 0x10 false) 0 3 { routed (dataTok 0 1) with ent := some 0x20 } = 0x20 ∧
      ({ routed (dataTok 0 1) with saved := [.elem 3 0] } : RTok).takes (egressOf 0 3 4) = false) ∧
    (let t : Token := { kind := .ctrl, tag := 0, payload := 0x405 }
     (cutRouter t).cutHolds 0 3 (routed t) = true ∧ vget ((cutRouter t).router 0 3).inq (rinIdx (.mesh 0)) = [routed t]) ∧
    (let s := router3 (routed (dataTok 0 1)) 0x10 true
     s.egressRoom (egressOf 0 3 4) = false ∧ (routed (dataTok 0 1)).takes (egressOf 0 3 4) = true ∧ (routeEntry s 0 3 (routed (dataTok 0 1))).getLsbD 4 = true) ∧
    (let s := router3 (routed (dataTok 0 1)) 0 false
     routeEntry s 0 3 (routed (dataTok 0 1)) = 0 ∧ s.jobOfRegion 0 (s.regionAt 0 3) < 256) ∧
    -- a control token of another generation, and of the last one
    (let t : Token := { kind := .ctrl, tag := 0, payload := 0x405 }
     t.kind = .ctrl ∧ fld t.payload 0 8 ≠ ((router3 (routed t) 0x10 false).router 0 3).lastgen ∧
       (router3 (routed t) 0x10 false).cutAt 0 ((router3 (routed t) 0x10 false).regionAt 0 3) = false ∧
       fld (0x400 : Word) 0 8 = ((router3 (routed t) 0x10 false).router 0 3).lastgen) ∧
    -- a region at rest, with its counter at 1 and at 2, and one that is not running
    (∀ n ∈ [1, 2],
      let s := ((regions .running []).modCtx 0 0 fun C => { C with rstate := .halt }).setCounter 0 (cKey 2 0 1)
        { Counter.reset with st := 0, count := n, job := 1 }
      s.regionDone 0 1 = true ∧ (s.counter 0 (cKey 2 0 1)).st = 0 ∧ (s.counter 0 (cKey 2 0 1)).count = n) ∧
    (State.reset.region 0 1).st ≠ .running ∧
    -- DBGDATA, for each item
    (((debugging (put 1 62) (reqOf .ld 0x80004008 0)).proc 4096).pending[0]? = some (reqOf .ld 0x80004008 0) ∧
      (reqOf .ld 0x80004008 0).stage = 0 ∧ aSlot (reqOf .ld 0x80004008 0).a = 0 ∧ aOff (reqOf .ld 0x80004008 0).a / 2 ^ 30 = 2 ∧
      aOff (reqOf .ld 0x80004008 0).a % 2 ^ 16 / 8 = 2049) ∧
    (∀ n ∈ [0, 1, 2, 3], (debugging (put n 62) (reqOf .ld 0x80004008 0)).dbgAllowed 0 = true ∧
      fldN ((debugging (put n 62) (reqOf .ld 0x80004008 0)).ctlReg 0 2048) 62 2 = n) ∧
    (storing1 (debugging 0 (regStore 2049 1)) 2049 1 ∧
      (asking State.reset (regStore 2049 1)).dbgAllowed 0 = false) := by
  refine ⟨atRouter_of (by decide) (by decide) (by decide), by decide, by decide, by decide, by decide, by decide, by decide, by decide,
    by decide, by decide, by decide, by decide, ?_, by decide⟩
  show StoresTo _ _ _ _ _
  unfold StoresTo
  decide

/-- Element 3 sends a token by its output channel 1. -/
def sending3 : State :=
  (router3 (routed (dataTok 0 1)) 0x10 false).modProc 3 fun P => { P with outs := vset P.outs 1 [.tok (dataTok 0 1)] }

theorem witness_RouteRegionAndDebugEvents_sent :
    let r := (sending3.router 0 3).outTag (.el 1)
    AtRouter sending3 0 3 (.el 1)
      { route := r, tok := dataTok 0 1, sender := none, ent := some ((sending3.router 0 3).entryOf r), saved := [], pos := 0 } [] :=
  ⟨by decide, .inr (by decide)⟩

/-! ### Witnesses: requests served and dispatch -/

theorem witness_MemoryEngineEvents :
    (let s := State.reset.modProc 0 fun P => { P with resps := [{ rid := 1, words := [7], tag := 0 }] }
     (s.proc 0).resps[0]? = some { rid := 1, words := [7], tag := 0 }) ∧
    -- a release store whose context has an earlier access pending, and one without
    (let r := reqOf .strel 0x100 5 2
     let e := { reqOf .st 0x200 0 with rid := 0 }
     let s := State.reset.modProc 4096 fun P => { P with reqs := [e, r] }
     AtPort s 4096 1 r .strel ∧ s.awaits 4096 r.ctx r.rid r.mode false = true) ∧
    (let r := reqOf .strel 0x100 5 1
     AtPort (asking State.reset r) 4096 0 r .strel ∧ (asking State.reset r).awaits 4096 r.ctx r.rid r.mode false = false ∧
       ReachesKey (asking State.reset r) 4096 r 8 .store 0x100 ∧ 0x100 % 2 ^ 22 < 0x3FF000 ∧ 0x100 % 8 = 0) ∧
    -- one that is not aligned: a byte with more to come, and the last one
    (let r (ws : List Word) : Req := { reqOf .strel 0x101 5 1 with data := ws }
     ReachesKey (asking State.reset (r [])) 4096 (r []) 8 .store 0x101 ∧ 0x101 % 8 ≠ 0 ∧ (r []).data.length + 1 < 8 ∧
       8 ≤ (r (List.replicate 7 0)).data.length + 1) ∧
    -- fences
    (∀ k ∈ [ReqKind.fence, .flush],
      let r : Req := { reqOf k 0 0 1 with stage := 3 }
      ((asking State.reset r).proc 4096).pending[0]? = some r ∧
        (asking State.reset r).awaits 4096 r.ctx r.rid r.mode (r.kind == .flush) = false) ∧
    (let r : Req := { reqOf .fence 0 0 2 with stage := 3 }
     let s := State.reset.modProc 4096 fun P => { P with reqs := [{ reqOf .st 0x200 0 with rid := 0 }, r] }
     (s.proc 4096).pending[1]? = some r ∧ s.awaits 4096 r.ctx r.rid r.mode (r.kind == .flush) = true) ∧
    -- SEAL of an OPEN object, and of one that is not; PERSIST of a SEALED and of a DURABLE one
    (∀ st ∈ [ObjSt.opened, .sealed, .durable],
      let r : Req := { reqOf .seal 0 0 with stage := 3, wide := page5 * 65536 }
      ((asking (paged (leafAt 0) st) r).proc 4096).pending[0]? = some r ∧ wnSerial r.wide = serial5 ∧
        ((asking (paged (leafAt 0) st) r).obj (wnSerial r.wide)).st = st ∧
        (asking (paged (leafAt 0) st) r).writesInFlight r.wide = false) ∧
    (({ paged (leafAt 0) .sealed with store := { Store.reset with stopped := true } } : State).store.stopped = true) ∧
    -- reclamation
    (((paged (leafAt 0) .deadPending).obj serial5).st = .deadPending ∧ (paged (leafAt 0) .deadPending).inFlight serial5 = false ∧
      (paged (leafAt 0) .deadPending).graphUses serial5 = false) := by
  refine ⟨by decide, ⟨by unfold AtPort; decide, by decide⟩,
    ⟨by unfold AtPort; decide, by decide, ⟨by decide, .inl (by decide)⟩, by decide, by decide⟩,
    ⟨⟨by decide, .inl (by decide)⟩, by decide, by decide, by decide⟩, by decide, by decide, by decide, by decide, by decide⟩

/-- The bytes of `r`'s handle reach that page of HBM. -/
def bound5 (acc : Acc) (l : Leaf) (st : ObjSt) : State × Req :=
  let r : Req := reqOf (if acc = .load then .ld else .st) 0x0005000100000008 7 3 (some 1)
  (asking { paged l st with handles := [(65536 + 5, { count := 1, st := .bound, node := 0, serial := serial5, base := 0 })] } r, r)

/-- A load copy whose position 0 has begun, with the requests `qs`, and `n` words asked for. -/
def begun (n : Nat) (qs : List CopyReq) : Copy :=
  { copy0 64 0 with next := 1, active := [position 0 []], issued := n, reqs := qs }

/-- Its request for the first line, with the bytes `bs` read. -/
def lineReq (bs : List Byte) : CopyReq :=
  { n := 0, len := 8, got := bs, out := [], put := 0, line := some (0x400 / 64), phase := .going }

/-- A packet that asks this home for the state of that object, waiting there. -/
def query5 : HomeReq := { pkt := { packet 10 0 1 with dtag := 9, addr := page5 * 65536 }, flying := false, page := 0, data := [] }

/-- A peer's request `k` of 16 bytes waits at its home, which has passed translation and has performed `n` of its words. -/
def flying5 (k : Packet) (n : Nat) : HomeReq :=
  { pkt := k, flying := true, page := page5 + 2 ^ 104, data := List.replicate n 0 }

theorem witness_MemoryRequestsServed :
    -- short addresses in scratchpad: a byte and eight bytes; and an atomic that is not aligned
    (∀ m ∈ [0, 7], AtPort (asking State.reset (reqOf .ld 0x100 0 m)) 4096 0 (reqOf .ld 0x100 0 m) .ld) ∧
    ReachesKey (asking State.reset (reqOf .ld 0x100 0 0)) 4096 (reqOf .ld 0x100 0 0) 1 .load 0x100 ∧
    -- eight bytes that are not aligned: one with more to come, and the last
    (ReachesKey (asking State.reset (reqOf .ld 0x103 0 7)) 4096 (reqOf .ld 0x103 0 7) 8 .load 0x103 ∧ 0x103 % 8 ≠ 0 ∧
      (reqOf .ld 0x103 0 7).data.length + 1 < 8 ∧ 8 ≤ ({ reqOf .ld 0x103 0 7 with data := List.replicate 7 0 } : Req).data.length + 1) ∧
    (ReachesKey (asking State.reset (reqOf .st 0x103 0 7)) 4096 (reqOf .st 0x103 0 7) 8 .store 0x103) ∧
    ReachesKey (asking State.reset (reqOf .ldacq 0x3FEFF8 0)) 4096 (reqOf .ldacq 0x3FEFF8 0) 8 .load 0x3FEFF8 ∧
    ReachesKey (asking State.reset (reqOf .atom 0x104 1 0)) 4096 (reqOf .atom 0x104 1 0) 8 .atomic 0x104 ∧
    (0x104 % atomLen 0 ≠ 0 ∧ 0x108 % atomLen 0 = 0 ∧ ((asking State.reset (reqOf .atom 0x104 1 0)).suu (.cluster 0 0)).en = false) ∧
    ReachesKey (asking State.reset (reqOf .cas 0x108 1)) 4096 (reqOf .cas 0x108 1) 8 .atomic 0x108 ∧
    -- local memory
    ReachesKey (asking State.reset (reqOf .st 0x40000010 1)) 4096 (reqOf .st 0x40000010 1) 8 .store (localKey 4096 0x10) ∧
    -- an object in HBM, by its handle and by its wide address
    ReachesKey (bound5 .load (leafAt 0) .durable).1 4096 (bound5 .load (leafAt 0) .durable).2 8 .load (wideKey (page5 * 65536 + 8)) ∧
    InHbm (paged { leafAt 0 with w := true } .opened) 4096 (reqOf .stw 0 0) (page5 * 65536) 8 .store ∧
    -- a stale handle
    (let s := bound5 .load (leafAt 0) .durable
     (s.1.handle 1 (aSlot 0x0005000200000008)).count.toNat ≠ aCheck 0x0005000200000008 ∧ aSlot 0x0005000200000008 ≠ 0 ∧
       (s.1.handle 1 6).st ≠ .bound) ∧
    -- a fence, a flush
    (∀ k ∈ [ReqKind.fence, .flush], AtPort (asking State.reset (reqOf k 0 0)) 4096 0 (reqOf k 0 0) k) ∧
    -- a load copy issues its first request, reads its first word and puts it into the ring
    (let c := begun 0 []
     (copying c).copy (128 * 0 + 0) = some c ∧ c.via = 0 ∧ (copying c).copyStalled (128 * 0 + 0) = false ∧
       (copying c).mayIssue c = true ∧ 0 * c.words + 0 = c.issued ∧ 0 < c.due c.next ∧ min (8 - 0 % 8) (c.due c.next - 0) = 8 ∧
       ∀ i, i < 8 → c.known (0 + i) = true) ∧
    (let q := lineReq []
     let c := begun 8 [q]
     (copying c).copy (128 * 0 + 0) = some c ∧ c.isStore = false ∧ c.reqs = [q] ∧ q.phase = .going ∧ 0 < c.words ∧
       q.n ≤ 0 * c.words + 0 ∧ 0 * c.words + 0 < q.n + q.len ∧ q.put < q.len ∧
       q.got.length < 8 * q.len ∧ 8 * q.n + q.got.length < c.elems * c.esize ∧ c.run 0 64 0 = 8 ∧ min (8 * q.len - q.got.length) (c.elems * c.esize - 0) = 64 ∧
       c.farByteAt 0 = some 0 ∧ c.farScratch = true ∧ (copying c).sbad 0x400 8 = false ∧ (copying c).pendingUnits 0x400 8 = [] ∧
       q.line = some (0x400 / 64)) ∧
    (begun 8 [lineReq []]).farByte 0 8 = .ok 0x400 ∧
    (let q := lineReq (List.replicate 64 7)
     let c := begun 8 [q]
     8 * q.len ≤ q.got.length ∧ q.put < q.len ∧ q.n + q.put = 0 * c.words + 0 ∧ (copying c).pendingUnits (c.ringAddr 0 0) 8 = [] ∧
       ∃ y ∈ c.active, y.p = 0) ∧
    -- a peer's query
    (let s := ((paged (leafAt 0)).setCtlReg 0 7 9).setPkgReg 1080 1
     let s : State := { s with fabric := { s.fabric with homeq := [query5] } }
     let k := query5.pkt
     s.fabric.homeq[0]? = some query5 ∧ k.ptype = 10 ∧ k.op = 0 ∧ k.dtag ≠ 0 ∧
       k.addr / 2 ^ 56 % 2 ^ 64 = serial5 ∧ (s.obj serial5).st ≠ .unissued ∧
       s.dtag (s.obj serial5).die (s.obj serial5).job = k.dtag) ∧
    -- parts of a peer's read and write of two words: the first of them, and the last
    (∀ x ∈ ([(0, .load), (1, .store)] : List (Nat × Acc)),
      HomeReaches home1 (ask1 x.1 0 16) (page5 + 2 ^ 104) true (2 ^ 120 + page5 * 65536) 16 x.2) ∧
    (homeGran (2 ^ 120 + page5 * 65536) 16 = 8 ∧ 8 * ((flying5 (ask1 0 0 16) 0).data.length + 1) < 16 ∧
      16 ≤ 8 * ((flying5 (ask1 0 0 16) 1).data.length + 1)) := by
  refine ⟨by unfold AtPort; decide, ⟨by decide, .inl (by decide)⟩,
    ⟨⟨by decide, .inl (by decide)⟩, by decide, by decide, by decide⟩, ⟨by decide, .inl (by decide)⟩, ⟨by decide, .inl (by decide)⟩,
    ⟨by decide, .inl (by decide)⟩, by decide, ⟨by decide, .inl (by decide)⟩, ⟨by decide, .inr (.inl (by decide))⟩,
    ⟨by decide, .inr (.inr ⟨page5 * 65536 + 8, .inr ⟨by decide, by decide, 1, by decide, rfl⟩, rfl, by decide, rfl, by decide, by decide⟩)⟩,
    ⟨by decide, rfl, by decide, by decide⟩, by decide, by unfold AtPort; decide, by decide, by decide,
    rfl, by decide, by decide, ?_, by decide⟩
  intro x m
  simp only [List.mem_cons, List.not_mem_nil, or_false] at m
  rcases m with rfl | rfl <;> exact ⟨by decide, by decide, by decide, by decide, by decide⟩

/-- Handle slot 5 of job 1 has COUNT `n`. -/
def slot5 (n : BitVec 16) : State :=
  { State.reset with handles := [(65536 + 5, { count := n, st := .bound, node := 0, serial := serial5, base := 0 })] }

/-- Region 1 of die 0 in state `st`, and a request for it. -/
def regionReq (st : RegState) (k : ReqKind) : State := asking (regions st []) (reqOf k 1 0)

theorem witness_OtherRequestsServed :
    -- HEXP
    (bound5 .load (leafAt 0) .durable).1.resolveHandle 1 0x0005000100000008 1 = .ok (page5 * 65536 + 8) ∧
    -- HDROP of a slot at its last COUNT, at another, and a stale one
    (((slot5 1).handle 1 5).st = .bound ∧ ((slot5 1).handle 1 5).count = 1 ∧ ((slot5 0xFFFF).handle 1 5).st = .bound) ∧
    ((slot5 0xFFFF).handle 1 5).count = 0xFFFF ∧
    (((slot5 1).handle 1 5).count.toNat ≠ aCheck 0x0005000200000000 ∧ aCheck 0x0005FFFF00000000 = 0xFFFF) ∧
    -- OBJQ of this node's own object
    wnNode (wideOf 0 0).toNat = State.reset.nodeId ∧
    -- sync words: unconditional, met and not met
    (∀ k ∈ [ReqKind.syncadd, .syncset, .syncrd],
      AtPort (asking State.reset (reqOf k 0x3FF000 0 0)) 4096 0 (reqOf k 0x3FF000 0 0) k ∧
        (asking State.reset (reqOf k 0x3FF000 0 0)).sbad 0x3FF000 8 = false ∧
        (asking State.reset (reqOf k 0x3FF000 0 0)).pendingUnits 0x3FF000 8 = []) ∧
    ((0 : Word).toInt ≤ (State.reset.mword 0x3FF000).toInt ∧ (State.reset.mword 0x3FF000).toInt < (1 : Word).toInt ∧
      State.reset.mword 0x3FF000 ≠ 1 ∧ (State.reset.cluster 0).waiters.length < 64 ∧ (State.reset.cluster 0).waitq = []) ∧
    -- a notice for a copy
    (let r := reqOf .sfree 0 1
     let s := asking (copying (copy0 64 0)) r
     AtPort s 4096 0 r .sfree ∧ s.copy (fldN r.a 0 10) = some (copy0 64 0) ∧ (copy0 64 0).status = 0 ∧ (copy0 64 0).job = r.job ∧
       (copy0 64 0).tile = false ∧ fldN r.b 0 8 < (copy0 64 0).slots ∧ earlierNotice (s.proc 4096) r = false) ∧
    -- MXPRI of no engine, of an empty slot and of a template
    (engBad 0x100000000 = true ∧ (State.reset.mx 0 0).slot 0 = none ∧ State.reset.engFault 4096 none 0 = none ∧
      ((engine 1 0 id).mx 0 0).slot 0 = some (template 1) ∧ (engine 1 0 id).engFault 4096 none 0 = none) ∧
    -- WCOUNT of a counter and of none; BARRIER of a job, of a closing one and of none
    ((graphAB 0 0).findLevel 0 2 1 none = some (cKey 2 0 1) ∧ State.reset.findLevel 0 2 1 none = none) ∧
    ((withReg 1020 1).jobExists 0 255 = true ∧ (withReg 1020 1).jobClosing 0 255 = false ∧
      (withReg 1020 9).jobClosing 0 255 = true ∧ State.reset.jobExists 0 255 = false) ∧
    -- FREEZE and THAW of a region in each state
    (∀ st ∈ [RegState.running, .frozen, .loaded], ((regionReq st .freeze).region 0 1).st = st ∧
      ((regionReq st .freeze).region 0 1).cut = none) ∧
    AtPort (regionReq .running .freeze) 4096 0 (reqOf .freeze 1 0) .freeze ∧
    AtPort (regionReq .frozen .thaw) 4096 0 (reqOf .thaw 1 0) .thaw :=
  ⟨rfl, by decide, rfl, by decide, by decide, by unfold AtPort; decide, by decide, ⟨by unfold AtPort; decide, by decide⟩, by decide,
    by decide, by decide, by decide, by unfold AtPort; decide, by unfold AtPort; decide⟩

/-- An image of region 0: element 0 of cluster 0, with the word `w` in slot 0 when there is one, and two words of code. -/
def image1 (w : Option Word) : List Word :=
  let slots := w.toList
  [put 1 48 ||| put 3 32 ||| put (12 + slots.length) 0, put 1 56 ||| put 1 0, 0, put 2 56 ||| put (5 + slots.length) 0,
    put slots.length 0, 0, 0, 0, 0] ++ slots ++ [put 8 56 ||| put 2 0, 0x100, 0x00003873018FFF00]

/-- A CFGLOAD of `b` with the words `ws` of its image, of that object, in hand. -/
def loading1 (b : Word) (ws : List Word) : Req := { reqOf .cfgload 0x0005000100000000 b with wide := page5 * 65536, data := ws }

/-- Job 1 of die 0 exists, and that object is SEALED; core 0 has the request `r`. -/
def imaged (st : ObjSt) (r : Req) : State := asking ((paged (leafAt 0) st).setCtlReg 0 4 1) r

/-- A save image of region 1 of die 0, of job 1: the sync words of cluster 0 when `c`, and its launch image. -/
def saved1 (bs : List SaveBody) (ws : List Word) : List Word :=
  [put 1 48 ||| put 1 45 ||| put 1 36 ||| put 1 23, wnLo (page5 * 65536), wnHi (page5 * 65536), 7] ++
    bs.flatMap SaveBody.record ++ 0 :: ws

theorem witness_AllocServed :
    -- over quota; no EMPTY slot; a slot and frames
    (let r := reqOf .alloc 65536 0 0 (some 1)
     AtPort (asking State.reset r) 4096 0 r .alloc ∧
       ¬ (asking State.reset r).quotaUsed 0 1 + pagesIn 65536 ≤ ((asking State.reset r).ctlReg 0 (4 * 1 + 2)).toNat) ∧
    (let r := reqOf .alloc 65536 0 0 (some 1)
     let s := asking (State.reset.setCtlReg 0 6 1) r
     AtPort s 4096 0 r .alloc ∧ s.quotaUsed 0 1 + pagesIn 65536 ≤ (s.ctlReg 0 (4 * 1 + 2)).toNat ∧ s.emptySlot 1 = some 1 ∧
       (s.freeFrames 0 1).length = 1 ∧ ∀ f ∈ s.freeFrames 0 1, s.frameBusy f = false) := by
  unfold AtPort
  decide

theorem witness_HbindServed :
    -- a reserved serial without the grant; objects in each state; an OFFSET at the size and below it; and a slot
    (∀ w ∈ [page5 * 65536, page5 * 65536 + 65535, page5 * 65536 + 65536],
      let r := { reqOf .hbind (wnLo w) 0 0 (some 1) with a2 := wnHi w }
      (wideOf r.a r.a2).toNat = w ∧ 2 ^ 16 ≤ wnSerial w) ∧
    (∀ st ∈ [ObjSt.deadPending, .reclaimed, .unissued, .opened, .sealed, .durable],
      let r := { reqOf .hbind (wnLo (page5 * 65536)) 0 0 (some 1) with a2 := wnHi (page5 * 65536) }
      let s := asking (paged (leafAt 0) st) r
      AtPort s 4096 0 r .hbind ∧ s.ownNode (wnNode (page5 * 65536)) = true ∧ (s.obj serial5).st = st ∧
        (s.obj serial5).size = 65536 ∧ s.emptySlot 1 = some 1) ∧
    (wnOff (page5 * 65536 + 65535) = 65535 ∧ wnOff (page5 * 65536 + 65536) = 65536) ∧
    (wnSerial (wideOf 0 0).toNat < 2 ^ 16 ∧ State.reset.sysGrant 0 (some 1) = false) := by
  unfold AtPort
  decide

theorem any_some {α : Type} {o : Option α} {f : α → Bool} (h : o.any f = true) : ∃ a, o = some a ∧ f a = true := by
  cases o with
  | none => exact absurd h (by simp)
  | some a => exact ⟨a, rfl, by simpa using h⟩

theorem witness_CfgloadServed :
    (∀ b ws, let r := loading1 b ws
      AtPort (imaged .sealed r) 4096 0 r .cfgload ∧ (imaged .sealed r).tableTurn 0 r.rid = true) ∧
    (∀ ws ∈ [image1 none, image1 (some 0), [put 1 0]], ws ≠ [] ∧ fldN (ws.headD 0) 0 32 = ws.length) ∧ (loading1 0 []).wide ≠ 0 ∧
    (∀ st ∈ [ObjSt.sealed, .opened],
      ((imaged st (loading1 0x10001 [])).obj (wnSerial (page5 * 65536))).st = st ∧ (imaged st (loading1 0x10001 [])).minimal = false ∧
        (imaged st (loading1 0x10001 [])).ownNode (wnNode (page5 * 65536)) = true) ∧
    -- with and without CTL; a region that the image has and one it has not
    (bitOf (0x10001 : Word) 13 = false ∧ bitOf (0x12001 : Word) 13 = true ∧ fldN (0x11010001 : Word) 24 6 = 17 ∧
      fldN (0x10001 : Word) 24 6 = 0) ∧
    -- an image that does not parse, one of a bad slot word, and one that loads
    parseImage [put 1 0] = none ∧
    (∃ all, parseImage (image1 (some 0)) = some all ∧ (badSlot all).isSome = true) ∧
    (∃ all, parseImage (image1 none) = some all ∧ (hasRegion all 0 && !hasRegion all 17 && (badSlot all).isNone && (badCtl all).isNone &&
      (all.filter fun x => x.typ == 8).length == 1 && namedElems (regionRecs all 0) == [(0, 0)] &&
      namedClusters (regionRecs all 0) == [0]) = true) ∧
    ((State.reset.proc (placeElem 0 0 (0, 0))).region = none ∧ State.reset.otherJobIn 1 0 = false ∧
      (State.reset.die 0).failed = false ∧ ((regions .running []).proc (placeElem 0 0 (0, 0))).region ≠ none) ∧
    -- the other checks
    ((State.reset.jobExists 0 1 = false ∧ (withReg 4 1).jobExists 0 1 = true) ∧
      ((withReg 4 9).jobClosing 0 1 = true ∧ (withReg 4 1).jobClosing 0 1 = false) ∧
      (State.reset.region 0 1).st = .free ∧ ((regions .running []).region 0 1).st ≠ .free) ∧
    -- a stale address, and a request that is not first at the table
    (let r := reqOf .cfgload 0x0005000200000000 0x10001
     AtPort (asking (slot5 1) r) 4096 0 r .cfgload ∧ r.wide = 0 ∧ ((slot5 1).handle 1 5).count.toNat ≠ aCheck r.a) ∧
    (let r := reqOf .cfgload 0x0005000200000000 0x10001
     let s := (asking State.reset r).modDie 0 fun D => { D with tableq := [7, 1] }
     (s.proc 4096).pending[0]? = some r ∧ r.stage = 0 ∧ s.tableTurn 0 r.rid = false) := by
  unfold AtPort
  exact ⟨fun _ _ => ⟨⟨rfl, rfl, rfl⟩, rfl⟩, by decide, by decide, by decide, by decide, by decide, any_some (by decide), any_some (by decide), by decide, by decide, by decide,
    by decide⟩

theorem witness_RestoreServed :
    -- the codec, not held and held
    (let r := { reqOf .restore 0x0005000100000000 0x10001 with wide := page5 * 65536 }
     let s := (asking State.reset r).modDie 0 fun D => { D with codecq := [.restore 1 7] }
     AtPort s 4096 0 r .restore ∧ (s.joinCodec 0 (.restore 1 1)).hasCodec 0 (.restore 1 1) = false ∧
       ((asking State.reset r).joinCodec 0 (.restore 1 1)).hasCodec 0 (.restore 1 1) = true) ∧
    -- words left to write, and none
    (∀ ys ∈ ([[(0x3FF000, 5)], []] : List (List (Nat × Word))),
      let r := reqOf .restore 0x0005000100000000 0x10001
      let x : Filling := { rid := 1, writes := ys, source := none }
      let s := (asking State.reset r).modDie 0 fun D => { D with regions := [(1, { Region.reset with st := .frozen, filling := some x })] }
      AtPort s 4096 0 r .restore ∧ (s.region 0 1).filling = some x ∧ s.pendingUnits 0x3FF000 8 = []) ∧
    -- no area, a stale one, and one whose words are in hand: they do not parse, do not fit, and fit
    (aSlot 0 = 0 ∧ aSlot 0x0005000200000000 ≠ 0 ∧ ((slot5 1).handle 1 (aSlot 0x0005000200000000)).count.toNat ≠ 2) ∧
    (let n (ws : List Word) := saveNeed ((paged (leafAt 0) .sealed).wordsLeft (page5 * 65536)) ws
     n (saved1 [] (image1 none)) = 4 ∧ n (0 :: (saved1 [] (image1 none)).tail) = 4 ∧
       State.reset.parseSave ((0 :: (saved1 [] (image1 none)).tail).take 4) = none ∧
       (∃ img, State.reset.parseSave ((saved1 [] (image1 none)).take 4) = some img ∧ (img.recs.isEmpty &&
         img.launch == page5 * 65536 && !State.reset.placeTaken (placingOf img 0 1 0) img) = true) ∧
       (saved1 [] (image1 none)).drop ((paged (leafAt 0) .sealed).saveTaken (page5 * 65536) 4) = image1 none) ∧
    (∀ all, parseImage (image1 none) = some all → recordFits (regionRecs all 0) (.slots 0 3 []) = false ∧
      recordFits (regionRecs all 0) (.slots 0 0 []) = true) ∧
    -- an engine that the image has, and whose place is taken
    (let U := { Cluster.reset with esp := [(0, Esp.reset)] }
     let img : SaveImage := { cut := 1, die := 0, region := 1, cbase := 0, job := 1, launch := 0, time := 0, recs := [.engine 0 0 U] }
     (array (graph8 []) (dataTok 2 0)).placeTaken (placingOf img 0 1 0) img = true) := by
  unfold AtPort
  refine ⟨by decide, by decide, by decide, ⟨by decide, by decide, by decide, any_some (by decide), by decide⟩, ?_, by decide⟩
  intro all h
  have : (parseImage (image1 none)).all (fun all => recordFits (regionRecs all 0) (.slots 0 3 []) == false &&
    recordFits (regionRecs all 0) (.slots 0 0 []) == true) = true := by decide
  rw [h] at this
  simpa using this

/-- The request `r` of core 0 names a target; context 1 of core 2 has the fault `f` in slot 0, and its request 9 is held. -/
def resuming (f : FaultKind) (a b : Word) (act : Nat) : State × Req :=
  let r := reqOf .resume a b act
  ((asking State.reset r).modProc 4098 fun P =>
    { P.setCtx 1 { P.ctx 1 with rstate := .fault, faults := [{ kind := f, code := 5, slot := 0, word := 0, job := 0 }] } with
      held := [{ reqOf .ld 0x100 0 with rid := 9, code := 5 }], ml := [{ ctx := 1, part := 0, rid := 9, val := none, tag := 0, acq := false }] }, r)

theorem witness_ResumeServed :
    -- retry and skip of a path fault, skip of a fetch fault
    (∀ x ∈ ([(.path 9, 0), (.path 9, 1), (.fetch, 1)] : List (FaultKind × Nat)),
      let y := resuming x.1 (put 1 61 ||| put 2 0 ||| put 1 4) 0 x.2
      AtPort y.1 4096 0 y.2 .resume ∧ y.1.rollOn 4096 y.2 = none ∧ y.1.targetOf 0 y.2.a = some (.ctx 4098 1 0) ∧
        y.1.targetFaulted 0 (.ctx 4098 1 0) y.2.a = true ∧ y.1.cutDelays 0 (.ctx 4098 1 0) y.2.a x.2 = false ∧
        (y.1.faultAt 4098 1 0).map (·.kind) = some x.1 ∧ (y.1.proc 4098).held.find? (fun r => r.rid == 9) ≠ none) ∧
    -- no target, and one without a fault
    (let y := resuming .fetch (put 7 61) 0 0
     y.1.targetOf 0 y.2.a = none) ∧
    (let y := resuming .fetch (put 1 61) 0 0
     y.1.targetOf 0 y.2.a = some (.ctx 4096 0 0) ∧ y.1.targetFaulted 0 (.ctx 4096 0 0) y.2.a = false) ∧
    -- a copy whose request is held, of elements loaded or stored
    (∀ f : Word,
      let c := { copy0 64 f with reqs := [{ lineReq [] with phase := .held 5 }] }
      let r := reqOf .resume (put 2 61) 0 0
      let s := asking (copying c) r
      AtPort s 4096 0 r .resume ∧ s.targetOf 0 r.a = some (.copy 0) ∧ s.copy 0 = some c ∧ s.frozenFault 0 (.copy 0) r.a = false ∧
        s.targetFaulted 0 (.copy 0) r.a = true ∧ s.cutDelays 0 (.copy 0) r.a 0 = false) ∧
    -- a region and an operator that it holds faulted; no image to roll to, and no level to cancel
    (∀ x ∈ [(Target.region 1, regionTarget 0 1), (.oper 0 (suuOp 0), put 4 61 ||| put 1 52 ||| put 5 19)],
      let r := reqOf .resume x.2 (put 1 27) 3
      let s := asking ((regions .frozen []).modDie 0 fun D => { D with regions := D.regions.map fun y =>
        if y.1 = 1 then (1, { y.2 with held := [x.2] }) else y }) r
      AtPort s 4096 0 r .resume ∧ s.targetOf 0 r.a = some x.1 ∧ s.targetFaulted 0 x.1 r.a = true ∧
        s.cutDelays 0 x.1 r.a 3 = false ∧ (s.region 0 1).busy = false ∧ s.rollImage 0 x.1 = none ∧ workIdBad r.b = true) := by
  unfold AtPort
  exact ⟨by decide, by decide, by decide, fun _ => ⟨⟨rfl, rfl, rfl⟩, rfl, rfl, rfl, rfl, rfl⟩, by decide⟩

/-- Unit 3 of job 1, waiting, with key 8 and the elements 0 and 1 as targets, and a remaining path `rp`. -/
def task3 (rp : Nat) (st : TaskSt) : Task :=
  { job := 1, idx := 3, phase := 0, launch := 0, sel := 9, len2 := false, keys := [8], tbase := 0, tcnt := 1, cost := 1, w0 := 5, w1 := 0
    preds := [], user := 0, rp := rp, pass := 0, st := st, acc := rp }

theorem witness_DispatchEvents :
    -- a counter that has reached 0, with the launch above it, and one that has posted
    (let s := (State.reset.setCounter 0 (cKey 1 0 5) { Counter.reset with st := 1, posted := false, up := 1, job := 1 }).setCounter 0
       (cKey 2 0 1) { Counter.reset with st := 0, count := 2, job := 1 }
     (s.counter 0 (2 ^ 24 * 1 + 5)).st ≠ 3 ∧ (s.counter 0 (2 ^ 24 * 1 + 5)).st ≠ 0 ∧
       (s.counter 0 (2 ^ 24 * 1 + 5)).posted = false ∧ s.belowOpen 0 (2 ^ 24 * 1 + 5) = false ∧
       (s.proc (coreUnit 0 (s.ownerOf 0 (2 ^ 24 * 1 + 5)))).evq.length < 1024 ∧
       (1 ≠ 3)) ∧
    -- a phase of job 1 that is over, and the phase after it
    (let s := State.reset.setCounter 0 (cKey 3 1 0) { Counter.reset with st := 1, posted := false, job := 1 }
     (s.counter 0 (2 ^ 24 * 3 + 65536)).job = 1 ∧ 65536 % 65536 = s.jobPhase 0 1 ∧
       (s.counter 0 (cKey 3 1 ((s.jobPhase 0 1 + 1) % 65536))).st = 3 ∧ s.belowOpen 0 (2 ^ 24 * 3 + 65536) = false) ∧
    ((State.reset.counter 0 5).st = 3 ∧ (5 < 2 ^ 24 ∧ 4 < 5)) ∧
    -- two tasks may be dispatched; none may
    (let s := State.reset.modDie 0 fun D => { D with tasks := [task3 1 .waiting, { task3 2 .waiting with idx := 4, keys := [] }] }
     (s.die 0).res = none ∧
       ((s.die 0).tasks.filter fun u => s.taskReady 0 u).filter (fun u => s.keysFree 0 u && s.room 0 u) ≠ []) ∧
    ((State.reset.die 0).res = none ∧ (State.reset.die 0).tasks = []) ∧
    -- a delivery with room in the lane and without
    (let s := (lanes true 3 true none).modDie 0 fun D => { D with delivery := [(0, [packet9])] }
     (s.die 0).delivery.get [] 0 = [packet9] ∧ ((s.proc 0).sels.get Sel.reset 9).v = true ∧
       (vget (s.proc 0).lanes 2).length < 4 ∧ s.laneOpen 0 = true) ∧
    4 ≤ (vget ((lanes true 4 true none).proc 0).lanes 2).length ∧
    -- a unit completes, with an access of its context pending and without
    (let c : Completing := { proc := 4096, ctx := 0, before := 1, job := 1, task := 3 }
     let x := task3 1 (.dispatched 4096)
     let s := ((State.reset.modDie 0 fun D => { D with tasks := [x], completing := [c] }).setCounter 0 x.key
       { Counter.reset with st := 0, count := 1, up := 5 }).setCounter 0 (cKey 1 0 5) { Counter.reset with st := 0, count := 2 }
     (s.die 0).completing[0]? = some c ∧ s.awaits c.proc c.ctx c.before 2 false = false ∧
       s.endedTask 0 c.proc c.job c.task = some (0, x) ∧ (s.counter 0 x.key).st = 0 ∧ (s.counter 0 x.key).count = 1 ∧
       (s.counter 0 x.key).canc = 0 ∧ (s.counter 0 x.key).above 0 x.key = some (0, cKey 1 0 5) ∧
       (s.counter 0 (cKey 1 0 5)).st = 0 ∧ 2 ≤ (s.counter 0 (cKey 1 0 5)).count ∧
       (asking s { reqOf .st 0x100 0 with rid := 0 }).awaits c.proc c.ctx c.before 2 false = true) := by decide

theorem witness_DispatchEvents_saved :
    let c : Completing := { proc := savedUnit 0 1 0, ctx := 0, before := 1, job := 1, task := 3 }
    let s := State.reset.modDie 0 fun D => { D with completing := [c, { c with before := 0 }] }
    (s.die 0).completing[0]? = some c ∧ savedAt c.proc ≠ none ∧ c.before ≠ 0 ∧ savedAt 4096 = none := by decide

/-! ### Witnesses: the machine as a whole -/

/-- A word in slot 0 of element 0, and element 0 next. -/
def elementNext (w : Word) : State :=
  { (issuing 0 0 []).modProc 0 (fun P => { P with slots := P.slots.set Slot.reset 0 { Slot.reset with word := some w } }) with
    agenda := [.element 0] }

theorem witness_StepRunsFetched :
    (let s := elementNext 0x00003873018FFF00
     s.powered = true ∧ s.agenda = [.element 0] ∧ State.pickSlot { s with agenda := [] } 0 = some (0, 0) ∧
       ((s.proc 0).slots.get Slot.reset 0).word = some 0x00003873018FFF00 ∧ ((s.proc 0).slots.get Slot.reset 0).brk = false ∧
       State.tagWaits { s with agenda := [] } 0 0 0x00003873018FFF00 = false) ∧
    (let s := State.reset.withFetchWord 64 0x00003873018FFF00
     s.powered = true ∧ s.agenda = [.core 4096] ∧ State.pickCtx { s with agenda := [] } 4096 = some 0 ∧
       (s.ctx 4096 0).pc.toNat ≤ 0x3FFF8 ∧
       wordOf (s.mread (localKey 4096 (s.ctx 4096 0).pc.toNat) 8) = 0x00003873018FFF00 ∧
       State.tagWaits { s with agenda := [] } 4096 0 0x00003873018FFF00 = false) ∧
    isEvent .durableAppend = true ∧ State.eventTurn { State.reset with agenda := [] } .durableAppend = true ∧ ({ State.reset with powered := false } : State).powered = false := by decide

/-- A tag lookup whose skip guard fails in a context whose predicates are 0. -/
def guardedTag : Instr := .tlook { r1 with sb := 0, trig := { unguarded with pcare := 2, pval := 2 } }

theorem witness_StepRunsFetched_guard :
    let w := (encode guardedTag).getD 0
    let s : State := { (State.reset.withFetchWord 64 w.toNat).modCtx 4096 0 (fun C => { C with p := 0 }) with tagLast := [(0, 100)] }
    encode guardedTag = some w ∧ s.powered = true ∧ s.agenda = [.core 4096] ∧
      wordOf (s.mread (localKey 4096 (s.ctx 4096 0).pc.toNat) 8) = w ∧ (decodeAt true w).toOption = some guardedTag ∧
      State.pickCtx { s with agenda := [] } 4096 = some 0 ∧
      admission ((shapeOf (viewOf w)).getD blankShape) (viewOf w) (State.atCore { s with agenda := [] } 4096 0) ≠ .run ∧
      isTagOp w = true ∧ State.tagWaits { s with agenda := [] } 4096 0 w = true := by decide

theorem witness_EncodeDecode :
    (Instr.addi { i1 with dst := 3, sa := 3, imm := 0x3FF }).wf = true ∧
      encode (.addi { i1 with dst := 3, sa := 3, imm := 0x3FF }) = some 0x00003873018FFF00 ∧
      (decodeWord 0x00003873018FFF00).toOption = some (.addi { i1 with dst := 3, sa := 3, imm := 0x3FF }) := by decide

theorem witness_StepKeepsMemoryCanonical : State.reset.memOk ∧ ∃ t, step (State.reset.withFetchWord 64 0x00003873018FFF00) = .next t :=
  ⟨by unfold State.memOk; decide, _, rfl⟩

/-! ### Well-formedness: an ill-formed term for each check -/

/-- Words: a reserved field, a reserved operand, a reserved MOD code, an odd pair, a destination that is no output, the MOD of
another row, and a trigger that names one channel twice. -/
theorem test_wf_words : ∀ i ∈ ([.add { r1 with mod := 1 }, .abs r1, .mad { r1 with dst := 16 }, .cmp { r1 with mod := 12 },
    .csaadd { r1 with dst := 3, sa := 4, sb := 6 }, .fwd { r1 with sa := 0, sb := 0 }, .splat { r1 with sb := 0, mod := 3 },
    .resumeSkip { q1 with sa := 8, sb := 10 }, .planStep { q1 with mod := 2 }, .movw { w1 with dst := 20 }, .movwIns w1,
    .ld { q1 with sb := 1 }, .nop { z1 with sa := 1 }, .mov { r1 with sb := 0, trig := { unguarded with cha := 1, chb := 1 } },
    .bx z1] : List Instr), i.wf = false := by decide

/-- Events: a unit, an element, a cluster, a die, a region, an engine, a channel, a router input, an operator or a link too far. -/
theorem test_wf_events : ∀ i ∈ ([.resultDelivery 4128 0 0, .resultDelivery 0 4 0, .discardHead 4096 0, .discardHead 0 4,
    .tokenArrival (.elem 0 4), .tokenArrival (.oper 256 0 0), .tokenArrival (.oper 0 27 0), .tokenArrival (.tile 8 0 0),
    .tokenArrival (.tile 0 16 0), .tokenArrival (.tile 0 0 2), .routeToken 0 16 (.mesh 0), .routeToken 0 0 (.mesh 4),
    .routeToken 0 0 (.el 4), .routeToken 0 0 (.att 2 0), .steerResult 0 2, .counterFire 0 8, .suuUpdate (.cluster 0 2),
    .suuUpdate (.edge 0 32), .suuWindowClose (.edge 8 0), .coalesceIssue 0 16, .mxEntryCreate 0 0 8, .mxPark 0 4,
    .espTokenTake 256 0, .memoryRequestServe (.unit 4128 0), .memoryRequestServe (.copy 0 128 0 0), .eccError (.slot 4096 0) true,
    .eccError (.reg 0 0 16) true, .eccError (.scratch 0 4194304) true, .dispatchDecide 8, .taskDelivery 0 4096,
    .workCounterDone 0 5 0, .regionComplete 0 64, .promote 0 8 0 true, .planPrefetch 16 0 0 0, .collComplete 16 [],
    .flitReplay 16, .timeCorrection 0 4] : List Instr), i.wf = false := by decide

/-- The same checks let the last unit of each kind pass. -/
theorem test_wf_passes : ∀ i ∈ ([.resultDelivery 4127 3 0, .discardHead 4095 3, .tokenArrival (.oper 255 26 3),
    .tokenArrival (.tile 7 15 1), .routeToken 255 15 (.att 1 3), .suuUpdate (.edge 7 31), .mxEntryCreate 255 3 7,
    .memoryRequestServe (.copy 7 127 0 0), .workCounterDone 7 4 0, .regionComplete 7 63, .collComplete 15 [], .flitReplay 15,
    .add r1, .planStep { q1 with mod := 1 }, .movw w1] : List Instr), i.wf = true := by decide

/-! ### Words of the specification and of its encoding tables

The first rows are laid out field by field from the tables of 02 R47 and R52; the others are words that the specification prints. -/

/-- Fields of a register word that are all 0 and no guard. -/
def r0 : RForm := { trig := unguarded, dst := 0, sa := 0, sb := 0, pact := 0, pidx := 0, dq := 0, mod := 0 }

theorem test_decode_mad : decodeWord 0x00003870F7844000 = .ok (.mad { r0 with dst := 15, sa := 1, sb := 2 }) := rfl
theorem test_decode_sar : decodeWord 0x000038718C4E0F30 =
    .ok (.sar { r0 with dst := 24, sa := 19, sb := 16, pact := 1, pidx := 7, dq := 3 }) := rfl
theorem test_decode_cmp_tstn : decodeWord 0x000038720C88E00B =
    .ok (.cmp { r0 with dst := 25, sa := 2, sb := 7, mod := 11 }) := rfl
theorem test_decode_halt : decodeWord 0x0000387440001A00 = .ok (.halt { r0 with pact := 3, pidx := 2 }) := rfl
theorem test_decode_fsqrt : decodeWord 0x0000387560880003 = .ok (.fsqrt { r0 with dst := 1, sa := 2, mod := 3 }) := rfl
theorem test_decode_bdot : decodeWord 0x000038767214C001 = .ok (.bdot { r0 with dst := 4, sa := 5, sb := 6, mod := 1 }) := rfl
theorem test_decode_vcmp : decodeWord 0x00003877C088600E = .ok (.vcmp { r0 with dst := 1, sa := 2, sb := 3, mod := 14 }) := rfl
theorem test_decode_csaadd : decodeWord 0x00003878A7314000 = .ok (.csaadd { r0 with dst := 14, sa := 12, sb := 10 }) := rfl
theorem test_decode_hndbind : decodeWord 0x0000387970880000 = .ok (.hndbind { r0 with dst := 1, sa := 2 }) := rfl
theorem test_decode_tdone : decodeWord 0x0000387A20080000 = .ok (.tdone { r0 with sa := 2 }) := rfl
theorem test_decode_atom : decodeWord 0x0000387C0A086109 =
    .ok (.atom { r0 with dst := 20, sa := 2, sb := 3, pidx := 1, mod := 9 }) := rfl
theorem test_decode_tiletag_cas : decodeWord 0x0000387C8D180001 =
    .ok (.tiletagCas { r0 with dst := 26, sa := 6, sb := 0, mod := 1 }) := rfl
theorem test_decode_hexp : decodeWord 0x0000387D5A080000 = .ok (.hexp { r0 with dst := 20, sa := 2 }) := rfl
theorem test_decode_scancel : decodeWord 0x0000387E1A080000 = .ok (.scancel { r0 with dst := 20, sa := 2 }) := rfl
theorem test_decode_coll_barrier : decodeWord 0x0000387EAA080007 =
    .ok (.collBarrier { r0 with dst := 20, sa := 2, mod := 7 }) := rfl
theorem test_decode_resume_skip : decodeWord 0x0000387FEA214001 =
    .ok (.resumeSkip { r0 with dst := 20, sa := 8, sb := 10, mod := 1 }) := rfl
theorem test_decode_movw_ins : decodeWord 0x00003873D7D5E687 =
    .ok (.movwIns { trig := unguarded, dst := 15, imm := 0xABCD, zero := 0, ins := 1, hw := 3 }) := rfl
theorem test_decode_cmpi : decodeWord 0x000038739D120009 =
    .ok (.cmpi { i1 with dst := 26, sa := 4, imm := 0x200, mod := 9 }) := rfl
theorem test_decode_spw : decodeWord 0x00003874800C1400 = .ok (.spw { i1 with dst := 0, sa := 3, imm := 20 }) := rfl
theorem test_decode_brl : decodeWord 0x0000387F1FFFFFFE = .ok (.brl { trig := unguarded, disp := 0xFFFFFFE }) := rfl
theorem test_decode_guard : decodeWord 0xA06022E100886000 =
    .ok (.and { r1 with trig := { ctx := 2, pcare := 0x81, pval := 0x80, cha := 4, tga := 5, chb := 6 } }) := rfl
theorem test_decode_tsubmit : decodeWord 0x0000387A3A086000 = .ok (.tsubmit q1) := rfl
theorem test_decode_cfgload : decodeWord 0x0000387F5A086000 = .ok (.cfgload q1) := rfl
theorem test_decode_resume_retry : decodeWord 0x0000387FEA214000 = .ok (.resumeRetry { q1 with sa := 8, sb := 10 }) := rfl
theorem test_decode_mark_snap : decodeWord 0x0000387F9A086000 = .ok (.markSnap q1) := rfl
theorem test_decode_save : decodeWord 0x0000387FAA086000 = .ok (.save q1) := rfl
theorem test_decode_restore : decodeWord 0x0000387FBA086000 = .ok (.restore q1) := rfl
theorem test_decode_plan_load : decodeWord 0x0000387D9A086000 = .ok (.planLoad q1) := rfl
theorem test_decode_plan_step : decodeWord 0x0000387D9A086001 = .ok (.planStep { q1 with mod := 1 }) := rfl
theorem test_decode_evict : decodeWord 0x0000387DAA086000 = .ok (.evict q1) := rfl
theorem test_decode_coll_sumf : decodeWord 0x0000387EAA086000 = .ok (.collSumf q1) := rfl
theorem test_decode_rekey : decodeWord 0x0000387FDA080000 = .ok (.rekey { q1 with sb := 0 }) := rfl
theorem test_decode_mxbind : decodeWord 0x0000387E2A086000 = .ok (.mxbind q1) := rfl
theorem test_decode_mxstat_clr : decodeWord 0x0000387E4A100001 = .ok (.mxstat { q1 with sa := 4, sb := 0, mod := 1 }) := rfl
theorem test_decode_gload : decodeWord 0x0000387E5A086000 = .ok (.gload q1) := rfl
theorem test_decode_gbind : decodeWord 0x0000387E6A10A000 = .ok (.gbind { q1 with sa := 4, sb := 5 }) := rfl
theorem test_decode_gunload : decodeWord 0x0000387E7A080000 = .ok (.gunload { q1 with sb := 0 }) := rfl
theorem test_decode_oprd : decodeWord 0x0000387E9A080000 = .ok (.oprd { q1 with sb := 0 }) := rfl
theorem test_decode_emit : decodeWord 0x0000387918800003 = .ok (.emit { r0 with dst := 17, mod := 3 }) := rfl
theorem test_decode_tsend : decodeWord 0x00C0787A0010B900 =
    .ok (.tsend { r0 with trig := { unguarded with pcare := 3, pval := 1, cha := 7 }, sa := 4, sb := 5, pact := 3, pidx := 1 }) := rfl

/-! ### Single steps -/

/-- The state after `i` issues with the registers `xs`, and after its result is delivered if it is outstanding. -/
def after (i : Instr) (xs : List (Nat × Word)) : State :=
  let t := nextOf (exec i (issuing 0 0 xs))
  if (t.ctx 0 0).outst = [] then t else nextOf (exec (.resultDelivery 0 0 0) { t with cycle := 100 })

/-- Register `n` after `i`. -/
def gives (i : Instr) (xs : List (Nat × Word)) (n : Nat := 1) : Word := vget ((after i xs).ctx 0 0).x n
/-- x2 and x3. -/
def two (a b : Word) : List (Nat × Word) := [(2, a), (3, b)]
/-- x1, x2 and x3. -/
def three (d a b : Word) : List (Nat × Word) := [(1, d), (2, a), (3, b)]

/-- −1. -/
def ones : Word := 0xFFFFFFFFFFFFFFFF
/-- The most negative value. -/
def minWord : Word := 0x8000000000000000

-- 04 R118 and 01 R16, and the worked case of 04 R119
theorem test_add_wraps : gives (.add r1) (two ones 2) = 1 := by decide
theorem test_mulh_signed : gives (.mulh r1) (two ones ones) = 0 := by decide
theorem test_mulhu : gives (.mulhu r1) (two ones ones) = 0xFFFFFFFFFFFFFFFE := by decide
theorem test_div_truncates : gives (.div r1) (two (0 - 7) 2) = 0 - 3 := by decide
theorem test_div_overflow : gives (.div r1) (two minWord ones) = minWord := by decide
theorem test_rem_sign : gives (.rem r1) (two (0 - 7) 2) = ones := by decide
theorem test_rem_zero : gives (.rem r1) (two 7 0) = 7 := by decide
theorem test_divu_zero : gives (.divu r1) (two 7 0) = ones := by decide
theorem test_abs_min : gives (.abs { r1 with sb := 0 }) (two minWord 0) = minWord := by decide
theorem test_mad : gives (.mad r1) (three 5 2 3) = 11 := by decide
theorem test_min_signed : gives (.min r1) (two ones 1) = ones := by decide
theorem test_minu : gives (.minu r1) (two ones 1) = 1 := by decide
-- 04 R120
theorem test_shl_64 : gives (.shl r1) (two 5 64) = 5 := by decide
theorem test_sar : gives (.sar r1) (two (0 - 8) 1) = 0 - 4 := by decide
theorem test_rol : gives (.rol r1) (two minWord 1) = 1 := by decide
theorem test_clz_zero : gives (.clz { r1 with sb := 0 }) (two 0 0) = 64 := by decide
theorem test_ctz : gives (.ctz { r1 with sb := 0 }) (two 8 0) = 3 := by decide
theorem test_bswap : gives (.bswap { r1 with sb := 0 }) (two 0x0102030405060708 0) = 0x0807060504030201 := by decide
theorem test_brev : gives (.brev { r1 with sb := 0 }) (two 1 0) = minWord := by decide
-- 04 R121-R124
theorem test_cmp_lt_ltu : (gives (.cmp { r1 with mod := 2 }) (two ones 0), gives (.cmp { r1 with mod := 6 }) (two ones 0)) = (1, 0) := by
  decide
theorem test_ext_sb : gives (.ext { r1 with sb := 0, mod := 4 }) (two 0x80 0) = 0xFFFFFFFFFFFFFF80 := by decide
theorem test_bfx_top : gives (.bfx { r1 with mod := 1 }) (two 0xF000000000000000 (8 * 256 + 60)) = 0xF := by decide
theorem test_bfi : gives (.bfi r1) (three ones 0 (4 * 256 + 8)) = 0xFFFFFFFFFFFFF0FF := by decide
theorem test_packlh_hl : gives (.packlh { r1 with mod := 1 }) (two 0x1111111122222222 0x3333333344444444) = 0x4444444411111111 := by
  decide
theorem test_clamp_crossed : gives (.clamp r1) (three 5 4 3) = 3 := by decide
-- 04 R125-R126
theorem test_addi_negative : gives (.addi { i1 with imm := 0x3FF }) (two 0 0) = ones := by decide
theorem test_movw_ins : gives (.movwIns { w1 with imm := 0xABCD, hw := 1, ins := 1 }) (three ones 0 0) = 0xFFFFFFFFABCDFFFF := by decide
-- 04 R127-R129: PACT acts after the masked write
theorem test_pset_pact : ((after (.pset { z1 with pact := 2, pidx := 1 }) (two 0x03 0x0F)).ctx 0 0).p = 0x01 := by decide
theorem test_plogic_xor : gives (.pget { r1 with sa := 0, sb := 0 }) [] = 0 ∧
    ((after (.plogic { r1 with dst := 25, sa := 0, sb := 1, mod := 1 }) []).ctx 0 0).p = 2 := by decide
-- 05: exact sums, a division by zero and its flag, a rounded integer, four lanes
theorem test_fadd : gives (.fadd r1) (two 0x3F800000 0x3F800000) = 0x40000000 := by decide
theorem test_ffma : gives (.ffma r1) (three 0x3F800000 0x40000000 0x40400000) = 0x40E00000 := by decide
theorem test_fdiv_zero : gives (.fdiv r1) (two 0x3F800000 0) = 0x7F800000 := by decide
theorem test_fsqrt : gives (.fsqrt { r1 with sb := 0 }) (two 0x40800000 0) = 0x40000000 := by decide
theorem test_frint_even : gives (.frint { r1 with sb := 0 }) (two 0x40200000 0) = 0x40000000 := by decide
theorem test_badd : gives (.badd r1) (two 0x3F803F803F803F80 0x3F803F803F803F80) = 0x4000400040004000 := by decide
theorem test_bdot : gives (.bdot r1) (three 0 0x3F803F803F803F80 0x3F803F803F803F80) = 0x40800000 := by decide
theorem test_vadd_lanes : gives (.vadd r1) (two 0x00000000000000FF 1) = 0 := by decide
theorem test_vadds_saturates : gives (.vadds r1) (two 0x7F 1) = 0x7F := by decide
theorem test_vshr_wide : gives (.vshr r1) (two ones 8) = 0 := by decide
theorem test_vsum_signed : gives (.vsum { r1 with sb := 0 }) (two 0xFF01 0) = 0 := by decide
theorem test_vperm_zero : gives (.vperm r1) (two 0x1122334455667788 0x8888888888888880) = 0x88 := by decide
-- 06: the fault of TRAP takes nothing but its effect on the context
theorem test_trap : ((after (.trap i1) []).ctx 0 0).rstate = .fault ∧ ((after (.trap i1) []).die 0).faultPend.length = 1 := by decide
theorem test_halt : ((after (.halt { z1 with sa := 0, sb := 0 }) []).ctx 0 0).rstate = .halt := by decide
theorem test_sleepu : ((after (.sleepu { z1 with sb := 0 }) (two 1000 0)).ctx 0 0).deadline = 1000 := by decide
-- 09 R262: a key enters a frame of its set
theorem test_tset : (gives (.tset r1) (two 0 7), gives (.tset r1) (two 0 8), gives (.tset r1) (two 0 1023)) = (0, 1, 3) := by decide
-- 07 R221: a load queues one request and reserves one word
theorem test_ld_request : ((nextOf (exec (.ld { q1 with sb := 0 }) (regions .running [(2, 0x100)]))).proc 0).reqs.length = 1 ∧
    ((nextOf (exec (.ld { q1 with sb := 0 }) (regions .running [(2, 0x100)]))).proc 0).ml.length = 1 := by decide
-- 15 R393, R398: a branch back by two words, and one before the first word
theorem test_br : ((nextOf (exec (.br { b1 with disp := 0xFFFFFFE }) (atPc 0x20 0))).ctx 4096 0).pc = 0x10 := by decide
theorem test_br_bounds : ((nextOf (exec (.br { b1 with disp := 0xFFFFFFE }) (atPc 8 0))).ctx 4096 0).rstate = .fault := by decide
theorem test_brl_link : vget ((nextOf (exec (.brl { b1 with disp := 4 }) (atPc 0x20 0))).ctx 4096 0).x 15 = 0x28 := by decide

/-- The state after the request `r` of core 0 is served. -/
def served (r : Req) (s : State) : State := nextOf (exec (.memoryRequestServe (.unit 4096 0)) (asking s r))

-- 07 R232, R237, R238: bytes in order of their addresses; an atomic's old value; a CAS that fails
theorem test_store_bytes : (served (reqOf .st 0x100 0x0807060504030201) State.reset).mread 0x100 8 = [1, 2, 3, 4, 5, 6, 7, 8] := by decide
theorem test_atom_add : ((served (reqOf .atom 0x100 5 16) (State.reset.mwrite 0x100 [7])).proc 4096).resps.map (·.words) = [[7]] ∧
    (served (reqOf .atom 0x100 5 16) (State.reset.mwrite 0x100 [7])).mword 0x100 = 12 := by decide
theorem test_cas_fails : (served (reqOf .cas 0x100 1) (State.reset.mwrite 0x100 [7])).mword 0x100 = 7 := by decide
theorem test_syncadd : (served (reqOf .syncadd 0x3FF000 3) State.reset).mword 0x3FF000 = 3 := by decide

-- 16 R438: the worked example of the save codec
theorem test_codec : encodeBody [0, 0, 5, 5, 5, 7] = [0xFFFFFFFFFFFFF285, 0xFFFFFFFFFFFFFFFF, 5, 7] := by decide

-- 24 R540: three starts that exceed the limit of stage 7, the last on the 274th start
theorem test_bootcause : (nextOf (exec (.stageTimeout 0)
    ({ ((State.reset.setPkgReg 1082 7).setPkgReg 1081 (put 2 56 ||| put 0x112 0)) with cycle := 90000000000 }))).pkgReg 1081 =
      0x0307060000000112 := by decide

-- a word fetched from local memory: ADDI x3, x3, -1
theorem test_step_core : vget ((nextOf (step (State.reset.withFetchWord 64 0x00003873018FFF00))).ctx 4096 0).x 3 = ones := by decide

end Sys2Proof.Tests
end

section
/-! PROOFS. TIME and SLEEPU: both read a view of the time counter, which changes their unit beyond what `Laws` says of the end
of an issue. States that agree but for a unit's view and its error marks agree in every clause of an issue's claim, so the
claims about the issue without the view carry over. -/

namespace Sys2Proof.Laws

open Sys2Proof Sys2Proof.Machine

/-! ### Agreement but for a unit's view and error marks -/

/-- Unit `Q` is `P` but for its view of the time counter and the marks of its registers in error. -/
def UnitsAgree (P Q : Proc) : Prop := ∃ view bad, Q = { P with view := view, badRegs := bad }

/-- State `u` is `t` but for the view and the error marks of unit `p`, and the index of the next free value. -/
structure AgreeButView (p : Nat) (t u : State) : Prop where
  unit : UnitsAgree (t.proc p) (u.proc p)
  units : ∀ q, q ≠ p → u.proc q = t.proc q
  rest : u = { t with procs := u.procs, choice := u.choice }

theorem UnitsAgree.trans {P Q R : Proc} (h : UnitsAgree P Q) (h' : UnitsAgree Q R) : UnitsAgree P R := by
  obtain ⟨_, _, rfl⟩ := h
  obtain ⟨v, b, rfl⟩ := h'
  exact ⟨v, b, rfl⟩

theorem AgreeButView.trans {p : Nat} {t u w : State} (h : AgreeButView p t u) (h' : AgreeButView p u w) :
    AgreeButView p t w :=
  ⟨h.unit.trans h'.unit, fun q hq => (h'.units q hq).trans (h.units q hq), by rw [h'.rest, h.rest]⟩

/-- A context of a unit that agrees. -/
theorem UnitsAgree.setCtx {P Q : Proc} (h : UnitsAgree P Q) (c : Nat) (F : Ctx → Ctx) :
    UnitsAgree (P.setCtx c (F (P.ctx c))) (Q.setCtx c (F (Q.ctx c))) := by
  obtain ⟨v, b, rfl⟩ := h
  exact ⟨v, b, rfl⟩

/-- Mending changes error marks alone, so it keeps agreement. -/
theorem UnitsAgree.mend {P Q : Proc} (h : UnitsAgree P Q) (c : Nat) (o : Outst) :
    UnitsAgree (P.mend c o) (Q.mend c o) := by
  obtain ⟨v, b, rfl⟩ := h
  exact ⟨v, _, by rw [mend_rest P, mend_rest]⟩

/-- The same change of a unit, when it respects agreement. -/
theorem AgreeButView.modProc {p : Nat} {t u : State} (h : AgreeButView p t u) {f : Proc → Proc}
    (hf : ∀ P Q, UnitsAgree P Q → UnitsAgree (f P) (f Q)) : AgreeButView p (t.modProc p f) (u.modProc p f) := by
  refine ⟨?_, fun q hq => ?_, ?_⟩
  · rw [proc_modProc_self, proc_modProc_self]; exact hf _ _ h.unit
  · rw [proc_modProc_ne _ _ hq, proc_modProc_ne _ _ hq]; exact h.units q hq
  · show ({ u with procs := _ } : State) = _
    rw [h.rest]; rfl

/-- A change of a unit's view and error marks alone. -/
theorem agreeButView_modProc (t : State) (p : Nat) {f : Proc → Proc} (hf : ∀ P, UnitsAgree P (f P)) :
    AgreeButView p t (t.modProc p f) :=
  ⟨by rw [proc_modProc_self]; exact hf _, fun _ hq => proc_modProc_ne _ _ hq, rfl⟩

/-- Reading a view. -/
theorem agreeButView_view (t : State) (p : Nat) : AgreeButView p t (t.view p).2 :=
  ⟨⟨_, _, view_proc_self t p⟩, fun _ hq => view_proc_ne t hq, view_rest t p⟩

/-- Mending a site. -/
theorem agreeButView_mendSite (t : State) (p c r : Nat) : AgreeButView p t (t.mendSite p c r) :=
  agreeButView_modProc t p fun P => ⟨P.view, _, rfl⟩

/-- The same change of a context. -/
theorem AgreeButView.modCtx {p : Nat} {t u : State} (h : AgreeButView p t u) (c : Nat) (F : Ctx → Ctx) :
    AgreeButView p (t.modCtx p c F) (u.modCtx p c F) :=
  h.modProc fun _ _ h => h.setCtx c F

/-- The same delivery. -/
theorem AgreeButView.deliver {p : Nat} {t u : State} (h : AgreeButView p t u) (c : Nat) (o : Outst) :
    AgreeButView p (t.deliver p c o) (u.deliver p c o) := by
  have hd := h.modProc (f := fun P => (P.setCtx c (deliverCtx o (P.ctx c))).mend c o) fun _ _ h => (h.setCtx c _).mend c o
  unfold State.deliver
  split
  · exact hd.modProc fun _ _ ⟨v, b, h⟩ => ⟨v, b, by rw [h]⟩
  · exact hd

/-- The same advance of the PC. -/
theorem AgreeButView.advance {p : Nat} {t u : State} (h : AgreeButView p t u) (c : Nat) (target : Option (BitVec 19)) :
    AgreeButView p (t.advance p c target) (u.advance p c target) := by
  unfold State.advance
  split
  · exact h.modCtx c _
  · exact h

/-- The end of an issue of latency 1. -/
theorem AgreeButView.finish {e : Env} {t u : State} (h : AgreeButView e.p t u) (hlat : latencyOf e ≤ 1) (r : Res) :
    AgreeButView e.p (finish e r t) (finish e r u) := by
  rw [finish_now hlat, finish_now hlat]
  exact (h.deliver _ _).advance _ _

/-! ### The clauses of an issue's claim carry over -/

section
variable {s t u : State} {e : Env} {r : Res} (h : AgreeButView e.p t u)
include h

/-- The contexts of the unit agree. -/
theorem AgreeButView.ctx (k : Nat) : u.ctx e.p k = t.ctx e.p k := by
  obtain ⟨_, _, hu⟩ := h.unit
  rw [State.ctx, hu]; rfl

/-- The output channels of the unit agree. -/
theorem AgreeButView.outs : (u.proc e.p).outs = (t.proc e.p).outs := by
  obtain ⟨_, _, hu⟩ := h.unit
  rw [hu]

/-- The hold sets of the unit agree. -/
theorem AgreeButView.hold : (u.proc e.p).hold = (t.proc e.p).hold := by
  obtain ⟨_, _, hu⟩ := h.unit
  rw [hu]

theorem AgreeButView.channelsAfter (ht : ChannelsAfter e s t) : ChannelsAfter e s u := by
  obtain ⟨_, _, hu⟩ := h.unit
  obtain ⟨hins, hwait, hslots, htasks, hevents⟩ := ht
  constructor <;> rw [hu] <;> assumption

theorem AgreeButView.portUnused (ht : PortUnused e s t) : PortUnused e s u := by
  obtain ⟨_, _, hu⟩ := h.unit
  obtain ⟨hreqs, hml⟩ := ht
  constructor <;> rw [hu] <;> assumption

theorem AgreeButView.keptInside (ht : KeptInside e s t) : KeptInside e s u := by
  obtain ⟨hothers, hmode, hbooks, htimes⟩ := ht
  constructor <;> simpa only [h.ctx]

theorem AgreeButView.keptOutside (ht : KeptOutside e s t) : KeptOutside e s u := by
  obtain ⟨hunits, hbytes, hclusters, hobjects, hpackage, hdies⟩ := ht
  refine ⟨fun q hq => (h.units q hq).trans (hunits q hq), ?_, ?_, ?_, ?_, ?_⟩ <;> rw [h.rest] <;> assumption

theorem AgreeButView.deliveredNow (ht : DeliveredNow s e r t) : DeliveredNow s e r u := by
  obtain ⟨hregs, hpreds, hflags, houtst, houts⟩ := ht
  constructor <;> simpa only [h.ctx, h.outs]

theorem AgreeButView.deliveredLater (ht : DeliveredLater s e r t) : DeliveredLater s e r u := by
  obtain ⟨houtst, hregs, hpreds, hflags⟩ := ht
  constructor <;> simpa only [h.ctx, h.outs]

theorem AgreeButView.delivered (ht : Delivered s e r t) : Delivered s e r u where
  now hl := h.deliveredNow (ht.now hl)
  later hl := h.deliveredLater (ht.later hl)
  pc := by rw [h.ctx, ht.pc]
  inside := h.keptInside ht.inside
  channels := h.channelsAfter ht.channels
  hold := h.hold.trans ht.hold
  port := h.portUnused ht.port
  outside := h.keptOutside ht.outside

theorem AgreeButView.leaves {C : Ctx} (ht : Leaves s e C t) : Leaves s e C u where
  ctx := (h.ctx e.c).trans ht.ctx
  others k hk hkc := (h.ctx k).trans (ht.others k hk hkc)
  outs := h.outs.trans ht.outs
  channels := h.channelsAfter ht.channels
  hold := h.hold.trans ht.hold
  port := h.portUnused ht.port
  outside := h.keptOutside ht.outside

end

/-! ### The issue of a word that reads a view -/

section
variable {s : State} {v : View} {sh : Shape}

/-- A word that issues with an effect that takes no fault ends its issue from what the effect gives. -/
theorem issue_of_ok {eff : Effect} {s' : State} {r : Res} (h : Issues v sh s)
    (he : eff (s.env sh v) (s.dequeue s.cur.proc (s.ctxNo v) sh v) = .ok (s', r)) :
    issue v eff s = .next (finish (s.env sh v) r s') := by
  rw [issue_of_issues h]
  unfold perform
  show Host.Outcome.next (match eff (s.env sh v) (s.dequeue s.cur.proc (s.ctxNo v) sh v) with
    | .ok (s', r) => finish (s.env sh v) r s' | .error _ => _) = _
  rw [he]

/-- A row of latency 1. -/
theorem latencyOf_env_le (hlat : sh.lat = 1) : latencyOf (s.env sh v) ≤ 1 := by
  have hlatency : latencyOf (s.env sh v) = sh.lat := if_neg (show ¬sh.lat = 0 by omega)
  exact Nat.le_of_eq (hlatency.trans hlat)

/-- The unit's last view after the dequeues. -/
@[simp] theorem dequeue_view (s : State) (p c : Nat) (sh : Shape) (v : View) (q : Nat) :
    ((s.dequeue p c sh v).proc q).view = (s.proc q).view :=
  dequeue_keeps Proc.view (fun _ _ _ => rfl) (fun P => by rw [popTask_rest]) (fun _ _ => rfl) (fun _ _ => rfl)
    (fun _ _ => rfl) s p c sh v q

/-- The time counter after the dequeues. -/
@[simp] theorem dequeue_tai (s : State) (p c : Nat) (sh : Shape) (v : View) : (s.dequeue p c sh v).tai = s.tai := by
  rw [dequeue_rest]

/-- A view read once the dequeues are done is a view of the state before them. -/
theorem viewed_dequeue (s : State) (p c : Nat) (sh : Shape) (v : View) :
    Viewed s p ((s.dequeue p c sh v).view p).1 := by
  simpa only [Viewed, dequeue_view, dequeue_tai] using viewed_view (s.dequeue p c sh v) p

/-- The end of an issue leaves the unit's view. -/
theorem finish_view (e : Env) (r : Res) (s : State) (q : Nat) : ((finish e r s).proc q).view = (s.proc q).view :=
  finish_keeps Proc.view (fun _ _ _ => rfl) (fun _ _ => rfl) (fun _ _ => rfl) e r s q

/-- A change of a context leaves its unit's view. -/
theorem modCtx_view (s : State) (p c : Nat) (F : Ctx → Ctx) : ((s.modCtx p c F).proc p).view = (s.proc p).view := by
  rw [State.modCtx, proc_modProc_self, setCtx_view]

/-- Mending a site leaves its unit's view. -/
theorem mendSite_view (s : State) (p c r : Nat) : ((s.mendSite p c r).proc p).view = (s.proc p).view := by
  rw [State.mendSite, proc_modProc_self]

/-- A unit keeps the view it has read. -/
theorem view_view (s : State) (p : Nat) : ((s.view p).2.proc p).view = (s.view p).1 := by
  rw [view_proc_self]

/-- A word of latency 1 whose effect is the change `G` of its own context. -/
theorem leaves_finish (h : Issues v sh s) (hlat : sh.lat = 1) (G : Ctx → Ctx) :
    Leaves s (s.env sh v)
      { G (s.env sh v).C with
        p := pactOf v.pact v.pidx.toNat true (G (s.env sh v).C).p
        fpflags := (G (s.env sh v).C).fpflags ||| 0
        pc := if isCore (s.env sh v).p then (G (s.env sh v).C).pc + 8 else (G (s.env sh v).C).pc }
      (finish (s.env sh v) .none
        ((s.dequeue s.cur.proc (s.ctxNo v) sh v).modCtx (s.env sh v).p (s.env sh v).c G)) := by
  obtain ⟨t, ht, hl⟩ := leaves_of (eff := fun e s => .ok (s.modCtx e.p e.c G, .none)) (fun _ => G) (fun _ => .none) h rfl
    hlat rfl
  rw [issue_of_ok h rfl] at ht
  cases ht
  exact hl

end

/-! ### TIME and SLEEPU -/

/-- 06 R197: TIME delivers the view it reads. -/
theorem time_of_issues (f : RForm) {s : State} {sh : Shape} (h : Issues (viewR 0x46 f) sh s) :
    ∃ t now, exec (.time f) s = .next t ∧ Viewed s s.cur.proc now ∧ (t.proc s.cur.proc).view = now ∧
      Delivered s (s.env sh (viewR 0x46 f)) (.val now) t := by
  have hlat : sh.lat = 1 := by rw [← Option.some.inj h.1]
  have hdst : sh.dst = .value := by rw [← Option.some.inj h.1]
  let D := s.dequeue s.cur.proc (s.ctxNo (viewR 0x46 f)) sh (viewR 0x46 f)
  refine ⟨_, (D.view s.cur.proc).1, issue_of_ok h rfl, viewed_dequeue .., ?_, ?_⟩
  · rw [finish_view]; exact view_view D s.cur.proc
  · have hagree : AgreeButView s.cur.proc D (D.view s.cur.proc).2 := agreeButView_view ..
    refine (hagree.finish (e := s.env sh (viewR 0x46 f)) (latencyOf_env_le hlat) _).delivered ?_
    exact delivered_finish s sh (viewR 0x46 f) _ (by rw [hdst]; decide) rfl Nat.succ_le_of_lt

/-- The context that SLEEPU leaves to its issue, for a view `now` and a deadline `d`. -/
def sleepCtx (now d : Word) (C : Ctx) : Ctx := { C with deadline := d, rstate := if now.ult d then .sleep else C.rstate }

/-- The context that sleeps, with its deadline compared over the naturals. -/
theorem sleepCtx_eq (now d : Word) (C : Ctx) :
    sleepCtx now d C = { C with deadline := d, rstate := if now.toNat < d.toNat then .sleep else C.rstate } :=
  congrArg (fun st => ({ C with deadline := d, rstate := st } : Ctx)) (ite_congr decide_eq_true_eq (fun _ => rfl) fun _ => rfl)

/-- The predicates after a word of no value: PACT alone acts, with the condition 1 (02 R60). -/
theorem predsAfter_none (e : Env) : predsAfter e .none = pactOf e.v.pact e.v.pidx.toNat true e.C.p :=
  congrArg (pactOf e.v.pact e.v.pidx.toNat true) (if_neg fun hval => hval.2 rfl)

/-- PACT and the PC act on the context that sleeps as on the one before. -/
theorem sleepCtx_plainAfter (now d : Word) (e : Env) :
    ({ sleepCtx now d e.C with
        p := pactOf e.v.pact e.v.pidx.toNat true (sleepCtx now d e.C).p
        fpflags := (sleepCtx now d e.C).fpflags ||| 0
        pc := if isCore e.p then (sleepCtx now d e.C).pc + 8 else (sleepCtx now d e.C).pc } : Ctx) =
      { plainAfter e with deadline := d, rstate := if now.toNat < d.toNat then .sleep else e.C.rstate } := by
  have hflags : e.C.fpflags ||| 0 = e.C.fpflags := BitVec.or_zero
  simp only [sleepCtx_eq, plainAfter, predsAfter_none, pcAfter, hflags]

/-- 06 R197-R198: SLEEPU sets the deadline against the view it reads, and sleeps while the view is below it. -/
theorem sleepu_of_issues (f : RForm) {s : State} {sh : Shape} (h : Issues (viewR 0x45 f) sh s) :
    ∃ t now, exec (.sleepu f) s = .next t ∧ Viewed s s.cur.proc now ∧ (t.proc s.cur.proc).view = now ∧
      (let e := s.env sh (viewR 0x45 f)
       let d := sleepDeadline (f.mod.getLsbD 0) now e.a
       Leaves s e
        { plainAfter e with deadline := d, rstate := if now.toNat < d.toNat then .sleep else e.C.rstate } t) := by
  have hlat : sh.lat = 1 := by rw [← Option.some.inj h.1]
  let e := s.env sh (viewR 0x45 f)
  let D := s.dequeue s.cur.proc (s.ctxNo (viewR 0x45 f)) sh (viewR 0x45 f)
  let now := (D.view e.p).1
  let G := sleepCtx now (sleepDeadline (f.mod.getLsbD 0) now e.a)
  refine ⟨_, now, issue_of_ok h rfl, viewed_dequeue .., ?_, ?_⟩
  · rw [finish_view]
    exact (modCtx_view ..).trans ((mendSite_view ..).trans (view_view D e.p))
  · have hagree : AgreeButView e.p (D.modCtx e.p e.c G) (((D.view e.p).2.mendSite e.p e.c (sprSite 3)).modCtx e.p e.c G) :=
      ((agreeButView_view D e.p).trans (agreeButView_mendSite ..)).modCtx e.c G
    refine (hagree.finish (latencyOf_env_le hlat) .none).leaves ?_
    rw [← sleepCtx_plainAfter]
    exact leaves_finish h hlat G

/-- Settles O10, from what TIME and SLEEPU each do when they issue. -/
theorem timeAndSleepWords : Obligations.TimeAndSleepWords :=
  fun f _ _ => ⟨time_of_issues f, sleepu_of_issues f⟩

end Sys2Proof.Laws
end

section
/-! PROOFS. The round trip of decoding and encoding. A word is its opcode beside the fields of its form, and both can be read
back from it; so the row of the opcode map that the decoder reads at a word holds the one instruction whose word it is. -/

namespace Sys2Proof.Laws

open Sys2Proof Sys2Proof.Machine

/-! ### Fields of a word -/

/-- Neighbouring fields of a word are one field. -/
theorem fld_append (w : Word) (lo n m : Nat) : fld w (lo + n) m ++ fld w lo n = fld w lo (m + n) :=
  BitVec.extractLsb'_append_extractLsb'_eq_extractLsb' rfl

/-- A field as a number. -/
theorem toNat_fld (w : Word) (lo n : Nat) : (fld w lo n).toNat = fldN w lo n := by
  rw [fld, BitVec.extractLsb'_toNat, Nat.shiftRight_eq_div_pow, fldN]

/-- The trigger bits of a word are its top field. -/
theorem triggerBits_triggerOf (w : Word) : triggerBits (triggerOf w) = fld w 36 28 := by
  simp only [triggerBits, triggerOf]
  rw [fld_append w 54 8 2, fld_append w 46 8 10, fld_append w 43 3 18, fld_append w 39 4 21, fld_append w 36 3 25]

/-- A word is its opcode and its register-form fields (02 R47, R52). -/
theorem rword_rformOf (w : Word) : rword (fld w 28 8) (rformOf w) = w := by
  simp only [rword, rformOf, triggerBits_triggerOf]
  rw [fld_append w 28 8 28, fld_append w 23 5 36, fld_append w 18 5 41, fld_append w 13 5 46, fld_append w 11 2 51,
    fld_append w 8 3 53, fld_append w 4 4 56, fld_append w 0 4 60]
  exact BitVec.extractLsb'_eq_self

/-- A word is its opcode and its immediate-form fields. -/
theorem iword_iformOf (w : Word) : iword (fld w 28 8) (iformOf w) = w := by
  simp only [iword, iformOf, triggerBits_triggerOf]
  rw [fld_append w 28 8 28, fld_append w 23 5 36, fld_append w 18 5 41, fld_append w 8 10 46, fld_append w 4 4 56,
    fld_append w 0 4 60]
  exact BitVec.extractLsb'_eq_self

/-- A word is its opcode and its W-form fields. -/
theorem wword_wformOf (w : Word) : wword (fld w 28 8) (wformOf w) = w := by
  simp only [wword, wformOf, triggerBits_triggerOf]
  rw [fld_append w 28 8 28, fld_append w 23 5 36, fld_append w 7 16 41, fld_append w 3 4 57, fld_append w 2 1 61,
    fld_append w 0 2 62]
  exact BitVec.extractLsb'_eq_self

/-- A word is its opcode and its branch-form fields. -/
theorem bword_bformOf (w : Word) : bword (fld w 28 8) (bformOf w) = w := by
  simp only [bword, bformOf, triggerBits_triggerOf]
  rw [fld_append w 28 8 28, fld_append w 0 28 36]
  exact BitVec.extractLsb'_eq_self

/-- Bit vectors side by side are equal when their parts are. -/
theorem append_inj {m n : Nat} {x x' : BitVec m} {y y' : BitVec n} (h : x ++ y = x' ++ y') : x = x' ∧ y = y' := by
  have hy : y = y' := by simpa only [BitVec.extractLsb'_append_eq_right] using congrArg (BitVec.extractLsb' 0 n) h
  subst hy
  exact ⟨(BitVec.append_left_inj y).mp h, rfl⟩

/-- The trigger bits tell triggers apart. -/
theorem triggerBits_inj {t u : Trigger} (h : triggerBits t = triggerBits u) : t = u := by
  obtain ⟨h, hchb⟩ := append_inj h
  obtain ⟨h, htga⟩ := append_inj h
  obtain ⟨h, hcha⟩ := append_inj h
  obtain ⟨h, hpval⟩ := append_inj h
  obtain ⟨hctx, hpcare⟩ := append_inj h
  cases t; cases u
  simp_all only

/-- Register-form words tell opcodes and fields apart. -/
theorem rword_inj {o o' : BitVec 8} {f g : RForm} (h : rword o f = rword o' g) : o = o' ∧ f = g := by
  obtain ⟨h, hmod⟩ := append_inj h
  obtain ⟨h, hdq⟩ := append_inj h
  obtain ⟨h, hpidx⟩ := append_inj h
  obtain ⟨h, hpact⟩ := append_inj h
  obtain ⟨h, hsb⟩ := append_inj h
  obtain ⟨h, hsa⟩ := append_inj h
  obtain ⟨h, hdst⟩ := append_inj h
  obtain ⟨htrig, hopc⟩ := append_inj h
  have htrig := triggerBits_inj htrig
  cases f; cases g
  simp_all only [and_self]

/-- Immediate-form words tell opcodes and fields apart. -/
theorem iword_inj {o o' : BitVec 8} {f g : IForm} (h : iword o f = iword o' g) : o = o' ∧ f = g := by
  obtain ⟨h, hmod⟩ := append_inj h
  obtain ⟨h, hdq⟩ := append_inj h
  obtain ⟨h, himm⟩ := append_inj h
  obtain ⟨h, hsa⟩ := append_inj h
  obtain ⟨h, hdst⟩ := append_inj h
  obtain ⟨htrig, hopc⟩ := append_inj h
  have htrig := triggerBits_inj htrig
  cases f; cases g
  simp_all only [and_self]

/-- W-form words tell opcodes and fields apart. -/
theorem wword_inj {o o' : BitVec 8} {f g : WForm} (h : wword o f = wword o' g) : o = o' ∧ f = g := by
  obtain ⟨h, hhw⟩ := append_inj h
  obtain ⟨h, hins⟩ := append_inj h
  obtain ⟨h, hzero⟩ := append_inj h
  obtain ⟨h, himm⟩ := append_inj h
  obtain ⟨h, hdst⟩ := append_inj h
  obtain ⟨htrig, hopc⟩ := append_inj h
  have htrig := triggerBits_inj htrig
  cases f; cases g
  simp_all only [and_self]

/-- Branch-form words tell opcodes and fields apart. -/
theorem bword_inj {o o' : BitVec 8} {f g : BForm} (h : bword o f = bword o' g) : o = o' ∧ f = g := by
  obtain ⟨h, hdisp⟩ := append_inj h
  obtain ⟨htrig, hopc⟩ := append_inj h
  have htrig := triggerBits_inj htrig
  cases f; cases g
  simp_all only [and_self]

/-- The opcode of a register-form word. -/
@[simp] theorem fld_opc_rword (o : BitVec 8) (f : RForm) : fld (rword o f) 28 8 = o := (rword_inj (rword_rformOf _)).1
/-- The fields of a register-form word. -/
@[simp] theorem rformOf_rword (o : BitVec 8) (f : RForm) : rformOf (rword o f) = f := (rword_inj (rword_rformOf _)).2
/-- The opcode of an immediate-form word. -/
@[simp] theorem fld_opc_iword (o : BitVec 8) (f : IForm) : fld (iword o f) 28 8 = o := (iword_inj (iword_iformOf _)).1
/-- The fields of an immediate-form word. -/
@[simp] theorem iformOf_iword (o : BitVec 8) (f : IForm) : iformOf (iword o f) = f := (iword_inj (iword_iformOf _)).2
/-- The opcode of a W-form word. -/
@[simp] theorem fld_opc_wword (o : BitVec 8) (f : WForm) : fld (wword o f) 28 8 = o := (wword_inj (wword_wformOf _)).1
/-- The fields of a W-form word. -/
@[simp] theorem wformOf_wword (o : BitVec 8) (f : WForm) : wformOf (wword o f) = f := (wword_inj (wword_wformOf _)).2
/-- The opcode of a branch-form word. -/
@[simp] theorem fld_opc_bword (o : BitVec 8) (f : BForm) : fld (bword o f) 28 8 = o := (bword_inj (bword_bformOf _)).1
/-- The fields of a branch-form word. -/
@[simp] theorem bformOf_bword (o : BitVec 8) (f : BForm) : bformOf (bword o f) = f := (bword_inj (bword_bformOf _)).2

/-! ### The fields that select an instruction -/

/-- The high digit of the opcode. -/
theorem fldN_opcHi (w : Word) : fldN w 32 4 = (fld w 28 8).toNat / 16 := by
  rw [toNat_fld]; simp only [fldN]; omega

/-- The low digit of the opcode. -/
theorem fldN_opcLo (w : Word) : fldN w 28 4 = (fld w 28 8).toNat % 16 := by
  rw [toNat_fld]; simp only [fldN]; omega

/-- The opcode of a word by its digits. -/
theorem fld_opc_of_digits {w : Word} {hi lo : Nat} (hhi : fldN w 32 4 = hi) (hlo : fldN w 28 4 = lo) :
    fld w 28 8 = BitVec.ofNat 8 (16 * hi + lo) := by
  apply BitVec.eq_of_toNat_eq
  rw [toNat_fld, BitVec.toNat_ofNat]
  simp only [fldN] at *
  omega

/-- The low two bits of MOD. -/
theorem fldN_mod4 (w : Word) : fldN w 0 2 = (rformOf w).mod.toNat % 4 := by
  simp only [rformOf, toNat_fld, fldN]; omega
/-- The lowest bit of MOD. -/
theorem fldN_mod2 (w : Word) : fldN w 0 1 = (rformOf w).mod.toNat % 2 := by
  simp only [rformOf, toNat_fld, fldN]; omega
/-- MOD. -/
theorem fldN_mod (w : Word) : fldN w 0 4 = (rformOf w).mod.toNat := by
  simp only [rformOf, toNat_fld]
/-- The highest bit of MOD. -/
theorem fldN_modTop (w : Word) : fldN w 3 1 = (rformOf w).mod.toNat / 8 := by
  simp only [rformOf, toNat_fld, fldN]; omega
/-- SB. -/
theorem fldN_sb (w : Word) : fldN w 13 5 = (rformOf w).sb.toNat := by
  simp only [rformOf, toNat_fld]
/-- INS. -/
theorem fldN_ins (w : Word) : fldN w 2 1 = (wformOf w).ins.toNat := by
  simp only [wformOf, toNat_fld]

/-! ### Words and the instructions they stand for -/

/-- The field that tells the rows of an opcode apart names the row of this instruction. -/
def selects : Instr → Bool
  | .movw f => f.ins.toNat == 0
  | .movwIns f => f.ins.toNat == 1
  | .bcvtPack f => f.mod.toNat / 8 == 0
  | .bcvtUnpack f => f.mod.toNat / 8 == 1
  | .klend f | .planLoad f | .mxbind f | .resumeRetry f => f.mod.toNat % 4 == 0
  | .klendRet f | .planStep f | .mxbindCb f | .resumeSkip f => f.mod.toNat % 4 == 1
  | .klendQ f | .planDrop f | .mxbindFree f | .resumeRoll f => f.mod.toNat % 4 == 2
  | .resumeCancel f => f.mod.toNat % 4 == 3
  | .tiletagCas f => f.sb.toNat == 0
  | .tiletagSet f => f.sb.toNat == 1
  | .tiletagRd f => f.sb.toNat == 2
  | .collSumf f => f.mod.toNat == 0
  | .collMinf f => f.mod.toNat == 1
  | .collMaxf f => f.mod.toNat == 2
  | .collSumi f => f.mod.toNat == 3
  | .collMini f => f.mod.toNat == 4
  | .collMaxi f => f.mod.toNat == 5
  | .collBcast f => f.mod.toNat == 6
  | .collBarrier f => f.mod.toNat == 7
  | .run f => f.sb.toNat == 24
  | .runContext f => f.sb.toNat != 24
  | .freeze f | .markSnap f | .save f => f.mod.toNat % 2 == 0
  | .freezeRel f | .markPre f | .saveRel f => f.mod.toNat % 2 == 1
  | _ => true

/-- A word instruction is well formed when its word is legal in some place and names its row. -/
theorem wf_of_encode {i : Instr} {w : Word} (he : encode i = some w) : i.wf = (legalWord w && selects i) := by
  cases i <;> cases he <;> simp only [Instr.wf, selects, Bool.and_true]

/-- The decoder accepts exactly the words that are legal in some place. -/
theorem decodeWord_eq_ok {w : Word} {i : Instr} :
    decodeWord w = .ok i ↔ legalWord w = true ∧ selectInstr w = .ok i := by
  by_cases helem : check false w = 0 <;> by_cases hcore : check true w = 0 <;>
    simp [decodeWord, decodeAt, legalWord, helem, hcore]

/-- Word `w` is the word of instruction `i`, and names its row. -/
def StandsFor (w : Word) (i : Instr) : Prop := encode i = some w ∧ selects i = true

/-- The decoder selects the instruction whose word it is given: the two digits of the opcode pick the row and the line of the
opcode map, and where rows of the operation table share an opcode, the field that tells them apart picks the row. -/
theorem selectInstr_of_standsFor {w : Word} {i : Instr} (h : StandsFor w i) : selectInstr w = .ok i := by
  obtain ⟨he, hs⟩ := h
  cases i
  all_goals cases he
  all_goals simp only [selects, beq_iff_eq, bne_iff_ne] at hs
  all_goals simp [selectInstr, fldN_opcHi, fldN_opcLo, fldN_mod4, fldN_mod2, fldN_mod, fldN_modTop, fldN_sb, fldN_ins, hs,
    decodeRow0, decodeRow1, decodeRow2, decodeRow3, decodeRow4, decodeRow5, decodeRow6, decodeRow7, decodeRow8, decodeRow9,
    decodeRowA, decodeRowB, decodeRowC, decodeRowD, decodeRowE, decodeRowF]

/-! ### The rows of the opcode map -/

/-- A word stands for the instruction of its opcode that holds its register-form fields. -/
theorem standsFor_rform {w : Word} {o : BitVec 8} {i : Instr} (ho : fld w 28 8 = o)
    (he : encode i = some (rword o (rformOf w))) (hs : selects i = true) : StandsFor w i :=
  ⟨by rw [he, ← ho, rword_rformOf], hs⟩

/-- A word stands for the instruction of its opcode that holds its immediate-form fields. -/
theorem standsFor_iform {w : Word} {o : BitVec 8} {i : Instr} (ho : fld w 28 8 = o)
    (he : encode i = some (iword o (iformOf w))) (hs : selects i = true) : StandsFor w i :=
  ⟨by rw [he, ← ho, iword_iformOf], hs⟩

/-- A word stands for the instruction of its opcode that holds its W-form fields. -/
theorem standsFor_wform {w : Word} {o : BitVec 8} {i : Instr} (ho : fld w 28 8 = o)
    (he : encode i = some (wword o (wformOf w))) (hs : selects i = true) : StandsFor w i :=
  ⟨by rw [he, ← ho, wword_wformOf], hs⟩

/-- A word stands for the instruction of its opcode that holds its branch-form fields. -/
theorem standsFor_bform {w : Word} {o : BitVec 8} {i : Instr} (ho : fld w 28 8 = o)
    (he : encode i = some (bword o (bformOf w))) (hs : selects i = true) : StandsFor w i :=
  ⟨by rw [he, ← ho, bword_bformOf], hs⟩

/-- What the decoder reads in a row of the opcode map, the word stands for. -/
def RowSound (hi : Nat) (row : Word → Nat → Except Reject Instr) : Prop :=
  ∀ w lo i, fld w 28 8 = BitVec.ofNat 8 (16 * hi + lo) → row w lo = .ok i → StandsFor w i

/-- A field of one bit that is not 0 is 1. -/
theorem fldN_eq_one {w : Word} {lo : Nat} (h : fldN w lo 1 = 0 → False) : fldN w lo 1 = 1 := by
  have hne : fldN w lo 1 ≠ 0 := h
  have hlt : fldN w lo 1 < 2 := Nat.mod_lt _ (by decide)
  omega

theorem decodeRow3_sound : RowSound 3 decodeRow3 := fun w lo i ho h => by
  unfold decodeRow3 at h
  split at h
  case h_14 =>
    split at h <;> cases h
    next hins => exact standsFor_wform ho rfl (beq_iff_eq.mpr ((fldN_ins w).symm.trans hins))
    next hins => exact standsFor_wform ho rfl (beq_iff_eq.mpr ((fldN_ins w).symm.trans (fldN_eq_one hins)))
  all_goals cases h <;> exact standsFor_iform ho rfl rfl

theorem decodeRow4_sound : RowSound 4 decodeRow4 := fun w lo i ho h => by
  unfold decodeRow4 at h
  split at h
  case h_8 | h_9 | h_10 => cases h; exact standsFor_iform ho rfl rfl
  all_goals cases h <;> exact standsFor_rform ho rfl rfl

theorem decodeRow8_sound : RowSound 8 decodeRow8 := fun w lo i ho h => by
  unfold decodeRow8 at h
  split at h
  case h_4 =>
    split at h <;> cases h
    next hmod => exact standsFor_rform ho rfl (beq_iff_eq.mpr ((fldN_modTop w).symm.trans hmod))
    next hmod => exact standsFor_rform ho rfl (beq_iff_eq.mpr ((fldN_modTop w).symm.trans (fldN_eq_one hmod)))
  all_goals cases h <;> exact standsFor_rform ho rfl rfl

theorem decodeRowA_sound : RowSound 10 decodeRowA := fun w lo i ho h => by
  unfold decodeRowA at h
  split at h
  case h_8 =>
    rw [fldN_mod4] at h
    split at h <;> cases h <;> exact standsFor_rform ho rfl (beq_iff_eq.mpr ‹_›)
  all_goals cases h <;> exact standsFor_rform ho rfl rfl

theorem decodeRowC_sound : RowSound 12 decodeRowC := fun w lo i ho h => by
  unfold decodeRowC at h
  split at h
  case h_9 =>
    rw [fldN_sb] at h
    split at h <;> cases h <;> exact standsFor_rform ho rfl (beq_iff_eq.mpr ‹_›)
  all_goals cases h <;> exact standsFor_rform ho rfl rfl

theorem decodeRowD_sound : RowSound 13 decodeRowD := fun w lo i ho h => by
  unfold decodeRowD at h
  split at h
  case h_10 =>
    rw [fldN_mod4] at h
    split at h <;> cases h <;> exact standsFor_rform ho rfl (beq_iff_eq.mpr ‹_›)
  all_goals cases h <;> exact standsFor_rform ho rfl rfl

theorem decodeRowE_sound : RowSound 14 decodeRowE := fun w lo i ho h => by
  unfold decodeRowE at h
  split at h
  case h_3 =>
    rw [fldN_mod4] at h
    split at h <;> cases h <;> exact standsFor_rform ho rfl (beq_iff_eq.mpr ‹_›)
  case h_11 =>
    rw [fldN_mod] at h
    split at h <;> cases h <;> exact standsFor_rform ho rfl (beq_iff_eq.mpr ‹_›)
  all_goals cases h <;> exact standsFor_rform ho rfl rfl

theorem decodeRowF_sound : RowSound 15 decodeRowF := fun w lo i ho h => by
  unfold decodeRowF at h
  split at h
  case h_1 | h_2 => cases h; exact standsFor_bform ho rfl rfl
  case h_7 =>
    rw [fldN_sb] at h
    split at h <;> cases h
    next hsb => exact standsFor_rform ho rfl (beq_iff_eq.mpr hsb)
    next hsb => exact standsFor_rform ho rfl (bne_iff_ne.mpr hsb)
  case h_8 | h_10 | h_11 =>
    split at h <;> cases h
    next hmod => exact standsFor_rform ho rfl (beq_iff_eq.mpr ((fldN_mod2 w).symm.trans hmod))
    next hmod => exact standsFor_rform ho rfl (beq_iff_eq.mpr ((fldN_mod2 w).symm.trans (fldN_eq_one hmod)))
  case h_15 =>
    rw [fldN_mod4] at h
    split at h <;> cases h
    case h_4 hne0 hne1 hne2 =>
      have h0 : (rformOf w).mod.toNat % 4 ≠ 0 := hne0
      have h1 : (rformOf w).mod.toNat % 4 ≠ 1 := hne1
      have h2 : (rformOf w).mod.toNat % 4 ≠ 2 := hne2
      exact standsFor_rform ho rfl (beq_iff_eq.mpr (by omega))
    all_goals exact standsFor_rform ho rfl (beq_iff_eq.mpr ‹_›)
  all_goals cases h <;> exact standsFor_rform ho rfl rfl

/-- What the decoder selects, the word stands for: the rows above, and those whose lines all hold the register form. -/
theorem standsFor_of_selectInstr {w : Word} {i : Instr} (h : selectInstr w = .ok i) : StandsFor w i := by
  have ho := fld_opc_of_digits (w := w) rfl rfl
  have hlt : fldN w 32 4 < 16 := Nat.mod_lt _ (by decide)
  unfold selectInstr at h
  generalize fldN w 32 4 = hi, fldN w 28 4 = lo at *
  split at h
  case h_4 => exact decodeRow3_sound _ _ _ ho h
  case h_5 => exact decodeRow4_sound _ _ _ ho h
  case h_9 => exact decodeRow8_sound _ _ _ ho h
  case h_11 => exact decodeRowA_sound _ _ _ ho h
  case h_13 => exact decodeRowC_sound _ _ _ ho h
  case h_14 => exact decodeRowD_sound _ _ _ ho h
  case h_15 => exact decodeRowE_sound _ _ _ ho h
  case h_16 =>
    obtain rfl : hi = 15 := by grind
    exact decodeRowF_sound _ _ _ ho h
  all_goals
    delta decodeRow0 decodeRow1 decodeRow2 decodeRow5 decodeRow6 decodeRow7 decodeRow9 decodeRowB at h
    dsimp only at h
    split at h <;> cases h <;> exact standsFor_rform ho rfl rfl

/-! ### The round trip -/

/-- Settles O59: the decoder's selection and the encoding are two readings of one relation, and well-formedness is the decode
check beside it. -/
theorem encodeDecode : Obligations.EncodeDecode := by
  refine ⟨fun i w hwf he => ?_, fun w i h => ?_⟩
  · rw [wf_of_encode he, Bool.and_eq_true] at hwf
    obtain ⟨hlegal, hs⟩ := hwf
    exact decodeWord_eq_ok.mpr ⟨hlegal, selectInstr_of_standsFor ⟨he, hs⟩⟩
  · obtain ⟨hlegal, hsel⟩ := decodeWord_eq_ok.mp h
    obtain ⟨he, hs⟩ := standsFor_of_selectInstr hsel
    exact ⟨he, by rw [wf_of_encode he, hlegal, hs]; rfl⟩

end Sys2Proof.Laws
end

section
/-! PROOFS. The words of the encoding tables, and the delivery of a result whose latency has passed. -/

namespace Sys2Proof.Laws

open Sys2Proof Sys2Proof.Machine

/-- Settles O57: the decoder evaluates each word. -/
theorem decodedWords : Obligations.DecodedWords :=
  ⟨rfl, rfl, rfl, rfl, rfl, rfl, rfl, rfl, rfl, rfl, rfl⟩

/-! ### A late delivery -/

/-- Consecutive registers written one after the other (04 R115). -/
theorem setRegs_eq_foldl (C : Ctx) (r : Nat) (ws : List Word) :
    C.setRegs r ws = { C with x := (List.range ws.length).foldl (fun x j => vset x (r + j) (ws.getD j 0)) C.x } := by
  induction ws generalizing C r with
  | nil => rfl
  | cons w ws ih =>
    have hshift (j : Nat) : r + 1 + j = r + (j + 1) := by omega
    simp only [Ctx.setRegs, ih, List.length_cons, List.range_succ_eq_map, List.foldl_cons, List.foldl_map, hshift]
    rfl

/-- A delivery in the terms of its context's fields. -/
theorem deliverCtx_eq (o : Outst) (C : Ctx) :
    deliverCtx o C =
      { C with
        x := if o.dst.toNat < 16 then
            (List.range o.vals.length).foldl (fun x j => vset x (o.dst.toNat + j) (o.vals.getD j 0)) C.x
          else C.x
        p := pactOf o.pact o.pidx.toNat o.cond
          (if 24 ≤ o.dst.toNat ∧ o.vals ≠ [] then setPred C.p (o.dst.toNat - 24) o.pv else C.p)
        fpflags := C.fpflags ||| o.flags } := by
  by_cases hreg : o.dst.toNat < 16
  · simp only [deliverCtx, if_pos hreg, setRegs_eq_foldl]
  · simp only [deliverCtx, if_neg hreg]

/-- A context's result `o` is delivered and outstanding no more. -/
def lateCtx (o : Outst) (C : Ctx) : Ctx := deliverCtx o { C with outst := C.outst.erase o }

/-- Mending a register leaves the output channels. -/
theorem mend_keeps_outs (P : Proc) (c : Nat) (o : Outst) : P.mend c o = { P.mend c o with outs := P.outs } := by
  rw [mend_rest]

/-- What a late delivery does to its unit. -/
theorem deliverLate_proc (s : State) (p c : Nat) (o : Outst) :
    (s.deliverLate p c o).proc p =
      { ((s.proc p).setCtx c (lateCtx o (s.ctx p c))).mend c o with
        outs := if toOut o then
            vset (s.proc p).outs (o.dst.toNat - 16)
              (fillEntry (vget (s.proc p).outs (o.dst.toNat - 16)) o.resv (dataTok o.tag (o.vals.headD 0)))
          else (s.proc p).outs } := by
  unfold State.deliverLate
  split
  · simp only [State.modOut, proc_modProc_self, mend_outs, setCtx_outs]; rfl
  · rw [proc_modProc_self]; exact mend_keeps_outs _ c o

/-- A late delivery touches its unit only. -/
theorem deliverLate_onlyUnit (s : State) (p c : Nat) (o : Outst) : OnlyUnit s (s.deliverLate p c o) p := by
  unfold State.deliverLate
  split
  · exact ⟨rfl, fun q hq => by rw [State.modOut, proc_modProc_ne _ _ hq, proc_modProc_ne _ _ hq]⟩
  · exact ⟨rfl, fun q hq => proc_modProc_ne _ _ hq⟩

/-- The contexts of the unit after a late delivery. -/
theorem deliverLate_ctx (s : State) (p c k : Nat) (o : Outst) :
    (s.deliverLate p c o).ctx p k = ((s.proc p).setCtx c (lateCtx o (s.ctx p c))).ctx k := by
  rw [State.ctx, deliverLate_proc, mend_rest]; rfl

/-- A result goes to output channel `j` exactly when DST names it and there is a value. -/
theorem toOut_and_dst_iff {o : Outst} {j : Nat} (hj : j < 4) :
    (toOut o = true ∧ o.dst.toNat = 16 + j) ↔ (o.dst.toNat = 16 + j ∧ o.vals ≠ []) := by
  simp only [toOut, Bool.and_eq_true, decide_eq_true_eq, Bool.not_eq_true', List.isEmpty_eq_false_iff]
  constructor
  · rintro ⟨⟨-, hvals⟩, hdst⟩; exact ⟨hdst, hvals⟩
  · rintro ⟨hdst, hvals⟩; exact ⟨⟨⟨by omega, by omega⟩, hvals⟩, hdst⟩

/-- The output channels after a late delivery: the entry that the result reserved is filled (04 R110). -/
theorem deliverLate_outs (s : State) (p c : Nat) (o : Outst) {j : Nat} (hj : j < 4) :
    vget ((s.deliverLate p c o).proc p).outs j =
      if o.dst.toNat = 16 + j ∧ o.vals ≠ [] then
        fillEntry (vget (s.proc p).outs j) o.resv (dataTok o.tag (o.vals.headD 0))
      else vget (s.proc p).outs j := by
  simp only [deliverLate_proc, ← toOut_and_dst_iff hj]
  by_cases hout : toOut o = true
  · have hdst : o.dst.toNat - 16 < 4 ∧ 16 ≤ o.dst.toNat := by
      simp only [toOut, Bool.and_eq_true, decide_eq_true_eq] at hout; omega
    rw [if_pos hout, vget_vset _ hdst.1 hj]
    by_cases hjd : j = o.dst.toNat - 16
    · rw [if_pos hjd, if_pos ⟨hout, by omega⟩, hjd]
    · rw [if_neg hjd, if_neg fun h => hjd (by omega)]
  · rw [if_neg hout, if_neg fun h => hout h.1]

/-- Settles O27: a due result is delivered late. -/
theorem resultDelivery : Obligations.ResultDelivery := by
  intro p c k s o hc ho hdue
  refine ⟨s.deliverLate p c o, ?_, deliverLate_onlyUnit s p c o, fun j hj hjc => ?_, ?_, fun j hj => ?_, ?_, ?_⟩
  · show execResultDelivery p c k s = _
    simp only [execResultDelivery, ho, if_pos hdue]
  · rw [deliverLate_ctx, ctx_setCtx_ne _ hc hj _ hjc]; rfl
  · rw [deliverLate_ctx, ctx_setCtx_self, lateCtx, deliverCtx_eq]
  · exact deliverLate_outs s p c o hj
  · rw [deliverLate_proc, mend_rest]; rfl
  · rw [deliverLate_proc, mend_rest]; rfl

end Sys2Proof.Laws
end

section
/-! PROOFS. The faults that an issue meets before its effect (02 R68-R71; 06 R204-R207; 15 R398). -/

namespace Sys2Proof.Laws

open Sys2Proof Sys2Proof.Machine

/-- The issue fault `f` of the word in hand, with the operands that `f` names. -/
theorem faultTaken_takeFault (s : State) (sh : Shape) (v : View) (kind : FaultKind) (f : Flt) (h2 : f.op2 = 0) :
    FaultTaken s (s.env sh v) kind f.code f.cause (f.op0.getD 0) (f.op1.getD 0)
      (s.takeFault kind (s.env sh v).p (s.env sh v).c s.cur.slot s.cur.word f) := by
  have hc : (s.env sh v).c < 4 := ctxNo_lt s v
  refine ⟨?_, fun k hk hkc => ?_, ?_, fun q hq => takeFault_proc_ne _ _ _ _ _ _ _ _ _ hq, fun a => rfl,
    ⟨rfl, rfl, rfl, rfl, rfl⟩, (s.view (s.env sh v).p).1, viewed_view _ _, ?_⟩
  · rw [State.ctx, takeFault_proc, ctx_setCtx_self]; rfl
  · rw [State.ctx, takeFault_proc, ctx_setCtx_ne _ hc hk _ hkc]; rfl
  · rw [takeFault_proc]; rfl
  · rw [takeFault_die]
    simp [faultWords, h2, put]

/-- A fault that names no operands takes those of the word in hand (16 R422). -/
theorem faultTaken_withOps (s : State) (kind : FaultKind) (f : Flt) (h0 : f.op0 = none) (h1 : f.op1 = none) (h2 : f.op2 = 0) :
    FaultTaken s s.curEnv kind f.code f.cause s.curEnv.a s.curEnv.b
      (s.takeFault kind s.curEnv.p s.curEnv.c s.cur.slot s.cur.word (f.withOps s.curEnv)) := by
  have ha : (f.withOps s.curEnv).op0.getD 0 = s.curEnv.a := by simp only [Flt.withOps, h0, Option.getD]
  have hb : (f.withOps s.curEnv).op1.getD 0 = s.curEnv.b := by simp only [Flt.withOps, h1, Option.getD]
  rw [← ha, ← hb]
  exact faultTaken_takeFault s _ _ kind (f.withOps s.curEnv) h2

/-- A word that fails the decode check takes illegal-instruction, or illegal-in-mode for reason 4 (02 R70-R71). -/
theorem faultTaken_illegal {s : State} {core : Bool} (h : check core s.cur.word ≠ 0) :
    FaultTaken s s.curEnv .issue (if check core s.cur.word = 4 then 2 else 1) 0 s.curEnv.a s.curEnv.b (s.illegalFault core) := by
  unfold State.illegalFault
  simp only [if_neg h]
  exact faultTaken_withOps s .issue { code := if check core s.cur.word = 4 then 2 else 1 } rfl rfl rfl

/-- On a control core the word in hand issues in the context in hand (02 R64). -/
theorem ctxNo_core {s : State} (hcore : isCore s.cur.proc = true) (v : View) : s.ctxNo v = s.cur.ctx.toNat := if_pos hcore

/-- A PC past the end of a core's local memory takes BOUNDS, with no word in hand and the PC as an operand (15 R398). -/
theorem faultTaken_fetch {s : State} (hcore : isCore s.cur.proc = true) (slot : Nat) (pc : Word) :
    let s' : State := { s with cur := { s.cur with slot := slot, word := 0 } }
    FaultTaken s' s'.curEnv .fetch 5 0 pc 0
      (s.takeFault .fetch s.cur.proc s.cur.ctx.toNat slot 0 { code := 5, op0 := some pc, op1 := some 0 }) := by
  intro s'
  have h := faultTaken_takeFault s' ((shapeOf (viewOf 0)).getD blankShape) (viewOf 0) .fetch
    { code := 5, op0 := some pc, op1 := some 0 } rfl
  rw [show (s'.env _ _).c = s.cur.ctx.toNat from ctxNo_core hcore _] at h
  exact ⟨h.ctx, h.others, h.unit, h.units, h.bytes, h.clusters, h.record⟩

/-- Settles O31, by the fault that each of the three events takes. -/
theorem issueFaults : Obligations.IssueFaults := by
  refine fun s => ⟨fun hcheck hbad => ?_, fun hcheck hbad => ?_, ?_, fun hcore => ⟨fun hpc => ?_, fun hpc hcheck => ?_⟩⟩
  · refine ⟨s.takeEcc s.curEnv, ?_, faultTaken_withOps s .issue fltIntegrity rfl rfl rfl⟩
    show execIllegalSlotIssue s = _
    rw [execIllegalSlotIssue, if_pos ⟨hcheck, hbad⟩]
  · refine ⟨s.illegalFault false, ?_, faultTaken_illegal hcheck⟩
    show execIllegalSlotIssue s = _
    rw [execIllegalSlotIssue, if_neg fun h => by simp [hbad] at h]
  · exact ⟨_, rfl, faultTaken_withOps s .brk { code := 18, cause := 1 } rfl rfl rfl⟩
  · refine ⟨_, ?_, faultTaken_fetch hcore _ _⟩
    show execCoreFetchFault s = _
    simp only [execCoreFetchFault, if_pos hpc]
  · refine ⟨s.illegalFault true, ?_, faultTaken_illegal hcheck⟩
    show execCoreFetchFault s = _
    simp only [execCoreFetchFault, if_neg (Nat.not_lt.mpr hpc)]

end Sys2Proof.Laws
end

section
/-! PROOFS. A step runs the instruction that the fetched word decodes to (04 R103-R104; 02 R64; 15 R393). -/

namespace Sys2Proof.Laws

open Sys2Proof Sys2Proof.Machine

/-! ### The state at issue -/

/-- State `u` is `t` with the word `x` in hand and, in unit `p`, the issuing context noted as the last. -/
structure HoldsWord (t u : State) (p : Nat) (x : Cur) : Prop where
  cur : u.cur = x
  last : (u.proc p).last = x.ctx
  rest : u = { t with procs := u.procs, cur := u.cur }
  units : ∀ q, q ≠ p → u.proc q = t.proc q

/-- Taking the word in hand after the unit has noted its context. -/
theorem holdsWord_modProc (t : State) (p : Nat) (x : Cur) {f : Proc → Proc} (hf : (f (t.proc p)).last = x.ctx) :
    HoldsWord t { t.modProc p f with cur := x } p x :=
  ⟨rfl, (congrArg Proc.last (proc_modProc_self t p f)).trans hf, rfl, fun _ hq => proc_modProc_ne t f hq⟩

/-- A change of a context of the unit besides. -/
theorem HoldsWord.modCtx {t u : State} {p : Nat} {x : Cur} (h : HoldsWord t u p x) (c : Nat) (f : Ctx → Ctx) :
    HoldsWord t (u.modCtx p c f) p x := by
  refine ⟨h.cur, ?_, ?_, fun q hq => (proc_modProc_ne u _ hq).trans (h.units q hq)⟩
  · rw [State.modCtx, proc_modProc_self, setCtx_last]; exact h.last
  · show ({ u with procs := _ } : State) = _
    rw [h.rest]; rfl

/-- A tag instruction takes its place in the cycle, and changes nothing else. -/
theorem tagTaken_rest (s : State) (p c : Nat) (w : Word) :
    s.tagTaken p c w = { s with tagLast := (s.tagTaken p c w).tagLast } := by
  unfold State.tagTaken; split <;> rfl

/-- A word that is no tag instruction takes no place. -/
theorem tagTaken_of_not {w : Word} (h : isTagOp w = false) (s : State) (p c : Nat) : s.tagTaken p c w = s := by
  rw [State.tagTaken, h]; rfl

/-! ### The fetch of a word that decodes -/

/-- A word that decodes in a place passes the check there. -/
theorem check_of_decodeAt {core : Bool} {w : Word} {i : Instr} (h : decodeAt core w = .ok i) : check core w = 0 := by
  by_cases hcheck : check core w = 0
  · exact hcheck
  · rw [decodeAt, if_neg hcheck] at h
    cases h

/-- The issue of an element whose choice decodes and waits for no place in the cycle (04 R103-R104). -/
theorem fetchElement_of_decodes {s : State} {e k j : Nat} {w : Word} {i : Instr} (hpick : s.pickSlot e = some (k, j))
    (hword : ((s.proc e).slots.get Slot.reset j).word = some w) (hbrk : ((s.proc e).slots.get Slot.reset j).brk = false)
    (hdec : decodeAt false w = .ok i) (hwaits : s.tagWaits e k w = false) :
    ∃ u, s.fetchElement e = (some i, u) ∧
      HoldsWord (s.tagTaken e k w) u e { proc := e, ctx := BitVec.ofNat 2 k, slot := j, word := w } := by
  have hbase := holdsWord_modProc (s.tagTaken e k w) e { proc := e, ctx := BitVec.ofNat 2 k, slot := j, word := w }
    (f := fun P => passCounters P k j (s.eligibleSlots e k)) rfl
  by_cases hstep : (s.ctx e k).stepOver.contains j = true
  · refine ⟨_, ?_, hbase.modCtx k fun C => { C with stepOver := C.stepOver.filter (· != j) }⟩
    simp only [State.fetchElement, hpick, hword, hbrk, hdec, hwaits, hstep, Option.getD_some, Bool.false_and,
      Bool.false_eq_true, if_false, if_true]
  · refine ⟨_, ?_, hbase⟩
    simp only [State.fetchElement, hpick, hword, hbrk, hdec, hwaits, hstep, Option.getD_some, Bool.false_and,
      Bool.false_eq_true, if_false]

/-- The word `w` of a core's context runs: its guard holds and nothing holds it (02 R64). -/
def coreRuns (s : State) (p c : Nat) (w : Word) : Bool :=
  admission ((shapeOf (viewOf w)).getD blankShape) (viewOf w) (s.atCore p c) == .run

/-- A core with the word at a context's PC in hand, and that context noted as the last, in a state that may differ in the place
of the last tag operation. -/
theorem holdsWord_atCore {s t : State} {p c : Nat} {w : Word} (ht : t = { s with tagLast := t.tagLast })
    (hword : s.coreWord p c = w) :
    let u := (t.atCore p c).modProc p fun P => { P with last := BitVec.ofNat 2 c }
    u.ctx p c = s.ctx p c ∧
      HoldsWord t u p { proc := p, ctx := BitVec.ofNat 2 c, slot := (s.ctx p c).pc.toNat, word := w } := by
  have hctx : t.ctx p c = s.ctx p c := by rw [ht]; rfl
  have hcore : t.coreWord p c = w := by rw [← hword, ht]; rfl
  refine ⟨?_, ?_⟩
  · rw [← hctx, State.ctx, proc_modProc_self]; rfl
  · rw [State.atCore, hctx, hcore]
    exact holdsWord_modProc t p { proc := p, ctx := BitVec.ofNat 2 c, slot := (s.ctx p c).pc.toNat, word := w }
      (f := fun P => { P with last := BitVec.ofNat 2 c }) rfl

/-- The issue of a control core whose turn falls to a context with a word that decodes, and that waits for no place in the
cycle if it runs (02 R64, 15 R393). -/
theorem fetchCore_of_decodes {s : State} {p c : Nat} {w : Word} {i : Instr} (hpick : s.pickCtx p = some c)
    (hpc : (s.ctx p c).pc.toNat ≤ 0x3FFF8) (hword : s.coreWord p c = w) (hdec : decodeAt true w = .ok i)
    (hwaits : coreRuns s p c w = true → s.tagWaits p c w = false) :
    ∃ u, s.fetchCore p = (some i, u) ∧ u.ctx p c = s.ctx p c ∧
      HoldsWord (if coreRuns s p c w then s.tagTaken p c w else s) u p
        { proc := p, ctx := BitVec.ofNat 2 c, slot := (s.ctx p c).pc.toNat, word := w } := by
  have hstops : s.coreStops p c = false := by
    rw [State.coreStops, hword, check_of_decodeAt hdec, decide_eq_false (Nat.not_lt.mpr hpc)]; rfl
  cases hruns : coreRuns s p c w
  · refine ⟨_, ?_, holdsWord_atCore rfl hword⟩
    rw [coreRuns] at hruns
    simp only [State.fetchCore, hpick, hstops, hword, hruns, hdec, Bool.false_eq_true, Bool.false_and, if_false]
  · refine ⟨_, ?_, holdsWord_atCore (tagTaken_rest ..) hword⟩
    have hwaits := hwaits hruns
    rw [coreRuns] at hruns
    simp only [State.fetchCore, hpick, hstops, hword, hruns, hdec, hwaits, Bool.false_eq_true, Bool.true_and, if_false, if_true]

/-! ### Steps -/

/-- The agent of a step is the first of the agenda. -/
theorem nextAction_of_agenda {s : State} {a : Action} {rest : List Action} (h : s.agenda = a :: rest) :
    s.nextAction = (a, { s with agenda := rest }) := by
  simp only [State.nextAction, h]

/-- A step runs the instruction that its agent fetches. -/
theorem step_of_fetch {s u : State} {a : Action} {rest : List Action} {i : Instr} (hpow : s.powered = true)
    (hagenda : s.agenda = a :: rest) (hfetch : State.fetch { s with agenda := rest } a = (some i, u)) : step s = exec i u := by
  simp only [step, nextAction_of_agenda hagenda, hfetch]
  rw [hpow]; rfl

/-- Without power no agent but the cold start moves. -/
theorem step_unpowered {s : State} {a : Action} {rest : List Action} (hpow : s.powered = false)
    (hagenda : s.agenda = a :: rest) (hcold : isColdStart a = false) : step s = .fault .unpowered := by
  simp only [step, nextAction_of_agenda hagenda, hcold]
  rw [hpow]; rfl

/-- An agent that is no cold start. -/
theorem isColdStart_eq_false {a : Action} (h : ∀ stages, a ≠ .event (.coldStart stages)) : isColdStart a = false := by
  unfold isColdStart
  split
  · next stages => exact absurd rfl (h stages)
  · rfl

/-- What the state with a word in hand is to the state before the step, whose agenda has lost its first agent. -/
theorem HoldsWord.frame {s t u : State} {rest : List Action} {p : Nat} {x : Cur} (h : HoldsWord t u p x)
    (ht : t = { s with agenda := rest, tagLast := t.tagLast }) :
    u = { s with procs := u.procs, cur := u.cur, agenda := rest, tagLast := u.tagLast } ∧ u.tagLast = t.tagLast ∧
      ∀ q, q ≠ p → u.proc q = s.proc q := by
  have htag : u.tagLast = t.tagLast := by rw [h.rest]
  refine ⟨?_, htag, fun q hq => ?_⟩
  · rw [htag, h.rest, ht]
  · rw [h.units q hq, ht]; rfl

/-- Settles O56, from what the agent of the step fetches. -/
theorem stepRunsFetched : Obligations.StepRunsFetched := by
  refine ⟨?_, ?_, ?_, ?_⟩
  · intro s rest e k j w i hpow hagenda he hpick hword hbrk hdec hwaits
    obtain ⟨u, hfetch, hu⟩ := fetchElement_of_decodes hpick hword hbrk hdec hwaits
    obtain ⟨hrest, htag, hunits⟩ := hu.frame (tagTaken_rest ..)
    refine ⟨u, step_of_fetch hpow hagenda ((if_pos he).trans hfetch), hu.cur, hu.last, hrest, fun hop => ?_, hunits⟩
    rw [htag, tagTaken_of_not hop]
  · intro s rest p c w i hpow hagenda hlo hhi hpick hpc hword hdec runs hwaits
    obtain ⟨u, hfetch, hctx, hu⟩ := fetchCore_of_decodes hpick hpc hword hdec fun h => hwaits (beq_iff_eq.mp h)
    obtain ⟨hrest, htag, hunits⟩ := hu.frame (s := s) (rest := rest) (by
      split
      · exact tagTaken_rest ..
      · rfl)
    refine ⟨u, step_of_fetch hpow hagenda ((if_pos ⟨hlo, hhi⟩).trans hfetch), hu.cur, hu.last, by rw [hctx]; rfl, hrest,
      fun hop => ?_, hunits⟩
    rw [htag]
    rcases hop with hop | hop
    · rw [tagTaken_of_not hop, ite_self]
    · have hskips : coreRuns { s with agenda := rest } p c w = false := beq_eq_false_iff_ne.mpr hop
      rw [hskips]; rfl
  · intro s rest i hpow hagenda hevent hturn
    refine step_of_fetch hpow hagenda ?_
    rw [State.fetch, hevent, hturn]; rfl
  · intro s a rest hpow hagenda hcold
    exact step_unpowered hpow hagenda (isColdStart_eq_false hcold)

end Sys2Proof.Laws
end

section
/-! PROOFS. The values of the logic, bit-count, field and immediate instructions, said of bits and integers (04 R120-R126). -/

namespace Sys2Proof.Laws

open Sys2Proof Sys2Proof.Machine

/-! ### Bit counts (04 R120) -/

/-- A word without a one bit is 0. -/
theorem eq_zero_of_bits {a : Word} (h : ∀ i, i < 64 → a.getLsbD i = false) : a = 0 :=
  BitVec.eq_of_getLsbD_eq fun i hi => by rw [h i hi]; exact BitVec.getLsbD_zero.symm

/-- A number has as many significant bits as its highest one bit says. -/
theorem sigBits_of_bounds {n k : Nat} (hlo : 2 ^ k ≤ n) (hhi : n < 2 ^ (k + 1)) : sigBits n = k + 1 := by
  have hne : n ≠ 0 := by have := Nat.two_pow_pos k; omega
  rw [sigBits, if_neg hne, (Nat.log2_eq_iff hne).mpr ⟨hlo, hhi⟩]

/-- A word whose highest one bit is bit `k` has `k + 1` significant bits. -/
theorem sigBits_of_highest {a : Word} {k : Nat} (hk : a.getLsbD k = true) (hhi : ∀ i, k < i → a.getLsbD i = false) :
    sigBits a.toNat = k + 1 :=
  sigBits_of_bounds (Nat.ge_two_pow_of_testBit hk) (Nat.lt_pow_two_of_testBit _ fun i hi => hhi i hi)

/-- The number of leading zero bits is the place of the first one bit from the top, and 64 without one. -/
theorem clzWord_eq (a : Word) :
    clzWord a = BitVec.ofNat 64 (((List.range 64).find? fun k => a.getLsbD (63 - k)).getD 64) := by
  cases hfind : (List.range 64).find? fun k => a.getLsbD (63 - k) with
  | none =>
    have hzero : a = 0 := eq_zero_of_bits fun i hi => by
      have h := List.find?_range_eq_none.mp hfind (63 - i) (by omega)
      simpa [show 63 - (63 - i) = i by omega] using h
    subst hzero; rfl
  | some k =>
    obtain ⟨hk, hmem, hbefore⟩ := List.find?_range_eq_some.mp hfind
    have hlt : k < 64 := List.mem_range.mp hmem
    have hbits : sigBits a.toNat = 63 - k + 1 := sigBits_of_highest hk fun i hi => by
      by_cases h64 : i < 64
      · have h := hbefore (63 - i) (by omega)
        simpa [show 63 - (63 - i) = i by omega] using h
      · exact BitVec.getLsbD_of_ge _ _ (by omega)
    rw [clzWord, hbits, Option.getD_some, show 64 - (63 - k + 1) = k by omega]

/-- A word and its negation share their lowest one bit alone. -/
theorem and_neg_of_lowest {a : Word} {k : Nat} (hlt : k < 64) (hk : a.getLsbD k = true)
    (hbefore : ∀ j, j < k → a.getLsbD j = false) : a &&& (0 - a) = BitVec.twoPow 64 k := by
  refine BitVec.eq_of_getLsbD_eq fun i hi => ?_
  have hneg : 0 - a = -a := BitVec.zero_sub a
  rw [hneg, BitVec.getLsbD_and, BitVec.getLsbD_neg, BitVec.getLsbD_twoPow]
  rcases Nat.lt_trichotomy i k with hik | rfl | hki
  · simp [hbefore i hik, show k ≠ i by omega]
  · have hnone : ¬∃ j < i, a.getLsbD j = true := fun ⟨j, hj, hone⟩ => by simp [hbefore j hj] at hone
    simp [hk, hlt, hnone]
  · have hsome : ∃ j < i, a.getLsbD j = true := ⟨k, hki, hk⟩
    simp [hi, hsome, show k ≠ i by omega]

/-- The number of trailing zero bits is the place of the lowest one bit, and 64 without one. -/
theorem ctzWord_eq (a : Word) :
    ctzWord a = BitVec.ofNat 64 (((List.range 64).find? fun k => a.getLsbD k).getD 64) := by
  cases hfind : (List.range 64).find? fun k => a.getLsbD k with
  | none =>
    have hzero : a = 0 := eq_zero_of_bits fun i hi => by simpa using List.find?_range_eq_none.mp hfind i hi
    rw [ctzWord, if_pos hzero]; rfl
  | some k =>
    obtain ⟨hk, hmem, hbefore⟩ := List.find?_range_eq_some.mp hfind
    have hlt : k < 64 := List.mem_range.mp hmem
    have hne : a ≠ 0 := fun h => by simp [h] at hk
    have hlow := and_neg_of_lowest hlt hk fun j hj => by simpa using hbefore j hj
    have hbits : sigBits (2 ^ k) = k + 1 := sigBits_of_bounds (Nat.le_refl _) (Nat.pow_lt_pow_right (by decide) (by omega))
    rw [ctzWord, if_neg hne, hlow, BitVec.toNat_twoPow_of_lt hlt, hbits, Option.getD_some, Nat.add_sub_cancel]

/-- The number of one bits. -/
theorem popcWord_eq (a : Word) :
    popcWord a = BitVec.ofNat 64 ((List.range 64).filter fun k => a.getLsbD k).length := by
  rw [popcWord, List.countP_eq_length_filter]; rfl

/-! ### Words of lanes and bytes (01 R13-R14) -/

/-- A bit of a word of lanes is a bit of the lane it falls in. -/
theorem getLsbD_ofLanes {n : Nat} (hn : 0 < n) (ls : List (BitVec n)) {i : Nat} (hi : i < 64) :
    (ofLanes n ls).getLsbD i = (ls.getD (i / n) 0).getLsbD (i % n) := by
  induction ls generalizing i with
  | nil => simp [ofLanes]
  | cons l ls ih =>
    simp only [ofLanes, BitVec.getLsbD_or, BitVec.getLsbD_shiftLeft, BitVec.getLsbD_setWidth, hi, decide_true, Bool.true_and]
    by_cases hlow : i < n
    · simp [hlow, Nat.div_eq_of_lt hlow, Nat.mod_eq_of_lt hlow]
    · have hle : n ≤ i := Nat.le_of_not_lt hlow
      rw [ih (by omega), ← Nat.mod_eq_sub_mod hle, Nat.div_eq_sub_div hn hle, List.getD_cons_succ,
        BitVec.getLsbD_of_ge l i hle]
      simp [hlow]

/-- The bits in reverse order, as lanes of one bit. -/
theorem brevWord_eq (a : Word) : brevWord a = a.reverse := by
  refine BitVec.eq_of_getLsbD_eq fun i hi => ?_
  rw [brevWord, getLsbD_ofLanes Nat.one_pos _ hi, BitVec.getLsbD_reverse, BitVec.getMsbD_eq_getLsbD]
  simp [lane, hi, Nat.mod_one]

/-- A byte put below a word of bytes. -/
theorem wordOf_cons {n : Nat} {bs : List Byte} {y : BitVec n} (b : Byte) (h : wordOf bs = y.setWidth 64) :
    wordOf (b :: bs) = (y ++ b).setWidth 64 := by
  rw [wordOf, h, BitVec.setWidth_append_eq_shiftLeft_setWidth_or]

/-- The bytes in reverse order, side by side. -/
theorem bswapWord_eq (a : Word) :
    bswapWord a = a.extractLsb' 0 8 ++ a.extractLsb' 8 8 ++ a.extractLsb' 16 8 ++ a.extractLsb' 24 8 ++
      a.extractLsb' 32 8 ++ a.extractLsb' 40 8 ++ a.extractLsb' 48 8 ++ a.extractLsb' 56 8 := by
  have hnil : wordOf [] = (0#0).setWidth 64 := rfl
  have hbytes := wordOf_cons (a.extractLsb' 56 8) <| wordOf_cons (a.extractLsb' 48 8) <| wordOf_cons (a.extractLsb' 40 8) <|
    wordOf_cons (a.extractLsb' 32 8) <| wordOf_cons (a.extractLsb' 24 8) <| wordOf_cons (a.extractLsb' 16 8) <|
    wordOf_cons (a.extractLsb' 8 8) <| wordOf_cons (a.extractLsb' 0 8) hnil
  rw [BitVec.zero_width_append, BitVec.setWidth_eq] at hbytes
  exact hbytes

/-- The number whose digits to base `b` are given, the lowest first. -/
def numberOfDigits (b : Nat) : List Nat → Nat
  | [] => 0
  | d :: ds => d + b * numberOfDigits b ds

/-- Lanes are the digits of their word, the lowest first. -/
theorem ofLanes_eq_digits {n : Nat} (ls : List (BitVec n)) :
    ofLanes n ls = BitVec.ofNat 64 (numberOfDigits (2 ^ n) (ls.map BitVec.toNat)) := by
  induction ls with
  | nil => rfl
  | cons l ls ih =>
    refine BitVec.eq_of_getLsbD_eq fun i hi => ?_
    rw [List.map_cons, numberOfDigits, Nat.add_comm, ofLanes, ih, BitVec.getLsbD_ofNat, Nat.testBit_two_pow_mul_add _ l.isLt]
    by_cases hlow : i < n
    · simp [hlow, hi, BitVec.testBit_toNat]
    · have hwide : i - n < 64 := by omega
      rw [if_neg hlow, BitVec.getLsbD_or, BitVec.getLsbD_shiftLeft, BitVec.getLsbD_setWidth, BitVec.getLsbD_ofNat,
        BitVec.getLsbD_of_ge l i (Nat.le_of_not_lt hlow)]
      simp only [hlow, hi, hwide, decide_true, decide_false, Bool.not_false, Bool.and_false, Bool.or_false, Bool.true_and]

/-- A lane in all places of a word. -/
theorem splatWord_eq {mode : BitVec 4} (hmode : mode.toNat < 3) (a : Word) :
    splatWord mode a =
      match mode.toNat with
      | 0 => BitVec.ofNat 64 (a.toNat % 2 ^ 8 * 0x0101010101010101)
      | 1 => BitVec.ofNat 64 (a.toNat % 2 ^ 16 * 0x0001000100010001)
      | _ => BitVec.ofNat 64 (a.toNat % 2 ^ 32 * 0x0000000100000001) := by
  have hlane (n : Nat) : (lane n a 0).toNat = a.toNat % 2 ^ n := by simp [lane]
  rw [splatWord, ofLanes_eq_digits, List.map_replicate, hlane]
  generalize mode.toNat = m at hmode
  match m with
  | 0 | 1 | 2 => simp [List.replicate, numberOfDigits]; congr 1; omega

/-! ### Fields (04 R122-R124) -/

/-- The conditions of CMP are those of the integers. -/
theorem cmpHolds_eq (code : Nat) (a b : Word) : cmpHolds code a b = compares code a b :=
  match code with
  | 0 | 1 | 2 | 3 | 4 | 5 | 6 | 7 | 8 | 9 | 10 | 11 | _ + 12 => rfl

/-- A narrowed word extended back, for each size and reading. -/
theorem extendTo_eq {size : Nat} (h : size < 4) (signed : Bool) (a : Word) :
    extendTo (2 ^ size) signed a = extended size signed a :=
  match size, signed with
  | 0, true | 0, false | 1, true | 1, false | 2, true | 2, false | 3, true | 3, false => rfl

/-- The position of a bit field. -/
theorem bfPos_eq (b : Word) : bfPos b = b.toNat % 64 := fld6 b

/-- The length of a bit field. -/
theorem bfLen_eq (b : Word) : bfLen b = min (b.toNat / 256 % 128) 64 := rfl

/-- A mask of low ones keeps the remainder. -/
theorem toNat_and_lowMask (x : Word) {len : Nat} (h : len ≤ 64) : (x &&& lowMask len).toNat = x.toNat % 2 ^ len := by
  have hpow : 2 ^ len ≤ 2 ^ 64 := Nat.pow_le_pow_right (by decide) h
  have hmask : (lowMask len).toNat = 2 ^ len - 1 := by
    rw [lowMask, BitVec.toNat_ofNat, Nat.mod_eq_of_lt (by omega)]
  rw [BitVec.toNat_and, hmask, Nat.and_two_pow_sub_one_eq_mod]

/-- The field that BFX reads, zeros above bit 63. -/
theorem shiftRight_and_lowMask (a : Word) (pos : Nat) {len : Nat} (h : len ≤ 64) :
    (a >>> pos) &&& lowMask len = BitVec.ofNat 64 (fieldAt a pos len) := by
  apply BitVec.eq_of_toNat_eq
  rw [toNat_and_lowMask _ h, BitVec.toNat_ushiftRight, Nat.shiftRight_eq_div_pow, BitVec.toNat_ofNat, fieldAt,
    Nat.mod_eq_of_lt (Nat.lt_of_le_of_lt (Nat.mod_le _ _) (Nat.lt_of_le_of_lt (Nat.div_le_self _ _) a.isLt))]

/-- The top bit of a field is 1 exactly when the field is not below half its range. -/
theorem testBit_top_iff {x len : Nat} (hlen : 0 < len) (hx : x < 2 ^ len) :
    x.testBit (len - 1) = true ↔ 2 ^ (len - 1) ≤ x :=
  ⟨Nat.ge_two_pow_of_testBit,
    fun h => Nat.testBit_of_two_pow_le_and_two_pow_add_one_gt h (by rwa [Nat.sub_add_cancel hlen])⟩

/-- BFX: the field, and its sign where it is read with sign. -/
theorem bfxWord_eq (signed : Bool) (a b : Word) :
    bfxWord signed a b =
      (let len := min (b.toNat / 256 % 128) 64
       let x := fieldAt a (b.toNat % 64) len
       if signed ∧ 0 < len ∧ 2 ^ (len - 1) ≤ x then BitVec.ofInt 64 ((x : Int) - 2 ^ len) else BitVec.ofNat 64 x) := by
  rw [← bfLen_eq, ← bfPos_eq]
  have hmax : bfLen b ≤ 64 := Nat.min_le_right _ _
  have hx : fieldAt a (bfPos b) (bfLen b) < 2 ^ bfLen b := Nat.mod_lt _ (Nat.two_pow_pos _)
  simp only [bfxWord, shiftRight_and_lowMask a _ hmax]
  refine ite_congr (propext ?_) (fun _ => ?_) fun _ => rfl
  · rw [Bool.and_eq_true, Bool.and_eq_true, bne_iff_ne, ← Nat.pos_iff_ne_zero, and_assoc]
    refine and_congr_right fun _ => and_congr_right fun hlen => ?_
    have hwide : bfLen b - 1 < 64 := by omega
    rw [BitVec.getLsbD_ofNat, decide_eq_true hwide, Bool.true_and, testBit_top_iff hlen hx]
  · rw [BitVec.sub_eq_iff_eq_add, ← BitVec.ofInt_natCast, ← BitVec.ofInt_natCast, ← BitVec.ofInt_add]
    push_cast
    rw [Int.sub_add_cancel]

/-- BFI: the field of `d` under the mask is replaced. -/
theorem bfiWord_eq (d a b : Word) :
    bfiWord d a b =
      (let m : Word := BitVec.ofNat 64 (2 ^ min (b.toNat / 256 % 128) 64 - 1) <<< (b.toNat % 64)
       (d &&& ~~~m) ||| ((a <<< (b.toNat % 64)) &&& m)) := by
  rw [← bfPos_eq]; rfl

/-- CLAMP: the greater of `d` and `a`, at most `b`. -/
theorem clampWord_eq (unsigned : Bool) (d a b : Word) :
    clampWord unsigned d a b =
      if unsigned then
        (if (if d.toNat ≤ a.toNat then a else d).toNat ≤ b.toNat then (if d.toNat ≤ a.toNat then a else d) else b)
      else (if (if d.toInt ≤ a.toInt then a else d).toInt ≤ b.toInt then (if d.toInt ≤ a.toInt then a else d) else b) := by
  rw [clampWord, uminWord_eq, umaxWord_eq, sminWord_eq, smaxWord_eq]

/-! ### Immediates (04 R125-R126) -/

/-- The count that an immediate gives. -/
theorem shiftCount_signExtend (imm : BitVec 10) : shiftCount (imm.signExtend 64) = imm.toNat % 64 := by
  rw [shiftCount_eq, BitVec.toNat_signExtend, BitVec.toNat_setWidth]
  split <;> omega

/-- A signed comparison with an immediate. -/
theorem toInt_imm (imm : BitVec 10) : (imm.signExtend 64).toInt = imm.toInt := BitVec.toInt_signExtend_of_le (by decide)

/-- A rotation to the left by a count below 64. -/
theorem rotateLeft_shiftCount (a b : Word) :
    a.rotateLeft (shiftCount b) = (a <<< (shiftCount b)) ||| (a >>> (64 - shiftCount b)) := by
  rw [BitVec.rotateLeft_def, shiftCount_eq, Nat.mod_mod]

/-- A rotation to the right by a count below 64. -/
theorem rotateRight_shiftCount (a b : Word) :
    a.rotateRight (shiftCount b) = (a >>> (shiftCount b)) ||| (a <<< (64 - shiftCount b)) := by
  rw [BitVec.rotateRight_def, shiftCount_eq, Nat.mod_mod]

/-- MOVW's value as a number. -/
theorem movwWord_eq (f : WForm) : movwWord f = BitVec.ofNat 64 (f.imm.toNat * 2 ^ (16 * f.hw.toNat)) := by
  apply BitVec.eq_of_toNat_eq
  rw [movwWord, BitVec.toNat_shiftLeft, BitVec.toNat_ofNat, Nat.shiftLeft_eq]
  simp

/-- MOVW.INS's value: the halfword of `d` replaced. -/
theorem movwInsWord_eq (f : WForm) (d : Word) :
    movwInsWord f d = (d &&& ~~~((0xFFFF : Word) <<< (16 * f.hw.toNat))) |||
      BitVec.ofNat 64 (f.imm.toNat * 2 ^ (16 * f.hw.toNat)) := by
  rw [movwInsWord, movwWord_eq]; rfl

end Sys2Proof.Laws
end

section
/-! PROOFS. The words that deliver an integer value: each is its row of the field tables, its meaning and its value
(04 R118-R126). -/

namespace Sys2Proof.Laws

open Sys2Proof Sys2Proof.Machine

/-! ### Rows that deliver -/

/-- A word whose row has a destination delivers the value it computes of its operands. -/
theorem givesWord_of_row {i : Instr} {v : View} {g f : Env → Word} (hx : ∀ s, exec i s = issue v (pureVal g) s)
    (hrow : (shapeOf v).any (fun sh => sh.dst == .none) = false) (hv : ∀ (s : State) sh, g (s.env sh v) = f (s.env sh v)) :
    GivesWord i v f := by
  refine gives_of hx (fun sh hsh => ?_) fun s sh _ => hv s sh
  rw [hsh] at hrow
  exact beq_eq_false_iff_ne.mp hrow

/-- A word of the immediate form delivers the value it computes with the sign-extended immediate (04 R125). -/
theorem givesWord_of_immRow {i : Instr} {o : BitVec 8} {m : IForm} {g f : Env → Word}
    (hx : ∀ s, exec i s = issue (viewI o m) (pureVal g) s)
    (hrow : (shapeOf (viewI o m)).any (fun sh => sh.dst == .none || sh.form != .i) = false)
    (hv : ∀ e : Env, e.v = viewI o m → e.b = m.imm.signExtend 64 → g e = f e) : GivesWord i (viewI o m) f := by
  refine gives_of hx (fun sh hsh => ?_) fun s sh hsh => ?_
  all_goals
    rw [hsh] at hrow
    obtain ⟨hdst, hform⟩ := Bool.or_eq_false_iff.mp hrow
  · exact beq_eq_false_iff_ne.mp hdst
  · exact hv _ rfl (if_pos (bne_eq_false_iff_eq.mp hform))

/-- MOVW has a destination, read or not (04 R126). -/
theorem movwRow (f : WForm) : (shapeOf (viewW 0x3D f)).any (fun sh => sh.dst == .none) = false := by
  show ((if (viewW 0x3D f).mod.getLsbD 2 then DstUse.regRead else .reg) == .none) = false
  split <;> rfl

/-! ### Fields that a well-formed word leaves at 0 -/

/-- The view of a register-form word whose row has that form. -/
theorem viewOf_rword {o : BitVec 8} {f : RForm} {sh : Shape} (hrow : shapeOf (viewR o f) = some sh) (hform : sh.form = .r) :
    viewOf (rword o f) = viewR o f := by
  simp only [viewR] at hrow ⊢
  simp only [viewOf, fld_opc_rword, rformOf_rword, hrow, Option.map_some, hform]

/-- A word of the register form that is legal in some place has no field at fault (02 R58, R62). -/
theorem fieldBad_of_legal {o : BitVec 8} {f : RForm} {sh : Shape} (hrow : shapeOf (viewR o f) = some sh)
    (hform : sh.form = .r) (hlegal : legalWord (rword o f) = true) : fieldBad sh (rword o f) (viewR o f) = false := by
  have hcheck (core : Bool) (h : check core (rword o f) = 0) : fieldBad sh (rword o f) (viewR o f) = false := by
    refine Bool.eq_false_iff.mpr fun hbad => ?_
    simp only [check, viewOf_rword hrow hform, hrow, hbad, if_true] at h
    split at h
    · cases h
    · split at h <;> cases h
  rcases Bool.or_eq_true_iff.mp hlegal with h | h
  · exact hcheck false (beq_iff_eq.mp h)
  · exact hcheck true (beq_iff_eq.mp h)

/-- A word of the register form that is well formed has the MOD its row allows, and SB at 0 where its row does not use it. -/
theorem modOk_and_sb_of_wf {i : Instr} {o : BitVec 8} {f : RForm} {sh : Shape} (he : encode i = some (rword o f))
    (hrow : shapeOf (viewR o f) = some sh) (hform : sh.form = .r) (hwf : i.wf = true) :
    sh.modOk = true ∧ (sh.sb = .none → f.sb = 0) := by
  rw [wf_of_encode he, Bool.and_eq_true] at hwf
  have hok := fieldBad_of_legal hrow hform hwf.1
  simp only [fieldBad, Bool.or_eq_false_iff, Bool.not_eq_false'] at hok
  obtain ⟨⟨⟨⟨⟨⟨⟨⟨-, -⟩, hsb⟩, -⟩, hmod⟩, -⟩, -⟩, -⟩, -⟩ := hok
  refine ⟨hmod, fun hnone => ?_⟩
  rw [hnone] at hsb
  exact bne_eq_false_iff_eq.mp hsb

/-- An instruction of the integer or the logic rows, 0x00-0x1F, with the fields `f`. -/
def IsAluWord (f : RForm) (i : Instr) : Prop := ∃ o : BitVec 8, o.toNat < 0x20 ∧ encode i = some (rword o f)

/-- The rows 0x00-0x1F are of the register form, and their MOD is 0 (04 R118, R120). -/
theorem aluRow (f : RForm) {o : BitVec 8} (ho : o.toNat < 0x20) :
    ∃ sh, shapeOf (viewR o f) = some sh ∧ sh.form = .r ∧ sh.modOk = mod0 (viewR o f) := by
  have hrow : shapeOf (viewR o f) = shapeInt (viewR o f) o.toNat := if_pos (show o.toNat < 0x30 by omega)
  rw [hrow]
  generalize o.toNat = n at ho
  unfold shapeInt
  split
  case h_16 | h_17 | h_18 | h_19 | h_20 | h_21 | h_22 | h_23 | h_24 => omega
  case h_25 => exact ⟨_, if_pos ho, rfl, rfl⟩
  all_goals exact ⟨_, rfl, rfl, rfl⟩

/-- MOD of an integer or logic word is 0. -/
theorem mod_eq_zero_of_alu {f : RForm} {i : Instr} (h : IsAluWord f i) (hwf : i.wf = true) : f.mod = 0 := by
  obtain ⟨o, ho, he⟩ := h
  obtain ⟨sh, hrow, hform, hmod⟩ := aluRow f ho
  exact beq_iff_eq.mp (hmod.symm.trans (modOk_and_sb_of_wf he hrow hform hwf).1)

/-- SB of an integer or logic word of one operand is 0. -/
theorem sb_eq_zero_of_alu1 {f : RForm} {i : Instr} {o : BitVec 8} {lat : Nat} (he : encode i = some (rword o f))
    (hrow : shapeOf (viewR o f) = some (alu1 (viewR o f) lat)) (hwf : i.wf = true) : f.sb = 0 :=
  (modOk_and_sb_of_wf he hrow rfl hwf).2 rfl

/-! ### The claims -/

/-- Settles O1: each row's value is the one the integers give. -/
theorem integerArithmeticResults : Obligations.IntegerArithmeticResults := by
  intro f
  refine ⟨givesWord_of_row (fun _ => rfl) rfl fun _ _ => rfl,
    givesWord_of_row (fun _ => rfl) rfl fun _ _ => rfl,
    givesWord_of_row (fun _ => rfl) rfl fun _ _ => rfl,
    givesWord_of_row (fun _ => rfl) rfl fun _ _ => mulhWord_eq ..,
    givesWord_of_row (fun _ => rfl) rfl fun _ _ => mulhuWord_eq ..,
    givesWord_of_row (fun _ => rfl) rfl fun _ _ => sdivWord_eq ..,
    givesWord_of_row (fun _ => rfl) rfl fun _ _ => udivWord_eq ..,
    givesWord_of_row (fun _ => rfl) rfl fun _ _ => sremWord_eq ..,
    givesWord_of_row (fun _ => rfl) rfl fun _ _ => uremWord_eq ..,
    givesWord_of_row (fun _ => rfl) rfl fun _ _ => sminWord_eq ..,
    givesWord_of_row (fun _ => rfl) rfl fun _ _ => smaxWord_eq ..,
    givesWord_of_row (fun _ => rfl) rfl fun _ _ => uminWord_eq ..,
    givesWord_of_row (fun _ => rfl) rfl fun _ _ => umaxWord_eq ..,
    givesWord_of_row (fun _ => rfl) rfl fun _ _ => absWord_eq ..,
    givesWord_of_row (fun _ => rfl) rfl fun _ _ => rfl,
    givesWord_of_row (fun _ => rfl) rfl fun _ _ => rfl,
    ?_, ?_⟩
  · intro i hi
    refine mod_eq_zero_of_alu ?_
    simp only [List.mem_cons, List.not_mem_nil, or_false] at hi
    rcases hi with rfl | rfl | rfl | rfl | rfl | rfl | rfl | rfl | rfl | rfl | rfl | rfl | rfl | rfl | rfl | rfl
    all_goals exact ⟨_, by decide, rfl⟩
  · intro i hi
    simp only [List.mem_cons, List.not_mem_nil, or_false] at hi
    rcases hi with rfl | rfl
    all_goals exact sb_eq_zero_of_alu1 rfl rfl

/-- Settles O2: each row's value, with the count of a shift as a remainder and the bit counts as places of bits. -/
theorem logicAndShiftResults : Obligations.LogicAndShiftResults := by
  intro f
  refine ⟨givesWord_of_row (fun _ => rfl) rfl fun _ _ => rfl,
    givesWord_of_row (fun _ => rfl) rfl fun _ _ => rfl,
    givesWord_of_row (fun _ => rfl) rfl fun _ _ => rfl,
    givesWord_of_row (fun _ => rfl) rfl fun _ _ => rfl,
    givesWord_of_row (fun _ => rfl) rfl fun _ _ => rfl,
    givesWord_of_row (fun _ => rfl) rfl fun _ _ => rfl,
    givesWord_of_row (fun _ => rfl) rfl fun _ _ => by rw [shiftCount_eq],
    givesWord_of_row (fun _ => rfl) rfl fun _ _ => by rw [shiftCount_eq],
    givesWord_of_row (fun _ => rfl) rfl fun _ _ => by rw [shiftCount_eq, sshiftRight_eq],
    givesWord_of_row (fun _ => rfl) rfl fun _ _ => by rw [rotateLeft_shiftCount, shiftCount_eq],
    givesWord_of_row (fun _ => rfl) rfl fun _ _ => by rw [rotateRight_shiftCount, shiftCount_eq],
    givesWord_of_row (fun _ => rfl) rfl fun _ _ => clzWord_eq _,
    givesWord_of_row (fun _ => rfl) rfl fun _ _ => ctzWord_eq _,
    givesWord_of_row (fun _ => rfl) rfl fun _ _ => popcWord_eq _,
    givesWord_of_row (fun _ => rfl) rfl fun _ _ => brevWord_eq _,
    givesWord_of_row (fun _ => rfl) rfl fun _ _ => bswapWord_eq _,
    ?_, ?_⟩
  · intro i hi
    refine mod_eq_zero_of_alu ?_
    simp only [List.mem_cons, List.not_mem_nil, or_false] at hi
    rcases hi with rfl | rfl | rfl | rfl | rfl | rfl | rfl | rfl | rfl | rfl | rfl | rfl | rfl | rfl | rfl | rfl
    all_goals exact ⟨_, by decide, rfl⟩
  · intro i hi
    simp only [List.mem_cons, List.not_mem_nil, or_false] at hi
    rcases hi with rfl | rfl | rfl | rfl | rfl
    all_goals exact sb_eq_zero_of_alu1 rfl rfl

/-- Settles O3: each row's value, the fields and comparisons said of integers. -/
theorem compareSelectMoveResults : Obligations.CompareSelectMoveResults := by
  intro f
  refine ⟨givesWord_of_row (fun _ => rfl) rfl fun _ _ => congrArg boolWord (cmpHolds_eq ..),
    givesWord_of_row (fun _ => rfl) rfl fun _ _ => rfl,
    givesWord_of_row (fun _ => rfl) rfl fun _ _ => rfl,
    givesWord_of_row (fun _ => rfl) rfl fun _ _ => extendTo_eq (Nat.mod_lt _ (by decide)) ..,
    givesWord_of_row (fun _ => rfl) rfl fun _ _ => bfxWord_eq ..,
    givesWord_of_row (fun _ => rfl) rfl fun _ _ => bfiWord_eq ..,
    givesWord_of_row (fun _ => rfl) rfl fun _ _ => rfl,
    fun hmod => givesWord_of_row (fun _ => rfl) rfl fun _ _ => splatWord_eq hmod _,
    givesWord_of_row (fun _ => rfl) rfl fun _ _ => clampWord_eq ..⟩

/-- Settles O4: each immediate row's value on the sign-extended immediate, and MOVW's halfword. -/
theorem immediateResults : Obligations.ImmediateResults := by
  refine ⟨fun f => ⟨givesWord_of_immRow (fun _ => rfl) rfl fun _ _ hb => by rw [hb],
    givesWord_of_immRow (fun _ => rfl) rfl fun _ _ hb => by rw [hb],
    givesWord_of_immRow (fun _ => rfl) rfl fun _ _ hb => by rw [hb],
    givesWord_of_immRow (fun _ => rfl) rfl fun _ _ hb => by rw [hb],
    givesWord_of_immRow (fun _ => rfl) rfl fun _ _ hb => by rw [hb],
    givesWord_of_immRow (fun _ => rfl) rfl fun _ _ hb => by rw [hb, shiftCount_signExtend],
    givesWord_of_immRow (fun _ => rfl) rfl fun _ _ hb => by rw [hb, shiftCount_signExtend],
    givesWord_of_immRow (fun _ => rfl) rfl fun _ _ hb => by rw [hb, sshiftRight_eq, shiftCount_signExtend],
    givesWord_of_immRow (fun _ => rfl) rfl fun _ _ hb => by rw [hb, rotateLeft_shiftCount, shiftCount_signExtend],
    givesWord_of_immRow (fun _ => rfl) rfl fun _ hv hb => by rw [hb, hv, cmpHolds_eq]; rfl,
    givesWord_of_immRow (fun _ => rfl) rfl fun _ _ hb => by rw [hb, sminWord_eq, toInt_imm],
    givesWord_of_immRow (fun _ => rfl) rfl fun _ _ hb => by rw [hb, smaxWord_eq, toInt_imm],
    givesWord_of_immRow (fun _ => rfl) rfl fun _ _ hb => hb⟩,
    fun f => ⟨givesWord_of_row (fun _ => rfl) (movwRow f) fun _ _ => movwWord_eq f,
      givesWord_of_row (fun _ => rfl) (movwRow f) fun _ _ => movwInsWord_eq ..⟩⟩

end Sys2Proof.Laws
end

section
/-! PROOFS. The words of the context: PSET, PGET, PLOGIC, NOP and HALT (04 R127-R131). -/

namespace Sys2Proof.Laws

open Sys2Proof Sys2Proof.Machine

/-! ### The context that a word of no value leaves -/

/-- Writing back the context that a unit holds changes nothing of the unit. -/
theorem setCtx_ctx (P : Proc) (c : Nat) : P.setCtx c (P.ctx c) = P := by
  simp [Proc.setCtx, Proc.ctx, vset, vget]

/-- A change of nothing in a context is no change of its unit's state. -/
theorem agreeButView_modCtx_id (t : State) (p c : Nat) : AgreeButView p (t.modCtx p c id) t := by
  have hself : (t.modCtx p c id).proc p = t.proc p := (proc_modProc_self ..).trans (setCtx_ctx ..)
  exact ⟨⟨_, _, by rw [hself]⟩, fun q hq => (proc_modProc_ne t _ hq).symm, rfl⟩

/-- The changed context `C` of the word `e` after PACT with the condition 1 and the advance of the PC. -/
def pactAndPc (e : Env) (C : Ctx) : Ctx :=
  { C with p := pactOf e.v.pact e.v.pidx.toNat true C.p, pc := if isCore e.p then C.pc + 8 else C.pc }

/-- PACT and the PC alone are what a word of no value leaves. -/
theorem pactAndPc_self (e : Env) : pactAndPc e e.C = plainAfter e := by
  rw [plainAfter, predsAfter_none]; rfl

/-- The end of an issue of latency 1 whose effect is the change `G` of its own context: PACT and the PC act last. -/
theorem leaves_pactAndPc {s : State} {v : View} {sh : Shape} (h : Issues v sh s) (hlat : sh.lat = 1) (G : Ctx → Ctx) :
    Leaves s (s.env sh v) (pactAndPc (s.env sh v) (G (s.env sh v).C)) (finish (s.env sh v) .none
      ((s.dequeue s.cur.proc (s.ctxNo v) sh v).modCtx (s.env sh v).p (s.env sh v).c G)) := by
  have hleaves := leaves_finish h hlat G
  have hflags (C : Ctx) : C.fpflags ||| 0 = C.fpflags := BitVec.or_zero
  simp only [hflags] at hleaves
  exact hleaves

/-- A word of latency 1 whose effect is the change `G` of its own context leaves that context. -/
theorem acts_of {i : Instr} {v : View} {G : Env → Ctx → Ctx}
    (hx : ∀ s, exec i s = issue v (fun e s => .ok (s.modCtx e.p e.c (G e), .none)) s)
    (hrow : (shapeOf v).any (fun sh => sh.lat != 1) = false) : Acts i v fun e => pactAndPc e (G e e.C) := by
  intro s sh h
  have hlat : sh.lat = 1 := by
    rw [h.1] at hrow
    exact bne_eq_false_iff_eq.mp hrow
  exact ⟨_, (hx s).trans (issue_of_ok h rfl), leaves_pactAndPc h hlat _⟩

/-! ### The words -/

/-- 04 R127, R129: PSET writes the masked predicates before PACT. -/
theorem pset_acts (f : RForm) : Acts (.pset f) (viewR 0x40 f) fun e => pactAndPc e { e.C with p := psetByte e.C.p e.a e.b } :=
  acts_of (G := fun e C => { C with p := psetByte C.p e.a e.b }) (fun _ => rfl) rfl

/-- A context that halts, after PACT and the PC. -/
theorem pactAndPc_halt (e : Env) : pactAndPc e { e.C with rstate := .halt } = { plainAfter e with rstate := .halt } :=
  congrArg (fun C : Ctx => { C with rstate := .halt }) (pactAndPc_self e)

/-- 04 R131: HALT halts its context; PACT and the PC act as for any word. -/
theorem halt_acts (f : RForm) : Acts (.halt f) (viewR 0x44 f) fun e => { plainAfter e with rstate := .halt } :=
  funext pactAndPc_halt ▸ acts_of (G := fun _ C => { C with rstate := .halt }) (fun _ => rfl) rfl

/-- 04 R130: NOP, whose effect is nothing, leaves its context to PACT and the PC. -/
theorem nop_acts (f : RForm) : Acts (.nop f) (viewR 0x43 f) plainAfter := by
  intro s sh h
  have hlat : sh.lat = 1 := by rw [← Option.some.inj h.1]
  have hleaves := leaves_pactAndPc h hlat id
  rw [id, pactAndPc_self] at hleaves
  exact ⟨_, issue_of_ok h rfl, ((agreeButView_modCtx_id ..).finish (latencyOf_env_le hlat) .none).leaves hleaves⟩

/-- The entry of PLOGIC's table that two predicates select (04 R127). -/
theorem plogicBit_eq (v : View) (p : BitVec 8) :
    plogicBit v p = v.mod.getLsbD
      ((if p.getLsbD (v.sa.toNat % 8) then 2 else 0) + (if p.getLsbD (v.sb.toNat % 8) then 1 else 0)) := by
  rw [plogicBit, predBit, predBit]
  cases p.getLsbD (v.sa.toNat % 8) <;> cases p.getLsbD (v.sb.toNat % 8) <;> rfl

/-- Settles O9, from what each of the five words does when it issues. -/
theorem predicateAndContextWords : Obligations.PredicateAndContextWords :=
  fun f => ⟨pset_acts f, givesWord_of_row (fun _ => rfl) rfl fun _ _ => rfl,
    givesWord_of_row (fun _ => rfl) rfl fun _ _ => congrArg boolWord (plogicBit_eq ..), nop_acts f, halt_acts f⟩

end Sys2Proof.Laws
end

section
/-! PROOFS. The arrival of a token at an input channel of an element, and discard mode (06 R112, R168, R173-R177, R199). -/

namespace Sys2Proof.Laws

open Sys2Proof Sys2Proof.Machine

/-! ### A change of an input channel -/

/-- Input channel `ch` of unit `e` changes to `c'`, and nothing else. -/
structure InputBecomes (s : State) (e ch : Nat) (c' : InChan) (t : State) : Prop where
  only : OnlyUnit s t e
  unit : t.proc e = { s.proc e with ins := (t.proc e).ins }
  ins : ∀ j, j < 4 → vget (t.proc e).ins j = if j = ch then c' else vget (s.proc e).ins j

/-- The unit whose input channel is changed. -/
theorem modIn_proc (s : State) (e ch : Nat) (f : InChan → InChan) :
    (s.modIn e ch f).proc e = { s.proc e with ins := vset (s.proc e).ins ch (f (vget (s.proc e).ins ch)) } :=
  proc_modProc_self ..

/-- The input channels after one is changed. -/
theorem modIn_ins (s : State) (e : Nat) {ch j : Nat} (f : InChan → InChan) (hch : ch < 4) (hj : j < 4) :
    vget ((s.modIn e ch f).proc e).ins j = if j = ch then f (vget (s.proc e).ins ch) else vget (s.proc e).ins j := by
  rw [modIn_proc]; exact vget_vset _ hch hj _

/-- A change of an input channel changes nothing else. -/
theorem inputBecomes_modIn (s : State) (e : Nat) {ch : Nat} (f : InChan → InChan) (hch : ch < 4) :
    InputBecomes s e ch (f (vget (s.proc e).ins ch)) (s.modIn e ch f) where
  only := ⟨rfl, fun _ hq => proc_modProc_ne s _ hq⟩
  unit := by rw [modIn_proc]
  ins _ hj := modIn_ins s e f hch hj

/-! ### An element that no cut holds -/

/-- An open element is not held by a cut. -/
theorem unitHeld_of_open {s : State} {e : Nat} (h : ElementOpen s e) : s.unitHeld e = false := by
  unfold ElementOpen at h
  unfold State.unitHeld
  cases hR : s.regionOf e with
  | none => rfl
  | some R =>
    rw [hR] at h
    obtain ⟨-, hcut⟩ := h
    cases hk : R.cut with
    | none => simp only [hk]
    | some k =>
      rw [hk] at hcut
      simpa only [hk] using hcut

/-- No item of an image enters an open element ahead of an arrival. -/
theorem entersFirst_of_open {s : State} {e : Nat} (h : ElementOpen s e) (f : Caught → Bool) :
    s.entersFirst (dieOf e) (s.proc e).region f = false := by
  unfold ElementOpen State.regionOf at h
  cases hg : (s.proc e).region with
  | none => rfl
  | some g =>
    rw [hg] at h
    obtain ⟨hentering, -⟩ := h
    rw [State.entersFirst, hentering]; rfl

/-- The cut in the region of an input of an open element has not recorded the element. -/
theorem recorded_of_open {s : State} {e ch : Nat} {k : Cut} (h : ElementOpen s e) (hcut : s.portCut (.elem e ch) = some k) :
    k.recorded.contains e = false := by
  have hheld := unitHeld_of_open h
  unfold State.portCut State.portRegion at hcut
  cases hg : (s.proc e).region with
  | none => simp only [hg, reduceCtorEq] at hcut
  | some g =>
    simp only [hg] at hcut
    simpa only [State.unitHeld, State.regionOf, hg, Option.map_some, hcut] using hheld

/-- A lent permit waits while a token is on the link (13 R376). -/
theorem feedLend_of_link {s : State} {port : InPort} (h : (s.inAt port).link.isSome = true) : s.feedLend port = s := by
  unfold State.feedLend
  split
  · split
    · rfl
    · rw [if_pos h]
  · rfl

/-- The token on the link of an input of an open element is admitted or refused. -/
theorem tokenArrival_of_open {s : State} {e ch : Nat} {k : Token} (hlink : (vget (s.proc e).ins ch).link = some k)
    (hcut : k.isCut = false) (hopen : ElementOpen s e) :
    exec (.tokenArrival (.elem e ch)) s = .next (s.admitTok (.elem e ch) k) := by
  have hfeed : s.feedLend (.elem e ch) = s := feedLend_of_link (by simp only [State.inAt, hlink, Option.isSome_some])
  have hfirst (f : Caught → Bool) : s.entersFirst (s.portRegion (.elem e ch)).1 (s.portRegion (.elem e ch)).2 f = false :=
    entersFirst_of_open hopen f
  show execTokenArrival (.elem e ch) s = _
  cases hpc : s.portCut (.elem e ch) with
  | none => simp only [execTokenArrival, hfeed, State.inAt, hlink, hcut, hpc, hfirst, Bool.false_eq_true, if_false]
  | some x =>
    have hrec := recorded_of_open hopen hpc
    simp only [execTokenArrival, hfeed, State.inAt, hlink, hcut, hpc, portUnit, hrec, hfirst, Bool.false_eq_true, if_false]

/-! ### Admission of a token -/

/-- Steering as the model decides it. -/
theorem steers_iff (c : InChan) (k : Token) : c.steers k = true ↔ Steered c k := by
  simp only [InChan.steers, Steered, Bool.and_eq_true, beq_iff_eq, Bool.not_eq_true', and_assoc]

/-- A channel with room, or whose tail the token merges into, accepts it (06 R112, R177). -/
theorem accept_of_room {c : InChan} {k : Token} (h : c.q.length < 4 ∨ mergeable c.q k = true) :
    c.accept k = some { c with q := enqueue c.q k, link := none } :=
  if_pos (Bool.or_eq_true_iff.mpr (h.symm.imp_right decide_eq_true))

/-- A full channel refuses a token that does not merge. -/
theorem accept_of_full {c : InChan} {k : Token} (hfull : 4 ≤ c.q.length) (hmerge : mergeable c.q k = false) :
    c.accept k = none := by
  rw [InChan.accept, hmerge, Bool.false_or]
  exact if_neg fun h => Nat.not_lt.mpr hfull (of_decide_eq_true h)

section
variable {s : State} {e ch : Nat} {k : Token}

/-- A token that is not steered is admitted as its channel accepts it. -/
theorem admitTok_of_not_steered (hsteer : ¬Steered (vget (s.proc e).ins ch) k) :
    s.admitTok (.elem e ch) k =
      ((vget (s.proc e).ins ch).accept k).elim s fun c' => s.modIn e ch fun _ => c' := by
  refine (if_neg fun h => hsteer ((steers_iff ..).mp h)).trans ?_
  show _ = Option.elim ((s.inAt (.elem e ch)).accept k) s _
  cases (s.inAt (.elem e ch)).accept k <;> rfl

/-- A token that is not steered enters where there is room or it merges (06 R112, R177). -/
theorem admitTok_enters (hsteer : ¬Steered (vget (s.proc e).ins ch) k)
    (hroom : (vget (s.proc e).ins ch).q.length < 4 ∨ mergeable (vget (s.proc e).ins ch).q k = true) :
    s.admitTok (.elem e ch) k = s.modIn e ch fun c => { c with q := enqueue c.q k, link := none } := by
  rw [admitTok_of_not_steered hsteer, accept_of_room hroom]; rfl

/-- A token that is not steered stays where there is no room and it does not merge. -/
theorem admitTok_stays (hsteer : ¬Steered (vget (s.proc e).ins ch) k) (hfull : 4 ≤ (vget (s.proc e).ins ch).q.length)
    (hmerge : mergeable (vget (s.proc e).ins ch).q k = false) : s.admitTok (.elem e ch) k = s := by
  rw [admitTok_of_not_steered hsteer, accept_of_full hfull hmerge, Option.elim_none]

/-- A steered token goes to the converter of its cluster. -/
theorem admitTok_of_steered (hsteer : Steered (vget (s.proc e).ins ch) k) :
    s.admitTok (.elem e ch) k = s.steer (.elem e ch) (e / 16) k :=
  if_pos ((steers_iff ..).mpr hsteer)

/-- The converter of a cluster takes a diverted token at the end of its in0 (10 R279). -/
def divert (j : Nat) (x : SteerTok) (C : Cluster) : Cluster :=
  let v := C.cvt.get Cvt.reset j
  { C with cvt := C.cvt.set Cvt.reset j { v with steerQ := v.steerQ ++ [x] } }

/-- A steered token is diverted where channel and converter have room (06 R174, 10 R279). -/
theorem admitTok_diverts (hsteer : Steered (vget (s.proc e).ins ch) k) (hroom : (vget (s.proc e).ins ch).q.length < 4)
    (hconv : (steerInput s e (vget (s.proc e).ins ch)).length < 4) :
    let c := vget (s.proc e).ins ch
    s.admitTok (.elem e ch) k =
      (s.freshId.2.modIn e ch fun c => { c with q := c.q ++ [.resv s.fresh], link := none }).modCluster (e / 16)
        (divert (if c.conf.getLsbD 8 then 1 else 0)
          { tok := k, port := .elem e ch, id := s.fresh, cbslot := (c.conf.extractLsb' 16 3).toNat }) := by
  rw [admitTok_of_steered hsteer, State.steer]
  exact if_pos ⟨hroom, hconv⟩

/-- A steered token stays where its channel or the converter has no room. -/
theorem admitTok_not_diverted (hsteer : Steered (vget (s.proc e).ins ch) k)
    (hfull : 4 ≤ (vget (s.proc e).ins ch).q.length ∨ 4 ≤ (steerInput s e (vget (s.proc e).ins ch)).length) :
    s.admitTok (.elem e ch) k = s := by
  rw [admitTok_of_steered hsteer, State.steer]
  exact if_neg fun ⟨hroom, hconv⟩ => hfull.elim (fun h => Nat.not_lt.mpr h hroom) fun h => Nat.not_lt.mpr h hconv

end

/-- The diverted tokens of a converter after one more. -/
theorem steerQ_divert (j : Nat) (x : SteerTok) (C : Cluster) :
    ((divert j x C).cvt.get Cvt.reset j).steerQ = (C.cvt.get Cvt.reset j).steerQ ++ [x] := by
  rw [divert, kmap_get_set_self]

/-! ### Discard mode -/

/-- The head of a channel in discard mode of an open element. -/
theorem discardHead_of_open {s : State} {e ch : Nat} {k : Token} (hopen : ElementOpen s e)
    (hrank : (vget (s.proc e).ins ch).drank ≠ 0) (hfront : frontOf (vget (s.proc e).ins ch).q = some k) :
    exec (.discardHead e ch) s = .next (
      if k.kind = .data ∨ (k.isEnd = true ∧ markRank k.payload < (vget (s.proc e).ins ch).drank.toNat) then
        s.modIn e ch fun c => { c with q := c.q.tail }
      else if k.isEnd then s.modIn e ch fun c => { c with drank := 0 } else s) := by
  have hno : ¬((vget (s.proc e).ins ch).drank = 0 ∨ s.unitHeld e = true) :=
    not_or.mpr ⟨hrank, Bool.eq_false_iff.mp (unitHeld_of_open hopen)⟩
  show execDiscardHead e ch s = _
  simp only [execDiscardHead, if_neg hno, hfront]
  split
  · rfl
  · split <;> rfl

/-- An end marker is no data token. -/
theorem kind_ne_data_of_isEnd {k : Token} (h : k.isEnd = true) : k.kind ≠ .data := by
  rw [Token.isEnd, Bool.and_eq_true, beq_iff_eq] at h
  rw [h.1]; decide

/-- Settles O28, by what admission makes of the token on the link, and discard mode of the head. -/
theorem tokenArrivalAndDiscard : Obligations.TokenArrivalAndDiscard := by
  refine ⟨fun e ch s k hch hlink hcut hopen => ?_, fun e ch s k hch hopen hrank hfront => ?_⟩
  · rw [tokenArrival_of_open hlink hcut hopen]
    refine ⟨fun hsteer hroom => ?_, fun hsteer hfull hmerge => by rw [admitTok_stays hsteer hfull hmerge],
      fun hsteer hroom hconv => ?_, fun hsteer hfull => by rw [admitTok_not_diverted hsteer hfull]⟩
    · have h := inputBecomes_modIn s e (fun c => { c with q := enqueue c.q k, link := none }) hch
      exact ⟨_, congrArg _ (admitTok_enters hsteer hroom), h.only, h.unit, h.ins⟩
    · have h := inputBecomes_modIn s.freshId.2 e (fun c => { c with q := c.q ++ [.resv s.fresh], link := none }) hch
      refine ⟨_, congrArg _ (admitTok_diverts hsteer hroom hconv), fun a => rfl, h.only.2, h.ins,
        fun n hn => cluster_modCluster_ne _ _ hn, ?_⟩
      rw [steerInput, cluster_modCluster_self, steerQ_divert]; rfl
  · rw [discardHead_of_open hopen hrank hfront]
    refine ⟨fun hgone => ?_, fun hend hhigh => ?_, fun hdata hend => ?_⟩
    · have h := inputBecomes_modIn s e (fun c => { c with q := c.q.tail }) hch
      exact ⟨_, congrArg _ (if_pos hgone), h.only, h.unit, h.ins⟩
    · have h := inputBecomes_modIn s e (fun c => { c with drank := 0 }) hch
      have hstays : ¬(k.kind = .data ∨ k.isEnd = true ∧ markRank k.payload < (vget (s.proc e).ins ch).drank.toNat) :=
        fun hgone => hgone.elim (kind_ne_data_of_isEnd hend) fun hlow => Nat.not_lt.mpr hhigh hlow.2
      exact ⟨_, congrArg _ ((if_neg hstays).trans (if_pos hend)), h.only, h.unit, h.ins⟩
    · have hstays : ¬(k.kind = .data ∨ k.isEnd = true ∧ markRank k.payload < (vget (s.proc e).ins ch).drank.toNat) := by
        simp [hdata, hend]
      rw [if_neg hstays, if_neg (by simp [hend])]

end Sys2Proof.Laws
end

section
/-! PROOFS. The machine right after reset: every unit, cluster, die, object and page reads as its reset value. -/

namespace Sys2Proof.Laws

open Sys2Proof Sys2Proof.Machine

/-- An element of a vector of equal elements. -/
theorem vget_replicate {α : Type} {n : Nat} [NeZero n] (x : α) (i : Nat) : vget (Vector.replicate n x) i = x := by
  simp only [vget, Vector.getElem_replicate]

/-- Every context after reset (04 R95-R96). -/
theorem ctx_reset (p c : Nat) : State.reset.ctx p c = Ctx.reset := vget_replicate ..

/-- A job register after reset reads 0 (15 R402). -/
theorem ctlReset_job {j : Nat} (hj : j < 256) : ctlReset (4 * j) = 0 := by
  rw [ctlReset, if_neg (by omega), if_neg (by omega), if_neg (by omega)]

/-- A throttle register after reset (15 R412). -/
theorem ctlReset_throttle {n : Nat} (hlo : 1056 ≤ n) (hhi : n ≤ 1072) : ctlReset n = put 0xFFFF 16 := if_pos ⟨hlo, hhi⟩

/-- Settles O58: a map without entries reads as its reset value, and every other value is a field of `State.reset`. -/
theorem resetState : Obligations.ResetState := by
  refine ⟨rfl, rfl, rfl, rfl, rfl, rfl, rfl, rfl, rfl, rfl, rfl, rfl,
    fun p => ⟨rfl, rfl, rfl, rfl, fun c _ => ?_, fun ch _ => vget_replicate ..⟩,
    fun cl f => ⟨rfl, fun hf => if_neg hf⟩, fun d k => ⟨rfl, rfl, rfl⟩, fun d j hj => ?_, fun d n hlo hhi => ?_,
    fun n => rfl, fun g => rfl⟩
  · rw [ctx_reset]
    exact ⟨rfl, rfl, fun n _ => vget_replicate .., rfl, rfl, rfl, rfl⟩
  · show bitOf (ctlReset (4 * j)) 0 = false
    rw [ctlReset_job hj]; rfl
  · show fldN (ctlReset n) 0 16 = 0 ∧ fldN (ctlReset n) 16 16 = 0xFFFF
    rw [ctlReset_throttle hlo hhi]; exact ⟨rfl, rfl⟩

end Sys2Proof.Laws
end

section
/-! PROOFS. The words that deliver a tagged result or a register pair: FP32, BF16x4, packed integers, conversions, codebooks,
tags and carry-save words (05 R140-R166). -/

namespace Sys2Proof.Laws

open Sys2Proof Sys2Proof.Machine

/-! ### Rows that deliver a result -/

/-- A word whose row has a destination delivers the result of its operands, where a register destination has room for it. -/
theorem gives_of_fits {i : Instr} {v : View} {res : Env → Res} (hx : ∀ s, exec i s = issue v (pureRes res) s)
    (hrow : (shapeOf v).any (fun sh => sh.dst == .none) = false) (hpc : ∀ e, (res e).pc = none)
    (hfits : ∀ e, v.dst.toNat < 16 → v.dst.toNat + (res e).vals.length ≤ 16) : Gives i v res := by
  intro s sh h
  rw [h.1] at hrow
  obtain ⟨t, hissue, hdelivered⟩ := delivered_of_pure h res (beq_eq_false_iff_ne.mp hrow) hpc (hfits _)
  exact ⟨t, (hx s).trans hissue, hdelivered⟩

/-- A result of one value, after which the PC advances. -/
structure OneValue (r : Res) : Prop where
  length : r.vals.length = 1
  pc : r.pc = none

/-- A word whose row has a destination delivers the one value it computes of its operands, with its tag, condition and flags. -/
theorem gives_of_row {i : Instr} {v : View} {res : Env → Res} (hx : ∀ s, exec i s = issue v (pureRes res) s)
    (hrow : (shapeOf v).any (fun sh => sh.dst == .none) = false) (hone : ∀ e, OneValue (res e)) : Gives i v res :=
  gives_of_fits hx hrow (fun e => (hone e).pc) fun e hreg => by rw [(hone e).length]; omega

/-! ### Results of one value (05 R138) -/

theorem oneValue_val (w : Word) (tag : BitVec 3) (flags : BitVec 5) : OneValue (.val w tag flags) := ⟨rfl, rfl⟩

/-- An FP32 result. -/
theorem oneValue_out32 (e : Env) (x : FVal) (flags : BitVec 5) : OneValue (e.out32 x flags) := oneValue_val ..

/-- An FP32 result without rounding. -/
theorem oneValue_exact32 (x : FVal) (flags : BitVec 5) : OneValue (exact32 x flags) := oneValue_val ..

/-- A BF16x4 result. -/
theorem oneValue_outBf (e : Env) (xs : List FVal) : OneValue (e.outBf xs) := oneValue_val ..

/-- A BF16x4 result without rounding. -/
theorem oneValue_exactBf (xs : List FVal) : OneValue (exactBf xs) := oneValue_val ..

/-- A packed integer result. -/
theorem oneValue_lanesRes (e : Env) (g : (n : Nat) → Nat → BitVec n → BitVec n → BitVec n) : OneValue (lanesRes e g) :=
  oneValue_val ..

/-! ### Rows that take a case of their own -/

/-- BCVT has a destination, whether it packs or unpacks (05 R159). -/
theorem bcvtRow (f : RForm) : (shapeOf (viewR 0x83 f)).any (fun sh => sh.dst == .none) = false := by
  show Option.any _ (if (viewR 0x83 f).mod.getLsbD 3 then some _ else some _) = false
  split <;> rfl

/-- A word of the register form that is legal in some place has operands that are good there (02 R55-R57). -/
theorem operandBad_of_legal {o : BitVec 8} {f : RForm} {sh : Shape} (hrow : shapeOf (viewR o f) = some sh)
    (hform : sh.form = .r) (hlegal : legalWord (rword o f) = true) : ∃ core, operandBad core sh (viewR o f) = false := by
  have hcheck (core : Bool) (h : check core (rword o f) = 0) : operandBad core sh (viewR o f) = false := by
    refine Bool.eq_false_iff.mpr fun hbad => ?_
    simp only [check, viewOf_rword hrow hform, hrow, hbad, if_true] at h
    split at h <;> cases h
  rcases Bool.or_eq_true_iff.mp hlegal with h | h
  · exact ⟨false, hcheck false (beq_iff_eq.mp h)⟩
  · exact ⟨true, hcheck true (beq_iff_eq.mp h)⟩

/-- A word of the register form that is well formed has a destination its row accepts. -/
theorem dstBad_of_wf {i : Instr} {o : BitVec 8} {f : RForm} {sh : Shape} (he : encode i = some (rword o f))
    (hrow : shapeOf (viewR o f) = some sh) (hform : sh.form = .r) (hwf : i.wf = true) : dstBad sh.dst f.dst = false := by
  rw [wf_of_encode he, Bool.and_eq_true] at hwf
  obtain ⟨core, hok⟩ := operandBad_of_legal hrow hform hwf.1
  simp only [operandBad, Bool.or_eq_false_iff] at hok
  obtain ⟨⟨⟨⟨⟨hdst, -⟩, -⟩, -⟩, -⟩, -⟩ := hok
  exact hdst

/-- A register pair ends at x15 at the latest (02 R56). -/
theorem pair_fits {d : BitVec 5} (h : dstBad .pair d = false) : d.toNat + 2 ≤ 16 := by
  simp only [dstBad, isPairCode, Bool.or_eq_false_iff, Bool.not_eq_false', Bool.and_eq_true, decide_eq_true_eq,
    beq_iff_eq] at h
  obtain ⟨-, hlt, heven⟩ := h
  omega

/-- The pair that a well-formed CSAADD writes fits (05 R166). -/
theorem csaadd_fits {f : RForm} (hwf : (Instr.csaadd f).wf = true) : f.dst.toNat + 2 ≤ 16 :=
  pair_fits (dstBad_of_wf (sh := { dst := .pair, sa := .pair, sb := .pair, modOk := mod0 (viewR 0x8A f), lat := 2 })
    rfl rfl rfl hwf)

/-! ### The claims -/

/-- Settles O5: each row has a destination, and its result is one FP32 value, a truth value or a class. -/
theorem floatResults : Obligations.FloatResults := by
  intro f
  exact ⟨gives_of_row (fun _ => rfl) rfl fun _ => oneValue_out32 ..,
    gives_of_row (fun _ => rfl) rfl fun _ => oneValue_out32 ..,
    gives_of_row (fun _ => rfl) rfl fun _ => oneValue_out32 ..,
    gives_of_row (fun _ => rfl) rfl fun _ => oneValue_out32 ..,
    gives_of_row (fun _ => rfl) rfl fun _ => oneValue_out32 ..,
    gives_of_row (fun _ => rfl) rfl fun _ => oneValue_out32 ..,
    gives_of_row (fun _ => rfl) rfl fun _ => oneValue_out32 ..,
    gives_of_row (fun _ => rfl) rfl fun _ => oneValue_exact32 ..,
    gives_of_row (fun _ => rfl) rfl fun _ => oneValue_exact32 ..,
    gives_of_row (fun _ => rfl) rfl fun _ => oneValue_exact32 ..,
    gives_of_row (fun _ => rfl) rfl fun _ => oneValue_exact32 ..,
    gives_of_row (fun _ => rfl) rfl fun _ => oneValue_val ..,
    gives_of_row (fun _ => rfl) rfl fun _ => oneValue_val ..,
    gives_of_row (fun _ => rfl) rfl fun _ => oneValue_exact32 ..,
    gives_of_row (fun _ => rfl) rfl fun _ => oneValue_out32 ..,
    gives_of_row (fun _ => rfl) rfl fun _ => oneValue_val ..⟩

/-- Settles O6: each row has a destination, and its result is one word of lanes, of lane masks, or one FP32 value. -/
theorem bfloatResults : Obligations.BfloatResults := by
  intro f
  exact ⟨gives_of_row (fun _ => rfl) rfl fun _ => oneValue_outBf ..,
    gives_of_row (fun _ => rfl) rfl fun _ => oneValue_outBf ..,
    gives_of_row (fun _ => rfl) rfl fun _ => oneValue_outBf ..,
    gives_of_row (fun _ => rfl) rfl fun _ => oneValue_outBf ..,
    gives_of_row (fun _ => rfl) rfl fun _ => oneValue_exactBf ..,
    gives_of_row (fun _ => rfl) rfl fun _ => oneValue_exactBf ..,
    gives_of_row (fun _ => rfl) rfl fun _ => ⟨rfl, rfl⟩,
    gives_of_row (fun _ => rfl) rfl fun _ => oneValue_out32 ..,
    gives_of_row (fun _ => rfl) rfl fun _ => oneValue_exactBf ..,
    gives_of_row (fun _ => rfl) rfl fun _ => oneValue_out32 ..⟩

/-- Settles O7: each row has a destination, and its result is one word of lanes or a sum of lanes. -/
theorem packedResults : Obligations.PackedResults := by
  intro f
  exact ⟨gives_of_row (fun _ => rfl) rfl fun _ => oneValue_lanesRes ..,
    gives_of_row (fun _ => rfl) rfl fun _ => oneValue_lanesRes ..,
    gives_of_row (fun _ => rfl) rfl fun _ => oneValue_lanesRes ..,
    gives_of_row (fun _ => rfl) rfl fun _ => oneValue_lanesRes ..,
    gives_of_row (fun _ => rfl) rfl fun _ => oneValue_lanesRes ..,
    gives_of_row (fun _ => rfl) rfl fun _ => oneValue_lanesRes ..,
    gives_of_row (fun _ => rfl) rfl fun _ => oneValue_lanesRes ..,
    gives_of_row (fun _ => rfl) rfl fun _ => oneValue_lanesRes ..,
    gives_of_row (fun _ => rfl) rfl fun _ => oneValue_lanesRes ..,
    gives_of_row (fun _ => rfl) rfl fun _ => oneValue_lanesRes ..,
    gives_of_row (fun _ => rfl) rfl fun _ => oneValue_lanesRes ..,
    gives_of_row (fun _ => rfl) rfl fun _ => oneValue_lanesRes ..,
    gives_of_row (fun _ => rfl) rfl fun _ => oneValue_lanesRes ..,
    gives_of_row (fun _ => rfl) rfl fun _ => oneValue_val ..,
    gives_of_row (fun _ => rfl) rfl fun _ => oneValue_lanesRes ..,
    gives_of_row (fun _ => rfl) rfl fun _ => oneValue_val ..⟩

/-- Settles O8: each row has a destination and a result of one value, but for CSAADD, whose two values fit the pair that a
well-formed word names. -/
theorem conversionResults : Obligations.ConversionResults := by
  intro f
  exact ⟨gives_of_row (fun _ => rfl) rfl fun _ => oneValue_val ..,
    gives_of_row (fun _ => rfl) rfl fun _ => oneValue_val ..,
    gives_of_row (fun _ => rfl) rfl fun _ => oneValue_out32 ..,
    gives_of_row (fun _ => rfl) (bcvtRow f) fun _ => oneValue_outBf ..,
    gives_of_row (fun _ => rfl) (bcvtRow f) fun _ => oneValue_val ..,
    gives_of_row (fun _ => rfl) rfl fun _ => oneValue_val ..,
    gives_of_row (fun _ => rfl) rfl fun _ => oneValue_val ..,
    gives_of_row (fun _ => rfl) rfl fun _ => oneValue_val ..,
    gives_of_row (fun _ => rfl) rfl fun _ => oneValue_val ..,
    gives_of_row (fun _ => rfl) rfl fun _ => oneValue_out32 ..,
    fun hwf => gives_of_fits (fun _ => rfl) rfl (fun _ => rfl) fun _ _ => csaadd_fits hwf⟩

end Sys2Proof.Laws
end

section
/-! PROOFS. Routers, regions and debug access. A region that completes makes its graph counter fall, and a level above that reaches 0
posts the EL events armed on it (13 R380, R386). An event for a unit whose state stands in an image waits in the record of the
region that was saved (16 R443), which may be the very region that completes. -/

namespace Sys2Proof.Laws

open Sys2Proof Sys2Proof.Machine

/-- A region at rest becomes DONE, and its graph counter falls. -/
theorem exec_regionComplete_of_done {s : State} {d g : Nat} (h : s.regionDone d g = true) :
    exec (.regionComplete d g) s = .next ((s.modRegion d g fun R => { R with st := .done }).fall d (cKey 2 0 g)) :=
  if_pos h

/-- The graph of region 1 of die 0, the last of job 1's phase 0, is at rest. Element 0 of the graph that stood there before had armed
itself on the phase counter; that graph was saved, which renames the element (`State.saveUnits`), and cancelled while SAVED, which
frees the region (`State.endSaved`) and leaves what is armed on the levels above. -/
def lastGraphAtRest : State :=
  { State.reset with
    procs := [(0, { Proc.reset with region := some 1 })]
    dies := [(0, { Die.reset with
      regions := [(1, { Region.reset with st := .running, job := 1, elems := [0], clusters := [0] })]
      counters := [(cKey 2 0 1, { Counter.reset with st := 0, count := 1, job := 1 }),
        (cKey 3 1 0, { Counter.reset with st := 0, count := 1, job := 1, armed := [(savedUnit 0 1 0, 0)] })] })] }

theorem lastGraphAtRest_done : lastGraphAtRest.regionDone 0 1 = true := by decide

/-- The event of the phase counter waits in region 1 once its graph has completed; nothing waited there before. -/
theorem lastGraphAtRest_entering :
    (lastGraphAtRest.region 0 1).entering = [] ∧
    (((lastGraphAtRest.modRegion 0 1 fun R => { R with st := .done }).fall 0 (cKey 2 0 1)).region 0 1).entering =
      [.event 0 (put 4 60 ||| put (workId 0 (cKey 3 1 0)) 0)] := by decide

/-- Refutes O51: by the statement the completed region differs in its state alone, but the fall of its graph counter may close a
level on which an element SAVED from that region is armed, and the event then waits in the region's record. -/
theorem not_routeRegionAndDebugEvents : ¬ Obligations.RouteRegionAndDebugEvents := by
  unfold Obligations.RouteRegionAndDebugEvents
  rintro ⟨-, region, -⟩
  obtain ⟨t, hexec, hregion, -⟩ := (region lastGraphAtRest 0 1).1 lastGraphAtRest_done
  rw [exec_regionComplete_of_done lastGraphAtRest_done] at hexec
  cases hexec
  obtain ⟨hbefore, hafter⟩ := lastGraphAtRest_entering
  have hsame := congrArg Region.entering hregion
  rw [hafter] at hsame
  exact absurd (hsame.trans hbefore) (List.cons_ne_nil _ _)

end Sys2Proof.Laws
end

section
/-! PROOFS. The Espalier arrays (12): what forming vectors keeps of a cluster and of an array, what a graph of one array makes of a
block and of a marker, and what the head sends, reports and releases. -/

namespace Sys2Proof.Laws

open Sys2Proof Sys2Proof.Machine

/-! ### A change of an array -/

/-- The array written. -/
@[simp] theorem esp_setEsp_self (s : State) (cl u : Nat) (x : Esp) : (s.setEsp cl u x).esp cl u = x := by
  simp [State.esp, State.setEsp]

/-- The array changed. -/
@[simp] theorem esp_modEsp_self (s : State) (cl u : Nat) (f : Esp → Esp) :
    (s.modEsp cl u f).esp cl u = f (s.esp cl u) := esp_setEsp_self ..

/-- Another array of the cluster. -/
theorem esp_modEsp_ne (s : State) (cl : Nat) {u v : Nat} (f : Esp → Esp) (h : v ≠ u) :
    (s.modEsp cl u f).esp cl v = s.esp cl v := by
  simp [State.esp, State.modEsp, State.setEsp, kmap_get_set_ne _ _ _ _ h]

/-- What a change keeps of the array it is made in, it keeps of every array of the cluster. -/
theorem esp_modEsp_keeps {P : Esp → Prop} {s : State} {cl v : Nat} (u : Nat) {f : Esp → Esp} (hf : ∀ x, P x → P (f x))
    (h : P (s.esp cl v)) : P ((s.modEsp cl u f).esp cl v) := by
  by_cases hv : v = u
  · subst hv; rw [esp_modEsp_self]; exact hf _ h
  · rwa [esp_modEsp_ne _ _ _ hv]

/-- A state apart from the arrays of cluster `cl` and from the other clusters, with that cluster apart from its arrays. -/
def outsideArrays (cl : Nat) (s : State) : State × Cluster := ({ s with clusters := [] }, { s.cluster cl with esp := [] })

/-- A written array leaves all else. -/
@[simp] theorem outsideArrays_setEsp (s : State) (cl u : Nat) (x : Esp) :
    outsideArrays cl (s.setEsp cl u x) = outsideArrays cl s := by
  simp only [outsideArrays, State.setEsp, cluster_modCluster_self]; rfl

/-- A changed array leaves all else. -/
@[simp] theorem outsideArrays_modEsp (s : State) (cl u : Nat) (f : Esp → Esp) :
    outsideArrays cl (s.modEsp cl u f) = outsideArrays cl s := outsideArrays_setEsp ..

section
variable {s t : State} {cl : Nat} (h : outsideArrays cl t = outsideArrays cl s)
include h

/-- Changes of arrays leave memory. -/
theorem sameBytes_of_outside : SameBytes s t := fun a =>
  congrArg (fun o : State × Cluster => o.1.mget a) h

/-- Changes of arrays leave the input channels of the cluster. -/
theorem inAt_of_outside (k i : Nat) : t.inAt (.oper cl k i) = s.inAt (.oper cl k i) :=
  congrArg (fun o : State × Cluster => o.2.opIn.get InChan.reset (4 * k + i % 4)) h

end

/-! ### Forming vectors (12 R352-R353) -/

/-- Removing first items leaves all but the arrays. -/
@[simp] theorem outsideArrays_popItems (s : State) (cl : Nat) (us : List Nat) (ok : EspItem → Bool) :
    outsideArrays cl (s.popItems cl us ok) = outsideArrays cl s :=
  foldl_keeps (outsideArrays cl) _ (fun _ _ => outsideArrays_modEsp ..) us s

/-- What each removal of an item keeps of an array, the removal from a whole graph keeps. -/
theorem esp_popItems_keeps {P : Esp → Prop} {cl v : Nat}
    (hP : ∀ x i rest, x.items = i :: rest → P x → P { x with items := rest }) (us : List Nat) (ok : EspItem → Bool) :
    ∀ {s : State}, P (s.esp cl v) → P ((s.popItems cl us ok).esp cl v) := by
  induction us with
  | nil => exact id
  | cons u us ih =>
    refine fun h => ih (esp_modEsp_keeps u (fun x hx => ?_) h)
    split
    · next i rest hitems =>
      split
      · exact hP x i rest hitems hx
      · exact hx
    · exact hx

/-- Forming vectors takes items from arrays and changes the output queue and STATUS of the head: what these steps keep, it keeps. -/
theorem formVectors_keeps {P : State → Prop} {cl h : Nat} (hpop : ∀ s us ok, P s → P (s.popItems cl us ok))
    (hhead : ∀ s (q : Esp → List (List Token × Bool)) (st : Esp → Word), P s →
      P (s.modEsp cl h fun x => { x with outq := q x, status := st x })) :
    ∀ n s, P s → P (State.formVectors cl h n s) := by
  intro n
  induction n with
  | zero => exact fun _ => id
  | succ n ih =>
    intro s hs
    simp only [State.formVectors]
    split
    · exact hs
    · split
      · exact ih _ (hhead _ _ Esp.status (hpop _ _ _ hs))
      · split
        · exact ih _ (hhead _ _ _ (hpop _ _ _ hs))
        · exact ih _ (hhead _ Esp.outq _ (hpop _ _ _ hs))

/-- Forming vectors leaves all but the arrays. -/
@[simp] theorem outsideArrays_form (s : State) (cl h : Nat) : outsideArrays cl (s.form cl h) = outsideArrays cl s :=
  formVectors_keeps (P := fun t => outsideArrays cl t = outsideArrays cl s) (fun _ _ _ => (outsideArrays_popItems ..).trans)
    (fun _ _ _ => (outsideArrays_modEsp ..).trans) _ s rfl

/-- An array gathers the lanes `b` and has nothing else in hand. -/
def Gathers (b : List (BitVec 16)) (x : Esp) : Prop := x.block = b ∧ x.items = []

/-- An array that only gathers still does when vectors are formed, whatever the other arrays give. -/
theorem gathers_form {s : State} {cl u h : Nat} {b : List (BitVec 16)} (hu : Gathers b (s.esp cl u)) :
    Gathers b ((s.form cl h).esp cl u) := by
  refine formVectors_keeps (P := fun t => Gathers b (t.esp cl u)) (fun t us ok => ?_) (fun t q st => ?_) _ s hu
  · refine esp_popItems_keeps (fun x i rest hitems hx => ?_) us ok
    rw [hx.2] at hitems
    exact absurd hitems (List.cons_ne_nil _ _).symm
  · exact esp_modEsp_keeps h fun _ hx => hx

/-! ### A graph of one array -/

section
variable (s : State) {cl u : Nat} {x : Esp} (hhead : x.head = u) (hnarr : x.narr = 1)
include hhead hnarr

/-- The arrays of a graph of one array. -/
theorem units_of_one : x.units = [u] := by
  simp [Esp.units, hhead, hnarr]

/-- A graph of one array forms its one item in one round. -/
theorem form_of_item {i : EspItem} (hitems : x.items = [i]) :
    (s.setEsp cl u x).form cl u = State.formVectors cl u 1 (s.setEsp cl u x) := by
  simp [State.form, State.itemCount, units_of_one hhead hnarr, hitems]

/-- A block becomes the tokens of its vector (12 R353). -/
theorem esp_form_block {eb : Int} {m : Option (List Int)} (hitems : x.items = [.block eb m]) :
    ((s.setEsp cl u x).form cl u).esp cl u =
      { x with items := [], outq := x.outq ++ [(vectorToks x.rows [sectionParts x.sect eb m], true)] } := by
  simp only [form_of_item s hhead hnarr hitems, State.formVectors, State.graphItems, State.popItems, frontVector,
    EspItem.isBlock, esp_setEsp_self, esp_modEsp_self, units_of_one hhead hnarr, hitems, List.map_cons, List.map_nil,
    List.head?_cons, Option.some.injEq, List.filterMap_cons_some, List.filterMap_nil, List.length_cons, List.length_nil, Nat.lt_irrefl,
    List.all_cons, List.all_nil, Bool.and_self, List.foldl_cons, List.foldl_nil, ↓reduceIte]

/-- A marker that is no abort becomes a marker (12 R352). -/
theorem esp_form_marker {rank : Nat} (hitems : x.items = [.marker rank]) (hrank : rank < 7) :
    ((s.setEsp cl u x).form cl u).esp cl u = { x with items := [], outq := x.outq ++ [([endTok rank], false)] } := by
  have habort : (rank == 7) = false := beq_false_of_ne (Nat.ne_of_lt hrank)
  have hnone : x.outq.filter (fun _ => false) = [] := List.filter_eq_nil_iff.2 fun _ _ => Bool.false_ne_true
  have hall : x.outq.filter (fun _ => true) = x.outq := List.filter_eq_self.2 fun _ _ => rfl
  simp only [form_of_item s hhead hnarr hitems, State.formVectors, State.graphItems, State.popItems,
    EspItem.isBlock, esp_setEsp_self, esp_modEsp_self, units_of_one hhead hnarr, hitems, List.map_cons, List.map_nil,
    List.head?_cons, Option.some.injEq, List.filterMap_cons_some, List.filterMap_nil, List.length_cons, List.length_nil, Nat.lt_irrefl,
    List.all_cons, List.all_nil, List.foldl_cons, List.foldl_nil, Bool.and_true, Bool.not_false, Bool.false_and,
    Bool.false_eq_true, Nat.max_eq_right (Nat.zero_le _), habort, hnone, hall, Nat.repeat, ↓reduceIte]

end

/-! ### A token taken (12 R351-R352) -/

section
variable {s : State} {cl u : Nat} {k : Token} {q : List Entry}

/-- An array that may take a token meets none of the reasons to wait. -/
theorem not_waits_of_takes (h : TakesTokens s cl u) :
    ¬((s.esp cl u).st ≠ .bound ∨ (s.esp cl (s.esp cl u).head).stopped = true ∨
      s.espLive cl u (s.esp cl (s.esp cl u).head) = false ∨ 4 ≤ s.espHeld cl u) := by
  obtain ⟨hbound, hstopped, hlive, hheld⟩ := h
  simp [hbound, hstopped, hlive, hheld]

/-- An array that is free, stopped or holds four vectors takes nothing (12 R350, R354, R357). -/
theorem espTokenTake_waits
    (h : (s.esp cl u).st = .free ∨ (s.esp cl (s.esp cl u).head).stopped = true ∨ 4 ≤ s.espHeld cl u) :
    exec (.espTokenTake cl u) s = .next s := by
  show execEspTokenTake cl u s = _
  refine if_pos ?_
  obtain hfree | hstopped | hheld := h
  · exact .inl (by rw [hfree]; decide)
  · exact .inr (.inl hstopped)
  · exact .inr (.inr (.inr hheld))

section
variable (h : TakesTokens s cl u) (hq : (s.inAt (.oper cl (espOp u) 0)).q = .tok k :: q)
include h hq

/-- A CTRL token is dropped. -/
theorem espTokenTake_ctrl (hk : k.kind = .ctrl) : exec (.espTokenTake cl u) s = .next (s.popOp cl (espOp u) 0) := by
  show execEspTokenTake cl u s = _
  simp only [execEspTokenTake, if_neg (not_waits_of_takes h), hq, frontOf, hk]

/-- A DATA token goes to the block, and the graph forms what it can. -/
theorem espTokenTake_data {v : Nat} (hk : k.kind = .data) (hhead : (s.esp cl u).head = v) :
    exec (.espTokenTake cl u) s = .next (((s.popOp cl (espOp u) 0).espData cl u k).form cl v) := by
  subst hhead
  show execEspTokenTake cl u s = _
  simp only [execEspTokenTake, if_neg (not_waits_of_takes h), hq, frontOf, hk]

/-- An end marker is taken, and the graph forms what it can. -/
theorem espTokenTake_end {v : Nat} (hk : k.isEnd = true) (hhead : (s.esp cl u).head = v) :
    exec (.espTokenTake cl u) s = .next (((s.popOp cl (espOp u) 0).espMark cl u k).form cl v) := by
  subst hhead
  have hmark : k.kind = .mark := by simp only [Token.isEnd, Bool.and_eq_true, beq_iff_eq] at hk; exact hk.1
  show execEspTokenTake cl u s = _
  simp only [execEspTokenTake, if_neg (not_waits_of_takes h), hq, frontOf, hmark, hk, if_true]

end

/-- Taking the head of an input leaves the arrays. -/
@[simp] theorem esp_popOp (s : State) (cl k i v : Nat) : (s.popOp cl k i).esp cl v = s.esp cl v := by
  simp only [State.esp, State.popOp, State.modInAt, cluster_modCluster_self]

/-- The input of an operator after its head is taken. -/
theorem inAt_popOp (s : State) (cl k i : Nat) :
    ((s.popOp cl k i).inAt (.oper cl k i)).q = (s.inAt (.oper cl k i)).q.tail := by
  simp only [State.inAt, State.popOp, State.modInAt, cluster_modCluster_self, kmap_get_set_self]

/-- The array has taken the head of its input, and no byte of memory has changed. -/
def TookHead (s t : State) (cl u : Nat) (q : List Entry) : Prop :=
  (t.inAt (.oper cl (espOp u) 0)).q = q ∧ SameBytes s t

/-- When the head is taken and then only arrays change, the rest of the input is left, and memory. -/
theorem tookHead_of_outside {t : State} (hq : (s.inAt (.oper cl (espOp u) 0)).q = .tok k :: q)
    (h : outsideArrays cl t = outsideArrays cl (s.popOp cl (espOp u) 0)) :
    TookHead s t cl u q := by
  refine ⟨?_, sameBytes_of_outside (s := s.popOp cl (espOp u) 0) h⟩
  rw [inAt_of_outside h, inAt_popOp, hq, List.tail_cons]

end

/-- The lanes of a BF16x4 token. -/
def tokenLanes (k : Token) : List (BitVec 16) := (List.range 4).map (lane 16 k.payload)

/-- A BF16x4 token joins the block, which closes when it is whole. -/
theorem espData_bf16 {s : State} {cl u : Nat} {k : Token} (htag : k.tag = 2) :
    let x := s.esp cl u
    let y : Esp := { x with block := x.block ++ tokenLanes k }
    s.espData cl u k = s.setEsp cl u (if x.sect.lanes ≤ x.block.length + 4 then y.close else y) := by
  simp only [State.espData, if_pos htag, List.length_append, List.length_map, List.length_range]; rfl

/-- A block with its lanes in hand closes without any missing. -/
theorem close_of_full {x : Esp} (h : x.sect.lanes ≤ x.block.length) :
    let b := espBlock (x.block.take x.sect.lanes)
    x.close = { x with block := [], items := x.items ++ [.block b.1 b.2] } := by
  simp only [Esp.close, List.take_append_of_le_length h]

/-- An end marker at a block boundary is an item of its own. -/
theorem espMark_boundary {s : State} {cl u : Nat} {k : Token} (hblock : (s.esp cl u).block = []) :
    s.espMark cl u k = s.modEsp cl u fun x => { x with items := x.items ++ [.marker (markRank k.payload)] } := by
  simp only [State.espMark, if_pos hblock]

/-! ### A completion (12 R360) -/

/-- An event record is posted with a view of the time. -/
theorem posted_postEvent (s : State) (d core : Nat) (w1 w2 w3 : Word) :
    Posted s (s.postEvent d core w1 w2 w3) d core w1 w2 w3 :=
  ⟨_, viewed_view s (dieUnit d), by simp only [State.postEvent, die_modDie_self]; rfl⟩

/-- A completion of a graph with COMP 1 is an event record. -/
theorem posted_espReport (s : State) (cl u cause : Nat) {H : Esp} (hcomp : fldN H.bind 4 2 = 1) :
    Posted s (s.espReport cl u H cause) (cl / 32) (fldN H.bind 2 2) (espRecord cl u cause H.vcount)
      (put (fldN H.bind 32 32) 0) 0 := by
  rw [State.espReport, if_pos hcomp]; exact posted_postEvent ..

/-- A completion leaves memory and the clusters. -/
theorem espReport_rest (s : State) (cl u : Nat) (H : Esp) (cause : Nat) :
    ((s.espReport cl u H cause).mem, (s.espReport cl u H cause).clusters) = (s.mem, s.clusters) := by
  unfold State.espReport
  split
  · rfl
  · split
    · rw [postEl_mem, postEl_clusters]
    · rfl

/-! ### The end of a cancelled graph (12 R357, R363) -/

/-- Frees arrays one after the other; STATUS stays (12 R361). -/
theorem esp_free_arrays (cl v : Nat) (us : List Nat) (s : State) :
    (us.foldl (fun s u => s.modEsp cl u fun x => { Esp.reset with status := x.status }) s).esp cl v =
      if v ∈ us then { Esp.reset with status := (s.esp cl v).status } else s.esp cl v := by
  induction us generalizing s with
  | nil => rfl
  | cons u us ih =>
    rw [List.foldl_cons, ih]
    by_cases hv : v = u
    · subst hv; simp
    · simp only [esp_modEsp_ne _ _ _ hv, List.mem_cons, hv, false_or]

/-- A released graph leaves its arrays free. -/
theorem esp_espRelease_free {s : State} {cl h v : Nat} (hv : v ∈ (s.esp cl h).units) :
    ((s.espRelease cl h).esp cl v).st = .free := by
  simp only [State.espRelease, esp_free_arrays, if_pos hv]; rfl

/-- A release leaves memory. -/
theorem espRelease_mem (s : State) (cl h : Nat) : (s.espRelease cl h).mem = s.mem := by
  have hfree := foldl_keeps State.mem
    (fun s u => s.modEsp cl u fun x => { Esp.reset with status := x.status }) (fun _ _ => rfl) (s.esp cl h).units
  have hreport (t : State) := (Prod.mk.inj (espReport_rest t cl h (s.esp cl h) 1)).1
  simp only [State.espRelease, hfree, apply_ite State.mem, hreport, ite_self]
  split <;> rfl

/-- An answered request leaves memory and the clusters. -/
theorem finishServed_word_rest (p : Nat) (r : Req) (s : State) (w : Word) :
    ((finishServed p r (.word s w)).mem, (finishServed p r (.word s w)).clusters) = (s.mem, s.clusters) := by
  simp [finishServed, Served.word, State.dropReq]

/-- What the end of a cancelled graph does beyond its release leaves memory and the clusters. -/
theorem espEnd_rest (s : State) (cl h : Nat) :
    ((s.espEnd cl h).mem, (s.espEnd cl h).clusters) = ((s.espRelease cl h).mem, (s.espRelease cl h).clusters) :=
  foldl_keeps (fun t : State => (t.mem, t.clusters)) _
    (fun t e => foldl_keeps (fun t : State => (t.mem, t.clusters)) _ (fun t r => finishServed_word_rest e.1 r t _) _ t) _ _

/-! ### The output stream (12 R353, R360, R363) -/

/-- The head of a graph that may send: it is loaded, and no record of it waits. -/
structure Sends (s : State) (cl u : Nat) : Prop where
  used : (s.esp cl u).st ≠ .free
  head : (s.esp cl u).head = u
  posted : s.eventHeld (cl / 32) (espRecord cl u 0 0) 46 = false

section
variable {s : State} {cl u : Nat}

/-- Such a head meets none of the reasons to wait. -/
theorem Sends.not_waits (h : Sends s cl u) :
    ¬((s.esp cl u).st = .free ∨ (s.esp cl u).head ≠ u ∨ s.eventHeld (cl / 32) (espRecord cl u 0 0) 46 = true) := by
  exact not_or.mpr ⟨h.used, not_or.mpr ⟨fun hne => hne h.head, Bool.eq_false_iff.mp h.posted⟩⟩

/-- With nothing to send, a cancelled graph ends. -/
theorem espRowOutput_empty (h : Sends s cl u) (hq : (s.esp cl u).outq = []) :
    exec (.espRowOutput cl u) s = .next (if (s.esp cl u).closing then s.espEnd cl u else s) := by
  show execEspRowOutput cl u s = _
  simp only [execEspRowOutput, if_neg h.not_waits, hq]

variable {k : Token} {ks : List Token} {vec : Bool} {rest : List (List Token × Bool)}

/-- A token that has room and is not the last of its group leaves the others to send. -/
theorem espRowOutput_inside (h : Sends s cl u) (hq : (s.esp cl u).outq = (k :: ks, vec) :: rest)
    (hroom : s.endRoom cl (espOp u) 0 k = true) (hks : ks ≠ []) :
    exec (.espRowOutput cl u) s =
      .next ((s.opSend cl (espOp u) 0 [k]).setEsp cl u { s.esp cl u with outq := (ks, vec) :: rest }) := by
  show execEspRowOutput cl u s = _
  simp only [execEspRowOutput, if_neg h.not_waits, hq, hroom, if_true, if_pos hks]

/-- A head whose first group has been sent. -/
def sentHead (H : Esp) (vec : Bool) (rest : List (List Token × Bool)) : Esp :=
  { H with outq := rest, vcount := if vec then H.vcount + 1 else H.vcount }

/-- The last token of a group ends it, and a marker of rank 3 and above is reported. -/
theorem espRowOutput_last (h : Sends s cl u) (hq : (s.esp cl u).outq = ([k], vec) :: rest)
    (hroom : s.endRoom cl (espOp u) 0 k = true) :
    let H := sentHead (s.esp cl u) vec rest
    let sent := (s.opSend cl (espOp u) 0 [k]).setEsp cl u H
    ∃ t, exec (.espRowOutput cl u) s = .next t ∧ t.mem = s.mem ∧ t.clusters = sent.clusters ∧
      (vec = false → 3 ≤ markRank k.payload → t = sent.espReport cl u H 0) := by
  intro H sent
  have hexec : exec (.espRowOutput cl u) s =
      .next (if !vec && decide (3 ≤ markRank k.payload) then sent.espReport cl u H 0 else sent) := by
    show execEspRowOutput cl u s = _
    simp only [execEspRowOutput, if_neg h.not_waits, hq, hroom, if_true, ne_eq, not_true_eq_false, if_false]; rfl
  obtain ⟨hmem, hclusters⟩ := Prod.mk.inj (espReport_rest sent cl u H 0)
  refine ⟨_, hexec, ?_, ?_, fun hvec hrank => by simp [hvec, hrank]⟩ <;> split
  · exact hmem
  · rfl
  · exact hclusters
  · rfl

end

/-- A channel with room takes any token. -/
theorem endRoom_of_room {s : State} {cl k i : Nat} (h : (s.opOut cl k i).length < 2) (x : Token) :
    s.endRoom cl k i x = true := Bool.or_eq_true_iff.mpr (.inl (decide_eq_true (Nat.succ_le_of_lt h)))

/-- The output after a token is sent and an array written. -/
theorem opOut_opSend_setEsp (s : State) (cl u k : Nat) (x : Token) (y : Esp) :
    ((s.opSend cl k 0 [x]).setEsp cl u y).opOut cl k 0 = enqueue (s.opOut cl k 0) x := by
  simp [State.opOut, State.setEsp, State.opSend, State.modOpOut]

/-! ### The claim -/

section
variable {s : State} {cl u : Nat} {k : Token} {q : List Entry}
variable (h : TakesTokens s cl u) (hq : (s.inAt (.oper cl (espOp u) 0)).q = .tok k :: q)
include h hq

/-- A token that does not fill the block is gathered (12 R351). -/
theorem espTokenTake_gathers (hk : k.kind = .data) (htag : k.tag = 2)
    (hopen : (s.esp cl u).block.length + 4 < (s.esp cl u).sect.lanes) (hitems : (s.esp cl u).items = []) :
    ∃ t, exec (.espTokenTake cl u) s = .next t ∧ TookHead s t cl u q ∧
      Gathers ((s.esp cl u).block ++ tokenLanes k) (t.esp cl u) := by
  refine ⟨_, espTokenTake_data h hq hk rfl, ?_, gathers_form ?_⟩ <;>
    rw [espData_bf16 htag, esp_popOp, if_neg (Nat.not_le.mpr hopen)]
  · exact tookHead_of_outside hq (by rw [outsideArrays_form, outsideArrays_setEsp])
  · rw [esp_setEsp_self]; exact ⟨rfl, hitems⟩

section
variable (hitems : (s.esp cl u).items = []) (hhead : (s.esp cl u).head = u) (hnarr : (s.esp cl u).narr = 1)
include hitems hhead hnarr

/-- In a graph of one array, the token that fills the block brings the tokens of its vector (12 R351, R353). -/
theorem espTokenTake_vector (hk : k.kind = .data) (htag : k.tag = 2)
    (hfull : (s.esp cl u).sect.lanes ≤ (s.esp cl u).block.length + 4) :
    let x := s.esp cl u
    let b := espBlock ((x.block ++ tokenLanes k).take x.sect.lanes)
    ∃ t, exec (.espTokenTake cl u) s = .next t ∧ TookHead s t cl u q ∧
      t.esp cl u = { x with block := [], items := [],
                            outq := x.outq ++ [(vectorToks x.rows [sectionParts x.sect b.1 b.2], true)] } := by
  intro x b
  have hlen : x.sect.lanes ≤ (x.block ++ tokenLanes k).length := by
    simpa only [tokenLanes, List.length_append, List.length_map, List.length_range] using hfull
  have hdata : (s.popOp cl (espOp u) 0).espData cl u k =
      (s.popOp cl (espOp u) 0).setEsp cl u { x with block := [], items := [.block b.1 b.2] } := by
    rw [espData_bf16 htag, esp_popOp, if_pos hfull, close_of_full hlen]
    simp only [hitems, List.nil_append]; rfl
  refine ⟨_, espTokenTake_data h hq hk hhead, ?_, ?_⟩ <;> rw [hdata]
  · exact tookHead_of_outside hq (by rw [outsideArrays_form, outsideArrays_setEsp])
  · exact esp_form_block _ (x := { x with block := [], items := [.block b.1 b.2] }) hhead hnarr rfl

/-- In a graph of one array, an end marker at a block boundary that is no abort brings its marker (12 R352). -/
theorem espTokenTake_marker (hk : k.isEnd = true) (hrank : markRank k.payload < 7) (hblock : (s.esp cl u).block = []) :
    let x := s.esp cl u
    ∃ t, exec (.espTokenTake cl u) s = .next t ∧ TookHead s t cl u q ∧
      t.esp cl u = { x with items := [], outq := x.outq ++ [([endTok (markRank k.payload)], false)] } := by
  intro x
  have hmark : (s.popOp cl (espOp u) 0).espMark cl u k =
      (s.popOp cl (espOp u) 0).setEsp cl u { x with items := [.marker (markRank k.payload)] } := by
    rw [espMark_boundary (by rwa [esp_popOp]), State.modEsp, esp_popOp, hitems, List.nil_append]
  refine ⟨_, espTokenTake_end h hq hk hhead, ?_, ?_⟩ <;> rw [hmark]
  · exact tookHead_of_outside hq (by rw [outsideArrays_form, outsideArrays_setEsp])
  · exact esp_form_marker _ (x := { x with items := [.marker (markRank k.payload)] }) hhead hnarr rfl hrank

end

end

/-- Settles O49, by what the array makes of each kind of token and what the head sends. -/
theorem espalierEvents : Obligations.EspalierEvents := by
  refine ⟨fun s cl u k q h hq => ⟨fun hk => ?_, fun hk htag hopen hitems => ?_, fun hk htag hfull hitems hhead hnarr => ?_,
    fun hk hrank hblock hitems hhead hnarr => ?_⟩, fun s cl u hwait => ?_,
    fun s cl u k ks vec rest hused hhead hposted hq hroom => ?_,
    fun s cl u hused hhead hposted hq => ⟨fun hclosing => ?_, fun hclosing => ?_⟩⟩
  · obtain ⟨hinput, hbytes⟩ := tookHead_of_outside hq rfl
    exact ⟨_, espTokenTake_ctrl h hq hk, hinput, esp_popOp .., hbytes⟩
  · obtain ⟨t, hexec, ⟨hinput, hbytes⟩, hgathers⟩ := espTokenTake_gathers h hq hk htag hopen hitems
    exact ⟨t, hexec, hinput, hbytes, hgathers⟩
  · obtain ⟨t, hexec, ⟨hinput, hbytes⟩, hesp⟩ := espTokenTake_vector h hq hitems hhead hnarr hk htag hfull
    exact ⟨t, hexec, hinput, hbytes, by rw [hesp], by rw [hesp], by rw [hesp]; rfl⟩
  · obtain ⟨t, hexec, ⟨hinput, hbytes⟩, hesp⟩ := espTokenTake_marker h hq hitems hhead hnarr hk hrank hblock
    exact ⟨t, hexec, hinput, hbytes, by rw [hesp]⟩
  · exact espTokenTake_waits hwait
  · have hsends : Sends s cl u := ⟨hused, hhead, hposted⟩
    have hfits := endRoom_of_room hroom k
    by_cases hks : ks = []
    · subst hks
      obtain ⟨t, hexec, hmem, hclusters, hreport⟩ := espRowOutput_last hsends hq hfits
      refine ⟨t, hexec, fun a => ?_, ?_, fun hne => absurd rfl hne, fun _ => ?_, fun _ hvec hrank hcomp => ?_⟩
      · rw [State.mget, hmem]; rfl
      · rw [State.opOut, State.cluster, hclusters]; exact opOut_opSend_setEsp ..
      · rw [State.esp, State.cluster, hclusters]; exact esp_setEsp_self ..
      · rw [hreport hvec hrank, hvec]
        exact posted_espReport ((s.opSend cl (espOp u) 0 [k]).setEsp cl u _) cl u 0 (H := sentHead (s.esp cl u) false rest) hcomp
    · exact ⟨_, espRowOutput_inside hsends hq hfits hks, fun _ => rfl, opOut_opSend_setEsp .., fun _ => esp_setEsp_self ..,
        fun hnil => absurd hnil hks, fun hnil => absurd hnil hks⟩
  · obtain ⟨hmem, hclusters⟩ := Prod.mk.inj (espEnd_rest s cl u)
    have hexec := espRowOutput_empty ⟨hused, hhead, hposted⟩ hq
    rw [if_pos hclosing] at hexec
    refine ⟨_, hexec, fun v hv => ?_, fun a => ?_⟩
    · rw [State.esp, State.cluster, hclusters]; exact esp_espRelease_free hv
    · rw [State.mget, hmem, espRelease_mem]; rfl
  · rw [espRowOutput_empty ⟨hused, hhead, hposted⟩ hq, if_neg (by rw [hclosing]; decide)]

end Sys2Proof.Laws
end

section
/-! PROOFS. The words of submission, cancelling, counting, lending and collectives (13 R382-R388; 22 R520-R521): each queues its
request when the checks of its operands pass, and those checks read nothing that the word's own dequeues change. -/

namespace Sys2Proof.Laws

open Sys2Proof Sys2Proof.Machine

/-! ### A word that queues a request under its checks -/

/-- A word of the request port whose row reserves `resp` words and whose checks no dequeue changes queues its request wherever
they pass. -/
theorem requests_of_checks {i : Instr} {v : View} {kind : ReqKind} {faults : Env → State → Option Flt} {resp : Nat}
    {ok : Env → State → Prop} (hx : ∀ s, exec i s = issue v (portEffect kind modOf faults) s)
    (hrow : (shapeOf v).all (fun sh => sh.lat == 1 && sh.resp == resp) = true)
    (hdequeue : ∀ e s p c sh, faults e (s.dequeue p c sh v) = faults e s) (hok : ∀ e s, ok e s → faults e s = none) :
    Requests i v kind modOf resp ok := by
  intro s sh h hallowed
  rw [h.1] at hrow
  obtain ⟨hlat, hresp⟩ := Bool.and_eq_true_iff.mp hrow
  obtain ⟨t, hissue, hreq⟩ := requested_of_port h kind modOf faults (beq_iff_eq.mp hlat)
    ((hdequeue ..).trans (hok _ s hallowed))
  exact ⟨beq_iff_eq.mp hresp, t, (hx s).trans hissue, hreq⟩

/-- The counters after the dequeues. -/
@[simp] theorem dequeue_counter (s : State) (p c : Nat) (sh : Shape) (v : View) (d k : Nat) :
    (s.dequeue p c sh v).counter d k = s.counter d k :=
  dequeue_die_keeps (fun D => D.counters.get Counter.reset k) (fun _ _ => rfl) s p c sh v d

/-- The low bits of a word as a number. -/
theorem fldN_low (w : Word) (n : Nat) : fldN w 0 n = w.toNat % 2 ^ n := by rw [fldN, Nat.pow_zero, Nat.div_one]

/-- A field above every bit of the word is 0. -/
theorem fldN_of_lt {w : Word} {lo n : Nat} (h : w.toNat < 2 ^ lo) : fldN w lo n = 0 := by
  rw [fldN, Nat.div_eq_of_lt h, Nat.zero_mod]

/-! ### The check of a short address (07 R214, R228; 15 R395) -/

section

variable {s : State} {e : Env} {job : Option Nat}

/-- A unit reaches a cluster as `Reaches` says. -/
theorem clusterOk_iff_reaches {cl : Nat} : s.clusterOk e.p (s.jobOf e.p e.c) cl = true ↔ Reaches s e cl := by
  unfold State.clusterOk Reaches
  cases s.jobOf e.p e.c <;> simp

/-- Bytes of scratchpad that the unit reaches pass the check. -/
theorem scratchFault_none {off len : Nat} {acc : Acc} (hfits : off % 2 ^ 22 + len ≤ 2 ^ 22)
    (hreach : Reaches s e (off / 2 ^ 22)) (hatomic : acc = .atomic → off % len = 0)
    (hbelow : acc ≠ .atomic → off % 2 ^ 22 + len ≤ syncBase) :
    s.scratchFault e.p (s.jobOf e.p e.c) off len acc = none := by
  rw [State.scratchFault, if_neg (Nat.not_lt.mpr hfits), if_neg (by rw [clusterOk_iff_reaches.mpr hreach]; decide)]
  by_cases hacc : acc = .atomic
  · rw [if_pos hacc, if_pos (hatomic hacc)]
  · rw [if_neg hacc, if_neg (Nat.not_lt.mpr (hbelow hacc))]

/-- Bytes of a core's local memory pass the check. -/
theorem coreWindowFault_local {off len : Nat} {acc : Acc} (hacc : acc ≠ .atomic) (hwin : off / 2 ^ 30 = 1)
    (hlow : off % 2 ^ 30 < 2 ^ 18) (hfits : off % 2 ^ 30 + len ≤ 2 ^ 18) : coreWindowFault off len acc = none := by
  rw [coreWindowFault, if_neg (by omega), if_neg hacc, if_pos hwin, if_neg (by omega)]

/-- One register of the control page passes the check. -/
theorem coreWindowFault_page {off len : Nat} {acc : Acc} (hacc : acc ≠ .atomic) (hwin : off / 2 ^ 30 = 2) (hlen : len = 8)
    (haligned : off % 8 = 0) (hlast : off % 2 ^ 30 / 8 < 2560) : coreWindowFault off len acc = none := by
  rw [coreWindowFault, if_neg (by omega), if_neg hacc, if_neg (by omega), if_neg (by omega)]

/-- An address that the issue allows meets no fault. -/
theorem shortFault_none {a : Word} {len : Nat} {acc : Acc} (h : ShortAllowed s e a len acc) :
    s.shortFault e.p (s.jobOf e.p e.c) a len acc = none := by
  rcases h with ⟨hslot, hjob⟩ | ⟨hslot, hcheck, ⟨hlow, hfits, hreach, hatomic, hbelow⟩ | ⟨hcore, hacc, hwin, hlow, hfits⟩ |
    ⟨hcore, hacc, hwin, hlen, haligned, hlast⟩⟩
  · rw [State.shortFault, if_pos hslot, if_neg]
    rcases hjob with hcore | hjob
    · simp [hcore]
    · simp [hjob]
  all_goals rw [State.shortFault, if_neg (not_not_intro hslot), if_neg (not_not_intro hcheck)]
  · rw [if_pos (Nat.div_eq_of_lt hlow)]
    exact scratchFault_none hfits hreach hatomic hbelow
  · rw [if_neg (by omega), if_pos hcore]
    exact coreWindowFault_local hacc hwin hlow hfits
  · rw [if_neg (by omega), if_pos hcore]
    exact coreWindowFault_page hacc hwin hlen haligned hlast

end

/-! ### The checks of each word -/

section

variable {s : State} {e : Env}

/-- The region that a submission names, after the dequeues. -/
@[simp] theorem dequeue_submitRegion (s : State) (p c : Nat) (sh : Shape) (v : View) (q : Nat) (b : Word) :
    submitRegion (s.dequeue p c sh v) q b = submitRegion s q b := by
  unfold submitRegion; simp

/-- The checks of a submission, after the dequeues. -/
theorem dequeue_submitFaults (launch : Bool) (e : Env) (s : State) (p c : Nat) (sh : Shape) (v : View) :
    submitFaults launch e (s.dequeue p c sh v) = submitFaults launch e s := by
  unfold submitFaults State.graphOpen; simp

/-- A submission of one to `most` tasks to an open graph counter passes its checks (13 R383). -/
theorem submitFaults_none {launch : Bool} {most : Nat} (hmost : launch = false → most ≤ 256) (h : SubmitAllowed most e s)
    (hshort : ShortAllowed s e e.a (64 * (if launch then 1 else fldN e.b 0 16)) .load) : submitFaults launch e s = none := by
  obtain ⟨j, hjob, haligned, hb38, hb27, hb16, hpos, hle, helem, hopen, howner, hst, hregion⟩ := h
  have hlow : fldN e.a 0 6 = 0 := (fldN_low ..).trans haligned
  have hmax : ¬(launch = false ∧ fldN e.b 0 16 > 256) := fun ⟨hl, hgt⟩ => by have := hmost hl; omega
  have hgraph : s.graphOpen (fldN e.b 24 3) (submitRegion s e.p e.b) j = true :=
    Bool.and_eq_true_iff.mpr ⟨hopen, beq_iff_eq.mpr howner⟩
  have hcheck := shortFault_none hshort
  rw [hjob] at hcheck
  simp only [submitFaults, hjob]
  rw [if_neg, if_neg]
  · exact hcheck
  · rintro (hshut | hfree | hother)
    · rw [hgraph] at hshut; cases hshut
    · exact hst hfree
    · exact hother hregion
  · rintro (h | h | h | h | h | h | ⟨hel, h⟩)
    · exact h hlow
    · exact h hb38
    · exact h hb27
    · exact h hb16
    · omega
    · exact hmax h
    · exact h (helem hel)

/-- A work identifier passes its check (13 R385). -/
theorem workFaults_none (h : WorkIdOk e s) : workFaults e s = none := by
  obtain ⟨hsize, h27, h16, hlevel⟩ := h
  have hhigh : fldN e.a 32 32 = 0 := fldN_of_lt hsize
  have hgood : workIdBad e.a = false := by simp [workIdBad, hhigh, h27, h16, hlevel]
  rw [workFaults, hgood]; rfl

/-- The checks of KLEND, after the dequeues. -/
theorem dequeue_klendFaults (lend : Bool) (e : Env) (s : State) (p c : Nat) (sh : Shape) (v : View) :
    klendFaults lend e (s.dequeue p c sh v) = klendFaults lend e s := by
  unfold klendFaults State.elemOfJob State.keyInRange; simp

/-- A key of the job passes the checks of `klend.q`, and those of KLEND when the element named stands in a region of the
job (13 R387-R388). -/
theorem klendFaults_none {lend : Bool} (hkey : KeyAllowed e s) (hlend : lend = true → LendAllowed e s) :
    klendFaults lend e s = none := by
  obtain ⟨j, hjob, hsize, hlo, hhi⟩ := hkey
  have hhigh : fldN e.a 12 52 = 0 := fldN_of_lt hsize
  have hlow : fldN e.a 0 12 = e.a.toNat := (fldN_low ..).trans (Nat.mod_eq_of_lt hsize)
  have hrange : s.keyInRange (dieOf e.p) j (fldN e.a 0 12) = true := by
    rw [hlow]; exact Bool.and_eq_true_iff.mpr ⟨decide_eq_true hlo, decide_eq_true hhi⟩
  simp only [klendFaults, hjob]
  rw [if_neg (not_not_intro hhigh), if_neg, if_neg, if_pos hrange]
  all_goals
    rintro ⟨htrue, hbad⟩
    obtain ⟨h21, h18, h12, hdie, R, hR, hsame⟩ := hlend htrue
  · have hin : s.elemOfJob (fldN e.b 0 12) j = true := by
      rw [State.elemOfJob, hR]
      exact beq_iff_eq.mpr (Option.some.inj (hsame.symm.trans hjob))
    rw [hin] at hbad
    exact hbad.elim (fun h => h hdie) (fun h => nomatch h)
  · rcases hbad with h | h | h
    · exact h h21
    · exact h h18
    · exact h h12

/-- The checks of a collective, after the dequeues. -/
theorem dequeue_collFaults (e : Env) (s : State) (p c : Nat) (sh : Shape) (v : View) :
    collFaults e (s.dequeue p c sh v) = collFaults e s := by
  unfold collFaults jobFaults; simp

/-- A group and an operation named with their reserved fields 0, for a job, pass the checks of a collective (22 R521). -/
theorem collFaults_none (h : HasJob e s ∧ fldN e.a 24 40 = 0 ∧ fldN e.a 4 12 = 0) : collFaults e s = none := by
  obtain ⟨hjob, h24, h4⟩ := h
  have hnone : jobFaults e s = none := if_neg (mt Option.isNone_iff_eq_none.mp hjob)
  simp [collFaults, hnone, h24, h4]

end

/-- A collective queues its request under its checks, whatever its operation. -/
theorem coll_requests {i : Instr} {f : RForm} (hx : ∀ s, exec i s = issue (viewR 0xEA f) (portEffect .coll modOf collFaults) s) :
    Requests i (viewR 0xEA f) .coll modOf 2 fun e s => HasJob e s ∧ fldN e.a 24 40 = 0 ∧ fldN e.a 4 12 = 0 :=
  requests_of_checks hx rfl (fun e s p c sh => dequeue_collFaults e s p c sh _) fun _ _ => collFaults_none

/-- Settles O20: each word's row is one of the request port, no dequeue changes its checks, and they pass where it is allowed. -/
theorem workWords : Obligations.WorkWords := by
  intro f
  refine ⟨?_, ?_, ?_, ?_, ?_, ?_, coll_requests fun _ => rfl, coll_requests fun _ => rfl, coll_requests fun _ => rfl,
    coll_requests fun _ => rfl, coll_requests fun _ => rfl, coll_requests fun _ => rfl, coll_requests fun _ => rfl,
    coll_requests fun _ => rfl⟩
  · exact requests_of_checks (fun _ => rfl) rfl (fun e s p c sh => dequeue_submitFaults false e s p c sh _)
      fun _ _ ⟨hallowed, hshort⟩ => submitFaults_none (fun _ => Nat.le_refl _) hallowed hshort
  · exact requests_of_checks (fun _ => rfl) rfl (fun e s p c sh => dequeue_submitFaults true e s p c sh _)
      fun _ _ ⟨hallowed, hshort⟩ => submitFaults_none (fun h => nomatch h) hallowed hshort
  · exact requests_of_checks (fun _ => rfl) rfl (fun _ _ _ _ _ => rfl) fun _ _ => workFaults_none
  · exact requests_of_checks (fun _ => rfl) rfl (fun _ _ _ _ _ => rfl) fun _ _ => workFaults_none
  · exact requests_of_checks (fun _ => rfl) rfl (fun e s p c sh => dequeue_klendFaults true e s p c sh _)
      fun _ _ ⟨hkey, hlend⟩ => klendFaults_none hkey fun _ => hlend
  · exact requests_of_checks (fun _ => rfl) rfl (fun e s p c sh => dequeue_klendFaults false e s p c sh _)
      fun _ _ hkey => klendFaults_none hkey fun h => nomatch h

end Sys2Proof.Laws
end

section
/-! PROOFS. Stores to the registers of a job on the control page (15 R402-R403; 13 R369; 22 R514). -/

namespace Sys2Proof.Laws

open Sys2Proof Sys2Proof.Machine

/-! ### What the store leaves of its unit's port and of memory -/

/-- The requests of unit `p`, queued and waiting, its responses, and memory: what an answer is said of. -/
def portOf (p : Nat) (s : State) : List Req × List Req × List Resp × KMap Byte :=
  ((s.proc p).reqs, (s.proc p).parked, (s.proc p).resps, s.mem)

@[simp] theorem portOf_modDie (p : Nat) (s : State) (d : Nat) (f : Die → Die) : portOf p (s.modDie d f) = portOf p s := rfl

@[simp] theorem portOf_setCtlReg (p : Nat) (s : State) (d n : Nat) (w : Word) : portOf p (s.setCtlReg d n w) = portOf p s := rfl

@[simp] theorem portOf_setCounter (p : Nat) (s : State) (d k : Nat) (c : Counter) :
    portOf p (s.setCounter d k c) = portOf p s := rfl

/-- A view of the time changes of its unit the view alone. -/
@[simp] theorem portOf_view (p : Nat) (s : State) (q : Nat) : portOf p (s.view q).2 = portOf p s := by
  by_cases hq : p = q
  · subst hq
    simp only [portOf, State.view, proc_modProc_self]; rfl
  · simp only [portOf, State.view, proc_modProc_ne _ _ hq]; rfl

/-! ### A store that is performed -/

section

variable {s u : State} {p k n : Nat} {r : Req}

/-- The register of a store that may be performed now. -/
theorem ctlStore_of_storesTo (h : StoresTo s p k r n) : s.ctlStore p k = some (r, n) := by
  obtain ⟨hcore, hreq, hslot, hpage, rfl, hkind⟩ := h
  have hwindow : aOff r.a / 1073741824 = 2 := hpage
  rcases hkind with hkind | hkind | ⟨hkind, hawaits⟩ <;> simp [State.ctlStore, *]

/-- The unit of a performed store, once it is answered. -/
theorem proc_ctlDone (u : State) (p : Nat) (r : Req) :
    (u.ctlDone p r).proc p = { u.proc p with
      reqs := (u.proc p).reqs.filter (fun x => x.rid != r.rid)
      parked := (u.proc p).parked.filter (fun x => x.rid != r.rid)
      held := (u.proc p).held.filter (fun x => x.rid != r.rid)
      resps := (u.proc p).resps ++ (if r.resp = 0 then [] else [{ rid := r.rid, words := [0], tag := 0 }]) } := by
  simp only [State.ctlDone, Served.ack, finishServed, State.respond, State.dropReq]
  split <;> simp

/-- The answer of a performed store, said of the state it is performed in. -/
theorem answered_ctlDone (hport : portOf p u = portOf p s) : Answered s (u.ctlDone p r) p r [0] := by
  simp only [portOf, Prod.mk.injEq] at hport
  obtain ⟨hreqs, hparked, hresps, hmem⟩ := hport
  refine ⟨?_, ?_, ?_, fun a => ?_⟩
  · rw [proc_ctlDone, hreqs]
  · rw [proc_ctlDone, hparked]
  · rw [proc_ctlDone, hresps]
  · rw [State.mget, State.mget, ← hmem]
    exact congrArg (KMap.get 0 · a) (respond_mem ..)

/-- The answer touches no die. -/
theorem ctlDone_dies (u : State) (p : Nat) (r : Req) : (u.ctlDone p r).dies = u.dies :=
  respond_dies ..

/-- A control-page register after the answer. -/
@[simp] theorem ctlReg_ctlDone (u : State) (p : Nat) (r : Req) (d m : Nat) : (u.ctlDone p r).ctlReg d m = u.ctlReg d m := by
  rw [State.ctlReg, State.die, ctlDone_dies]; rfl

/-- A counter after the answer. -/
@[simp] theorem counter_ctlDone (u : State) (p : Nat) (r : Req) (d m : Nat) : (u.ctlDone p r).counter d m = u.counter d m := by
  rw [State.counter, State.die, ctlDone_dies]; rfl

/-- A performed store is answered, and the registers are as the store left them. -/
theorem answered_and_registerSet {d m : Nat} {w : Word} (hport : portOf p u = portOf p s) (hset : RegisterSet s u d m w) :
    Answered s (u.ctlDone p r) p r [0] ∧ RegisterSet s (u.ctlDone p r) d m w :=
  ⟨answered_ctlDone hport, (ctlReg_ctlDone ..).trans hset.1, fun x hx => (ctlReg_ctlDone ..).trans (hset.2 x hx)⟩

/-- A register stored. -/
theorem registerSet_setCtlReg (s : State) (d n : Nat) (w : Word) : RegisterSet s (s.setCtlReg d n w) d n w :=
  ⟨ctlReg_setCtlReg_self .., fun _ hm => ctlReg_setCtlReg_ne s d w hm⟩

/-- A store that is ignored. -/
theorem registerSet_self (s : State) (d n : Nat) : RegisterSet s s d n (s.ctlReg d n) := ⟨rfl, fun _ _ => rfl⟩

/-- A register set twice. -/
theorem registerSet_trans {t : State} {d : Nat} {w w' : Word} (h : RegisterSet s u d n w) (h' : RegisterSet u t d n w') :
    RegisterSet s t d n w' :=
  ⟨h'.1, fun m hm => (h'.2 m hm).trans (h.2 m hm)⟩

/-- JCTL_WRITE performs its store (15 R403). -/
theorem exec_jctlWrite {j : Nat} (h : StoresTo s p k r (4 * j)) (hj : 4 * j < 1024) :
    exec (.jctlWrite p k) s = .next ((s.writeJctl (dieOf p) j r.b).ctlDone p r) := by
  show execJctlWrite p k s = _
  simp only [execJctlWrite, ctlStore_of_storesTo h]
  rw [if_pos ⟨hj, by omega⟩, Nat.mul_div_cancel_left j (by decide)]

/-- JKEYS_WRITE performs its store (15 R403). -/
theorem exec_jkeysWrite (h : StoresTo s p k r n) (hn : n < 1024) (hrow : n % 4 = 1) :
    exec (.jkeysWrite p k) s = .next ((if s.jkeysIgnored (dieOf p) (n / 4) r.b then s
      else s.setCtlReg (dieOf p) n (r.b &&& 0x1FFF0FFF)).ctlDone p r) := by
  show execJkeysWrite p k s = _
  simp only [execJkeysWrite, ctlStore_of_storesTo h]
  rw [if_pos ⟨hn, hrow⟩]

/-- JTRUST_WRITE performs its store (22 R514). -/
theorem exec_jtrustWrite (h : StoresTo s p k r n) (hn : n < 1024) (hrow : n % 4 = 3) :
    exec (.jtrustWrite p k) s = .next ((if fldN r.b 0 16 ≠ 0 ∧ s.secureMode = false then s
      else s.setCtlReg (dieOf p) n (r.b &&& 0xFFFF)).ctlDone p r) := by
  show execJtrustWrite p k s = _
  simp only [execJtrustWrite, ctlStore_of_storesTo h]
  rw [if_pos ⟨hn, hrow⟩]

/-- A store to JQUOTA sets all of it (15 R402). -/
theorem exec_jquotaWrite (h : StoresTo s p k r n) (hn : n < 1024) (hrow : n % 4 = 2) :
    exec (.controlRegisterWrite p k) s = .next ((s.setCtlReg (dieOf p) n r.b).ctlDone p r) := by
  have hown : ownRow n = false := by simp [ownRow, regDbgData]; omega
  have hpkg : isPkgReg n = false := by simp [isPkgReg]; omega
  have hmask : writeMask n = BitVec.allOnes 64 := if_pos ⟨hn, hrow⟩
  have hwrite : s.writeReg (dieOf p) n r.b = s.setCtlReg (dieOf p) n r.b := by
    simp only [State.writeReg, hmask, hpkg, BitVec.and_allOnes]
    rw [if_neg (by omega), if_neg (by decide)]; rfl
  show execControlRegisterWrite p k s = _
  simp only [execControlRegisterWrite, ctlStore_of_storesTo h, hown, hwrite]; rfl

end

/-! ### A job is created (15 R403, 13 R369) -/

section

variable (s : State) (d : Nat)

/-- What a die holds of its own after a change of a die that leaves that. -/
theorem die_modDie_keeps {γ : Type} (g : Die → γ) {f : Die → Die} (hf : ∀ D, g (f D) = g D) (k : Nat) :
    g ((s.modDie d f).die k) = g (s.die k) := by
  by_cases hk : k = d
  · subst hk; rw [die_modDie_self, hf]
  · rw [die_modDie_ne _ _ hk]

/-- A record posted leaves the registers of the control page. -/
theorem ctlReg_postEvent (core : Nat) (w1 w2 w3 : Word) (k m : Nat) :
    (s.postEvent d core w1 w2 w3).ctlReg k m = s.ctlReg k m :=
  die_modDie_keeps (s.view (dieUnit d)).2 d (fun D => D.ctl.get (ctlReset m) m) (by exact fun _ => rfl) k

/-- A record posted leaves the counters. -/
theorem counter_postEvent (core : Nat) (w1 w2 w3 : Word) (k m : Nat) :
    (s.postEvent d core w1 w2 w3).counter k m = s.counter k m :=
  die_modDie_keeps (s.view (dieUnit d)).2 d (fun D => D.counters.get Counter.reset m) (by exact fun _ => rfl) k

/-- A record posted leaves every port. -/
theorem portOf_postEvent (p core : Nat) (w1 w2 w3 : Word) : portOf p (s.postEvent d core w1 w2 w3) = portOf p s :=
  portOf_view ..

/-- A counter written leaves the registers of the control page. -/
theorem ctlReg_setCounter (k : Nat) (c : Counter) (d' m : Nat) : (s.setCounter d k c).ctlReg d' m = s.ctlReg d' m :=
  die_modDie_keeps s d (fun D => D.ctl.get (ctlReset m) m) (by exact fun _ => rfl) d'

/-- The counter written. -/
@[simp] theorem counter_setCounter_self (k : Nat) (c : Counter) : (s.setCounter d k c).counter d k = c := by
  simp [State.counter, State.setCounter]

/-- Another counter. -/
theorem counter_setCounter_ne {k m : Nat} (c : Counter) (h : m ≠ k) : (s.setCounter d k c).counter d m = s.counter d m := by
  simp [State.counter, State.setCounter, kmap_get_set_ne, h]

/-- A register written leaves the counters. -/
@[simp] theorem counter_setCtlReg (n : Nat) (w : Word) (m : Nat) : (s.setCtlReg d n w).counter d m = s.counter d m := by
  simp [State.counter, State.setCtlReg]

/-- What no record posted changes, a record kept leaves. -/
theorem keepRecord_keeps {γ : Type} (g : State → γ)
    (hpost : ∀ s d core w1 w2 w3, g (State.postEvent s d core w1 w2 w3) = g s) (k : Nat) : g (s.keepRecord d k) = g s := by
  simp only [State.keepRecord]
  split
  · rfl
  · exact hpost ..

/-- What neither a counter written nor a record posted changes, a counter opened leaves. -/
theorem openCounter_keeps {γ : Type} (g : State → γ) (hset : ∀ s d k c, g (State.setCounter s d k c) = g s)
    (hpost : ∀ s d core w1 w2 w3, g (State.postEvent s d core w1 w2 w3) = g s) (k count : Nat) (user : Word)
    (owner job up : Nat) : g (s.openCounter d k count user owner job up) = g s := by
  simp only [State.openCounter]
  split
  · rw [hset, keepRecord_keeps s d g hpost]
  · rw [hset, hset, keepRecord_keeps s d g hpost]

/-- A counter opened leaves the registers of the control page. -/
theorem ctlReg_openCounter (k count : Nat) (user : Word) (owner job up d' m : Nat) :
    (s.openCounter d k count user owner job up).ctlReg d' m = s.ctlReg d' m :=
  openCounter_keeps s d (fun s => s.ctlReg d' m) (fun s d k c => ctlReg_setCounter s d k c d' m)
    (fun s d core w1 w2 w3 => ctlReg_postEvent s d core w1 w2 w3 d' m) ..

/-- A counter opened leaves every port. -/
theorem portOf_openCounter (p k count : Nat) (user : Word) (owner job up : Nat) :
    portOf p (s.openCounter d k count user owner job up) = portOf p s :=
  openCounter_keeps s d (portOf p) (fun s d k c => portOf_setCounter p s d k c)
    (fun s d core w1 w2 w3 => portOf_postEvent s d p core w1 w2 w3) ..

/-- The counter of a job, the highest level, is open once opened. -/
theorem isOpen_openCounter_job {job : Nat} (hjob : job < 256) (count : Nat) (user : Word) (owner up : Nat) :
    ((s.openCounter d (cKey 4 0 job) count user owner job up).counter d (cKey 4 0 job)).isOpen = true := by
  have hlevel : keyLevel (cKey 4 0 job) = 4 := by simp [keyLevel, cKey]; omega
  simp only [State.openCounter, Counter.above, hlevel, counter_setCounter_self]
  rfl

/-- The counter of a phase is open once opened, and that of its job stays as open as it was. -/
theorem isOpen_openCounter_phase {job : Nat} (hjob : job < 256) (count : Nat) (user : Word) (owner up : Nat) :
    ((s.openCounter d (cKey 3 job 0) count user owner job up).counter d (cKey 3 job 0)).isOpen = true ∧
      ((s.openCounter d (cKey 3 job 0) count user owner job up).counter d (cKey 4 0 job)).isOpen =
        (s.counter d (cKey 4 0 job)).isOpen := by
  have hlevel : keyLevel (cKey 3 job 0) = 3 := by simp [keyLevel, cKey]; omega
  have hne : cKey 3 job 0 ≠ cKey 4 0 job := by simp [cKey]; omega
  simp only [State.openCounter, Counter.above, hlevel, counter_setCounter_self, counter_setCounter_ne _ _ _ hne,
    counter_setCounter_ne _ _ _ hne.symm]
  refine ⟨rfl, ?_⟩
  exact congrArg (fun c => c.st == 0) (keepRecord_keeps s d (fun s => s.counter d (cKey 4 0 job))
    (fun s d' core w1 w2 w3 => counter_postEvent s d' core w1 w2 w3 d _) _)

/-- A job created opens the counters of the job and of its phase 0 (15 R403). -/
theorem openJob_counters {job : Nat} (hjob : job < 256) :
    ((s.openJob d job).counter d (cKey 4 0 job)).isOpen = true ∧
      ((s.openJob d job).counter d (cKey 3 job 0)).isOpen = true := by
  obtain ⟨hphase, hsame⟩ := isOpen_openCounter_phase ((s.dropEnded d job).openCounter d (cKey 4 0 job) 1 0 0 job 0) d hjob 1 0 0 0
  simp only [State.openJob, State.setPhase, counter_setCtlReg]
  exact ⟨hsame.trans (isOpen_openCounter_job _ d hjob ..), hphase⟩

/-- A job created leaves every port. -/
theorem portOf_openJob (p job : Nat) : portOf p (s.openJob d job) = portOf p s := by
  simp only [State.openJob, State.setPhase, portOf_setCtlReg, portOf_openCounter, State.dropEnded, portOf_modDie]

/-- A job created has PHASE and CLOSING 0 (13 R369). -/
theorem registerSet_openJob (job : Nat) :
    RegisterSet s (s.openJob d job) d (4 * job) (s.ctlReg d (4 * job) &&& 0xFFFFFFFFFFF00007) := by
  have hdrop (m : Nat) : (s.dropEnded d job).ctlReg d m = s.ctlReg d m :=
    die_modDie_keeps s d (fun D => D.ctl.get (ctlReset m) m) (by exact fun _ => rfl) d
  simp only [State.openJob, State.setPhase]
  refine ⟨?_, fun m hm => ?_⟩
  · simp only [ctlReg_setCtlReg_self, ctlReg_openCounter, hdrop]
    simp [put]
  · simp only [ctlReg_setCtlReg_ne _ _ _ hm, ctlReg_openCounter, hdrop]

end

/-! ### A write of JCTL (15 R402-R403) -/

/-- What a write of JCTL that leaves V at 1, or raises it, makes of the register: PHASE and CLOSING stay. -/
def jctlWritten (old b : Word) : Word := (old &&& 0xFFFF8) ||| (b &&& 0x100006) ||| 1

/-- A job created has the OWNER and the other writable fields of the write, and PHASE and CLOSING 0. -/
theorem jctlWritten_opened (old b : Word) : jctlWritten old b &&& 0xFFFFFFFFFFF00007 = (b &&& 0x100006) ||| 1 := by
  simp [jctlWritten, BitVec.and_or_distrib_right, BitVec.and_assoc]

section

variable {s : State} {d j : Nat} {b : Word}

/-- The state in which a job is created: its JCTL is written, and the key indices of jobs are `keys`. -/
def withJctl (s : State) (d j : Nat) (b : Word) (keys : KMap Nat) : State :=
  { s.setCtlReg d (4 * j) (jctlWritten (s.ctlReg d (4 * j)) b) with jobKeys := keys }

/-- The written register of the state in which a job is created. -/
theorem registerSet_withJctl (s : State) (d j : Nat) (b : Word) (keys : KMap Nat) :
    RegisterSet s (withJctl s d j b keys) d (4 * j) (jctlWritten (s.ctlReg d (4 * j)) b) :=
  registerSet_setCtlReg ..

/-- A write of V = 1 over V = 0 creates the job; in SECURE mode the job gets its key index besides. -/
theorem writeJctl_creates (hmin : s.minimal = false) (hold : (s.ctlReg d (4 * j)).getLsbD 0 = false)
    (hb : b.getLsbD 0 = true) :
    ∃ keys, s.writeJctl d j b = (withJctl s d j b keys).openJob d j := by
  simp only [State.writeJctl, State.jobChange, bitOf, hmin, hold, hb]
  by_cases hsecure : (s.setCtlReg d (4 * j) (jctlWritten (s.ctlReg d (4 * j)) b)).secureMode = true
  · exact ⟨_, congrArg (State.openJob · d j) (if_pos hsecure)⟩
  · exact ⟨_, congrArg (State.openJob · d j) (if_neg hsecure)⟩

/-- A write of V = 1 over V = 1 stores the writable fields. -/
theorem writeJctl_rewrites (hmin : s.minimal = false) (hold : (s.ctlReg d (4 * j)).getLsbD 0 = true)
    (hb : b.getLsbD 0 = true) : s.writeJctl d j b = s.setCtlReg d (4 * j) (jctlWritten (s.ctlReg d (4 * j)) b) := by
  simp only [State.writeJctl, State.jobChange, bitOf, hmin, hold, hb]
  rfl

/-- A write of V = 0 is ignored while the job holds a region of the die. -/
theorem writeJctl_ignored (hmin : s.minimal = false) (hold : (s.ctlReg d (4 * j)).getLsbD 0 = true)
    (hb : b.getLsbD 0 = false) (hholds : s.jobHolds d j = true) : s.writeJctl d j b = s := by
  simp only [State.writeJctl, bitOf, hmin, hold, hb, hholds]
  rfl

/-- A job created is answered for, its JCTL has PHASE and CLOSING 0, and its two counters are open. -/
theorem jobCreated {p : Nat} {r : Req} (hj : j < 256) (hmin : s.minimal = false)
    (hold : (s.ctlReg d (4 * j)).getLsbD 0 = false) (hb : r.b.getLsbD 0 = true) :
    let t := (s.writeJctl d j r.b).ctlDone p r
    Answered s t p r [0] ∧ RegisterSet s t d (4 * j) ((r.b &&& 0x100006) ||| 1) ∧
      (t.counter d (cKey 4 0 j)).isOpen = true ∧ (t.counter d (cKey 3 j 0)).isOpen = true := by
  obtain ⟨keys, hwrite⟩ := writeJctl_creates hmin hold hb
  have hset := registerSet_trans (registerSet_withJctl s d j r.b keys) (registerSet_openJob _ d j)
  rw [(registerSet_withJctl s d j r.b keys).1, jctlWritten_opened] at hset
  obtain ⟨hjob, hphase⟩ := openJob_counters (withJctl s d j r.b keys) d hj
  have hport : portOf p ((withJctl s d j r.b keys).openJob d j) = portOf p s := portOf_openJob ..
  obtain ⟨hanswer, hregs⟩ := answered_and_registerSet (r := r) hport hset
  rw [hwrite]
  exact ⟨hanswer, hregs, (congrArg _ (counter_ctlDone ..)).trans hjob, (congrArg _ (counter_ctlDone ..)).trans hphase⟩

/-- When a write of JKEYS is ignored, said of the keys and of the other jobs (15 R403). -/
theorem jkeysIgnored_iff : s.jkeysIgnored d j b = true ↔
    4096 < fldN b 0 12 + fldN b 16 13 ∨
      (∃ i, i < 256 ∧ i ≠ j ∧ (s.ctlReg d (4 * i)).getLsbD 0 = true ∧ rangesMeet b (s.ctlReg d (4 * i + 1)) = true) ∨
      (∃ x ∈ (s.die d).keys, x.2.st ≠ .free ∧ s.keyInRange d j x.1 = true) := by
  simp only [State.jkeysIgnored, Bool.or_eq_true, decide_eq_true_eq, List.any_eq_true, List.mem_range, Bool.and_eq_true,
    bne_iff_ne, State.jobExists, bitOf, and_assoc, or_assoc, gt_iff_lt]

end

/-- Settles O33, by the row of each register of the job. -/
theorem jobRegisters : Obligations.JobRegisters := by
  intro s p k n r h hmin hn
  refine ⟨fun hrow hold hb => ?_, fun hrow hold hb => ?_, fun hrow hold hb hholds => ?_, fun hrow => ?_, fun hrow => ?_,
    fun hrow => ⟨_, exec_jquotaWrite h hn hrow, answered_and_registerSet rfl (registerSet_setCtlReg ..)⟩⟩
  case' refine_1 | refine_2 | refine_3 =>
    obtain ⟨j, rfl⟩ : ∃ j, n = 4 * j := ⟨n / 4, by omega⟩
  · rw [Nat.mul_div_cancel_left j (by decide)]
    exact ⟨_, exec_jctlWrite h hn, jobCreated (by omega) hmin hold hb⟩
  · refine ⟨_, exec_jctlWrite h hn, ?_⟩
    rw [writeJctl_rewrites hmin hold hb]
    exact answered_and_registerSet rfl (registerSet_setCtlReg ..)
  · refine ⟨_, exec_jctlWrite h hn, ?_⟩
    rw [Nat.mul_div_cancel_left j (by decide)] at hholds
    rw [writeJctl_ignored hmin hold hb hholds]
    exact answered_and_registerSet rfl (registerSet_self ..)
  · refine ⟨fun hbad => ⟨_, exec_jkeysWrite h hn hrow, ?_⟩, fun hgood => ⟨_, exec_jkeysWrite h hn hrow, ?_⟩⟩
    · rw [if_pos (jkeysIgnored_iff.mpr hbad)]
      exact answered_and_registerSet rfl (registerSet_self ..)
    · rw [if_neg (mt jkeysIgnored_iff.mp hgood)]
      exact answered_and_registerSet rfl (registerSet_setCtlReg ..)
  · refine ⟨fun htaken => ⟨_, exec_jtrustWrite h hn hrow, ?_⟩, fun hne hsecure => ⟨_, exec_jtrustWrite h hn hrow, ?_⟩⟩
    · rw [if_neg fun ⟨hne, hsecure⟩ => htaken.elim hne fun hon => Bool.noConfusion (hsecure.symm.trans hon)]
      exact answered_and_registerSet rfl (registerSet_setCtlReg ..)
    · rw [if_pos ⟨hne, hsecure⟩]
      exact answered_and_registerSet rfl (registerSet_self ..)

end Sys2Proof.Laws
end
